-- ==== Sys2Proof/Word.lean ====
section
/-! DEFINITION. The value types of the 2412: words, bytes and the wrapping numbers of its Conventions (00_scope.md). -/

namespace Sys2Proof

/-- A word is 4 bytes (00_scope.md, Words and lengths). -/
abbrev Word := BitVec 32

/-- One byte of a cell. -/
abbrev Byte := BitVec 8

/-- A station address: 1 to 254, 0 for "none" (00_scope.md, Numbering). -/
abbrev Station := BitVec 8

/-- A round number: 0 to 127, and 0 follows 127 (00_scope.md, Numbering). -/
abbrev Round := BitVec 7

/-- A request's sequence number (R134). -/
abbrev Seq := BitVec 8

end Sys2Proof
end

