-- ==== Sys2Proof/Syntax.lean ====
section
/-! DEFINITION. The commands of the 2412, one constructor per row of spec/opcode_table.json, with their operands. -/

namespace Sys2Proof

/-- The two ports (00_scope.md): U follows the backbone, L leads the local link. -/
inductive Port where
  | u
  | l
  deriving DecidableEq, Repr

/-- How a transmission ends (R15). -/
inductive TxEnd where
  | clean
  | disturbed
  | aborted
  deriving DecidableEq, Repr

/-- The two roles of a bank of plan memory (R52). -/
inductive BankRole where
  | active
  | staged
  deriving DecidableEq, Repr

/-- A record of a bank, by kind and number (4.1: 64 mailbox definitions, 8 queue definitions, 128 capture
entries and 128 emit entries). -/
inductive RecordRef where
  | mailbox (n : Fin 64)
  | queue (n : Fin 8)
  | capture (n : Fin 128)
  | emit (n : Fin 128)
  deriving DecidableEq, Repr

/-- A request to the bridge (R134, 12.2): the port it arrived on, its source station, its sequence number,
selector and operand words. -/
structure Request where
  port : Port
  station : Station
  seq : Seq
  selector : BitVec 16
  operands : List Word
  deriving DecidableEq, Repr

/-- The commands: one constructor per row of the table. The table gives no operands; log entry 8 says how these
were chosen. -/
inductive Instr where
  /-- Supply is applied or RESETN is released; `strap` is what STA0 to STA5 read (R18, R169). -/
  | powerOn (strap : BitVec 6)
  | resetnLow
  /-- A header of 8 bytes (byte 0 in bits 63 to 56, Table 12-1) arrives with its window report (R3, R8). -/
  | cellArrival (p : Port) (header : BitVec 64) (inWindow : Bool)
  /-- The payload words and the payload check of the accepted cell have arrived (R6, R9). -/
  | payloadComplete (p : Port) (payload : List Word) (check : BitVec 16)
  | slotStart (p : Port)
  | slotEnd (p : Port)
  | transmissionEnd (p : Port) (e : TxEnd)
  | uRoundStart
  | lockLapse
  | alignmentDue
  | lRoundStart
  | mailboxBecomesStale (n : Fin 64)
  | claimTimeout
  | noticeDue (id : BitVec 8)
  | commitSwap
  | checkComplete
  | linkStartU
  | linkStartL
  | bridgeRestart
  /-- `alreadyRead`: a check in progress has read this record before (R75). Log entry 6. -/
  | planRecordDisturbed (role : BankRole) (ref : RecordRef) (alreadyRead : Bool)
  /-- `placed`: an open capture write has placed its word at this position already (R107). Log entry 5. -/
  | storeWordDisturbed (word : BitVec 12) (placed : Bool)
  | ping (r : Request)
  | claim (r : Request)
  | release (r : Request)
  | readStatus (r : Request)
  | readProfile (r : Request)
  | readSettings (r : Request)
  | readCounters (r : Request)
  | readRecord (r : Request)
  | readMailbox (r : Request)
  | readQueue (r : Request)
  | readNotices (r : Request)
  | writeProfile (r : Request)
  | writeSettings (r : Request)
  | restartLink (r : Request)
  | clearCounters (r : Request)
  | stageClear (r : Request)
  | stageCopy (r : Request)
  | writeRecord (r : Request)
  | eraseRecord (r : Request)
  | check (r : Request)
  | commit (r : Request)
  | cancelCommit (r : Request)
  | start (r : Request)
  | halt (r : Request)
  | inject (r : Request)
  | drainQueue (r : Request)
  | ackNotice (r : Request)
  | restart (r : Request)
  deriving DecidableEq, Repr

end Sys2Proof
end

