-- ==== Sys2Proof/Decode.lean ====
section
/-! DEFINITION. The commands that a word of the opcode table spells. -/

namespace Sys2Proof

/-- spec/opcode_table.json gives no row any bits ("fields": [] throughout, no "fixed"), so no word spells a
command. Requests are decoded from the words of a REQUEST cell (12.2) in Machine/Operands.lean and
Machine/Requests.lean. Log entry 16. -/
def decodeTableWord (_nbits _w : Nat) : Option Instr := none

end Sys2Proof
end

