-- ==== Sys2Proof/Config.lean ====
section
/-! DEFINITION. The free values of the model: what the manual leaves open, as opaque constants that no proof can see into. -/

namespace Sys2Proof

/-- What one word of the buffer store holds (R105): its content with a good parity condition, or a failed
condition. A read of a failed word gives no payload, so no content is kept with it. -/
inductive StoreWord where
  | good (w : Word)
  | failed
  deriving DecidableEq, Repr, Inhabited

/-- The order in which the buffer store (aging), the management agent (idle counts and the claim) and the plan
memory (commit swap) act at one L round start: R49, R111 and R165 allow each. -/
inductive RoundOrder where
  | agingAgentSwap
  | agingSwapAgent
  | agentAgingSwap
  | agentSwapAging
  | swapAgingAgent
  | swapAgentAging
  deriving DecidableEq, Repr, Inhabited

/-- R105: "After power-on the contents and parity conditions of all words are undefined." The content and
condition of word `a`, not written since the power-on numbered `epoch`. Log entry 2. -/
opaque Config.unwrittenWord (epoch a : Nat) : StoreWord

/-- Which of two effects that one event brings about together is taken first, at the free choice numbered `k`
(R32, R131 "taken together"; R165 "either may be taken first"). Log entry 4. -/
opaque Config.takenFirst (k : Nat) : Bool

/-- The order of the blocks at an L round start, at the free choice numbered `k` (R49, R111). Log entry 4. -/
opaque Config.roundOrder (k : Nat) : RoundOrder

/-- R107: the words of a cell are placed "in order as they arrive". The words that had arrived when an open write was
given up before its payload-complete event, at the free choice numbered `k`: the row of an arrival carries the header
alone, so how many had arrived, and which, is open. Log entry 5. -/
opaque Config.arrivedWords (k : Nat) : List Word

/-- Bits 15 and 14 (port or bank) of the record reference in a fault word: the record reference names a kind and
a number (R71, Table 5-2), and 12.3 does not say what stands in the two bits above them. Log entry 11. -/
opaque Config.faultReferenceBank : BitVec 2

end Sys2Proof
end

