-- ==== Sys2Proof/Machine/State.lean ====
section
/-! DEFINITION. The state of the 2412 as plain data, and the state after reset (power-on, R169). -/

namespace Sys2Proof.Machine

/-- The manual gives no condition that stops the part: failures are answered by records, statuses, counters and
notices. So nothing raises a fault, and there is none. -/
inductive Fault where
  deriving DecidableEq, Repr

/-- Why a command is refused. No meaning of this model refuses one. -/
inductive Refusal where
  /-- Raised by an arm of `exec` whose command has no meaning yet (none). Safe: the machine stops. -/
  | notModelled (mnemonic : String)
  deriving DecidableEq, Repr

/-- One value for each port. -/
structure PerPort (α : Type) where
  u : α
  l : α
  deriving DecidableEq, Repr

/-- The value of port `p`. -/
def PerPort.get {α : Type} (x : PerPort α) : Port → α
  | .u => x.u
  | .l => x.l

/-- The same pair with the value of port `p` replaced. -/
def PerPort.set {α : Type} (x : PerPort α) (p : Port) (v : α) : PerPort α :=
  match p with
  | .u => { x with u := v }
  | .l => { x with l := v }

/-! ## Profiles and settings -/

/-- The fields of a U profile (Table 2-1, R18). Lengths and limits are counts. -/
structure UProfile where
  enabled : Bool
  station : Station
  slotCount : Nat
  slotLength : Nat
  responseSlot : Nat
  lapseLimit : Nat
  confirmQuorum : Nat
  timingStations : List Station
  noticeTarget : Station
  deriving DecidableEq, Repr

/-- The fields of an L profile (Table 3-1, R37). -/
structure LProfile where
  enabled : Bool
  station : Station
  slotCount : Nat
  slotLength : Nat
  beaconSlot : Nat
  responseSlot : Nat
  tieEnabled : Bool
  tieOffset : Nat
  noticeTarget : Station
  deriving DecidableEq, Repr

/-- The settings record (R158). -/
structure Settings where
  claimTimeout : BitVec 8
  repeatInterval : BitVec 8
  deriving DecidableEq, Repr

/-- The strap value + 1, the power-up default of the station addresses and of the U response slot (R18, R37). -/
def strapStation (strap : BitVec 6) : Station := BitVec.ofNat 8 (strap.toNat + 1)

/-- The power-up defaults of Table 2-1. -/
def UProfile.powerUp (strap : BitVec 6) : UProfile :=
  { enabled := true, station := strapStation strap, slotCount := 64, slotLength := 10,
    responseSlot := strap.toNat + 1, lapseLimit := 4, confirmQuorum := 1, timingStations := [],
    noticeTarget := 0 }

/-- The power-up defaults of Table 3-1. -/
def LProfile.powerUp (strap : BitVec 6) : LProfile :=
  { enabled := true, station := strapStation strap, slotCount := 64, slotLength := 10,
    beaconSlot := 1, responseSlot := 2, tieEnabled := true, tieOffset := 0, noticeTarget := 0 }

/-- The power-up defaults of R158. -/
def Settings.powerUp : Settings := { claimTimeout := 64, repeatInterval := 16 }

/-! ## Timing records -/

/-- The states of the uplink timing (R21). -/
inductive UState where
  | off
  | seek
  | align
  | confirm
  | locked
  deriving DecidableEq, Repr

/-- The uplink timing record (R21). `slot` is the current U slot, none between slots and while unknown; `lastSlot`
is the slot of the round in progress whose start was taken (or that was adopted) last, 0 before slot 1: the
position of the timer of R26. Log entry 3. -/
structure UplinkRecord where
  state : UState
  round : Option Round
  slot : Option Nat
  lastSlot : Nat
  adoptionRound : Bool
  consistentSeen : Bool
  confirmSet : List Station
  consistentTally : BitVec 8
  discordantTally : BitVec 8
  missCount : Nat
  deriving DecidableEq, Repr

/-- The values of R21 at power-on, bridge restart and every link start of U. -/
def UplinkRecord.atStart (enabled : Bool) : UplinkRecord :=
  { state := if enabled then .seek else .off, round := none, slot := none, lastSlot := 0,
    adoptionRound := false, consistentSeen := false, confirmSet := [],
    consistentTally := 0, discordantTally := 0, missCount := 0 }

/-- The states of the local timing (R41). -/
inductive LState where
  | off
  | untied
  | tying
  | tied
  deriving DecidableEq, Repr

/-- A pending alignment (R45): the U round number it carries, its due moment (so many units after the start of
that U round), and whether it has fallen due and is held (R46, R47). -/
structure Alignment where
  round : Round
  offset : Nat
  held : Bool
  deriving DecidableEq, Repr

/-- The local timing record (R41), with the position of the local timer (`lastSlot`, as in `UplinkRecord`). -/
structure LocalRecord where
  state : LState
  round : Option Round
  running : Bool
  slot : Option Nat
  lastSlot : Nat
  pending : Option Alignment
  deriving DecidableEq, Repr

/-- A local timing record in `state` at which L round `n` has just started (R50, R42). -/
def LocalRecord.roundStarted (state : LState) (n : Round) : LocalRecord :=
  { state, round := some n, running := true, slot := none, lastSlot := 0, pending := none }

/-- The local timing record of a disabled port L (R41). -/
def LocalRecord.disabled : LocalRecord :=
  { state := .off, round := none, running := false, slot := none, lastSlot := 0, pending := none }

/-! ## Cells -/

/-- The six cell kinds (Table 1-2). -/
inductive CellKind where
  | data
  | void
  | beacon
  | request
  | response
  | notice
  deriving DecidableEq, Repr

/-- The fields of a legal header (Table 1-1), less its check. -/
structure Header where
  kind : CellKind
  stale : Bool
  round : Round
  slot : Nat
  source : Station
  dest : Station
  length : Nat
  deriving DecidableEq, Repr

/-- A cell the bridge sends: header and payload words. The port computes both checks as it sends (R14, R174). -/
structure Cell where
  header : Header
  payload : List Word
  deriving DecidableEq, Repr

/-- A reception in progress (1.4): the accepted header with the slot, round and window report the port keeps from
the header-accepted event (2.3), and whether the port delivered cells of its kind at that event (R10). -/
structure Reception where
  header : Header
  slotAt : Option Nat
  roundAt : Option Round
  inWindow : Bool
  deliverable : Bool
  deriving DecidableEq, Repr

/-- What the port keeps of the current slot: whether a header was accepted in it (R7, R11) and whether its slot
start loaded the transmit buffer (R7, R11). -/
structure SlotFlags where
  accepted : Bool
  sent : Bool
  deriving DecidableEq, Repr

/-- Neither mark. -/
def SlotFlags.clear : SlotFlags := { accepted := false, sent := false }

/-- The six counters of a port (R17). -/
structure Counters where
  good : BitVec 16
  malformed : BitVec 16
  misplaced : BitVec 16
  late : BitVec 16
  disturbed : BitVec 16
  droppedRequests : BitVec 16
  deriving DecidableEq, Repr

/-- All six counters 0. -/
def Counters.zero : Counters :=
  { good := 0, malformed := 0, misplaced := 0, late := 0, disturbed := 0, droppedRequests := 0 }

/-! ## Plan records -/

/-- A round set: period and phase (00_scope.md, R59). -/
structure RoundSet where
  period : Nat
  phase : Nat
  deriving DecidableEq, Repr

/-- Read mode of a mailbox (Table 4-1). -/
inductive ReadMode where
  | keep
  | take
  deriving DecidableEq, Repr

/-- A mailbox definition (Table 4-1, R55). -/
structure MailboxDef where
  base : Nat
  capacity : Nat
  readMode : ReadMode
  staleLimit : BitVec 8
  notifyStale : Bool
  deriving DecidableEq, Repr

/-- Full policy of a queue (Table 4-2). -/
inductive FullPolicy where
  | dropNewest
  | replaceOldest
  deriving DecidableEq, Repr

/-- A queue definition (Table 4-2, R56). -/
structure QueueDef where
  base : Nat
  capacity : Nat
  depth : Nat
  fullPolicy : FullPolicy
  retryLimit : Nat
  deriving DecidableEq, Repr

/-- The mailbox or queue that an entry names as target or source (Tables 4-3 and 4-4). -/
inductive Place where
  | mailbox (n : Fin 64)
  | queue (n : Fin 8)
  deriving DecidableEq, Repr

/-- A capture entry (Table 4-3, R57). -/
structure CaptureEntry where
  port : Port
  slot : Nat
  rounds : RoundSet
  target : Place
  acceptFrom : Station
  deriving DecidableEq, Repr

/-- On-empty policy of an emit entry (Table 4-4). -/
inductive OnEmpty where
  | void
  | silent
  deriving DecidableEq, Repr

/-- On-stale policy of an emit entry (Table 4-4). -/
inductive OnStale where
  | sendMarked
  | void
  | silent
  deriving DecidableEq, Repr

/-- Origin of an emit entry (Table 4-4). -/
inductive Origin where
  | preserve
  | self
  deriving DecidableEq, Repr

/-- An emit entry (Table 4-4, R58). -/
structure EmitEntry where
  port : Port
  slot : Nat
  rounds : RoundSet
  source : Place
  onEmpty : OnEmpty
  onStale : OnStale
  origin : Origin
  deriving DecidableEq, Repr

/-- A stored record (4.2, 4.7): its fields when it is defined, and its parity condition (R69). -/
structure Stored (α : Type) where
  fields : Option α
  parityGood : Bool
  deriving DecidableEq, Repr

/-- An undefined record with good parity (R52). -/
def Stored.undefined {α : Type} : Stored α := { fields := none, parityGood := true }

/-- One bank of plan memory (4.1). -/
structure Bank where
  mailboxes : Vector (Stored MailboxDef) 64
  queues : Vector (Stored QueueDef) 8
  captures : Vector (Stored CaptureEntry) 128
  emits : Vector (Stored EmitEntry) 128
  deriving DecidableEq, Repr

/-- The bank in which every record is undefined, with good parity (R52, R67). -/
def Bank.empty : Bank :=
  { mailboxes := Vector.replicate 64 .undefined, queues := Vector.replicate 8 .undefined,
    captures := Vector.replicate 128 .undefined, emits := Vector.replicate 128 .undefined }

/-- Capture outcomes other than NONE (R63). -/
inductive CaptureOutcome where
  | received
  | truncated
  | void
  | invalid
  | empty
  | foreign
  | dropped
  deriving DecidableEq, Repr

/-- Emit outcomes other than NONE (R63). -/
inductive EmitOutcome where
  | sent
  | sentStale
  | voidSent
  | silent
  | fault
  | disturbed
  | aborted
  deriving DecidableEq, Repr

/-- The fault codes of the checker (Table 5-2). -/
inductive FaultCode where
  | parity
  | regionRange
  | regionOverlap
  | noTarget
  | slotRange
  | reservedSlot
  | captureOverlap
  | emitOverlap
  | selfSlot
  | mixedIngress
  | mixedEgress
  deriving DecidableEq, Repr

/-- The five figures the checker copies from the stored profiles (R72). -/
structure CheckFigures where
  uSlotCount : Nat
  uResponseSlot : Nat
  lSlotCount : Nat
  lBeaconSlot : Nat
  lResponseSlot : Nat
  deriving DecidableEq, Repr

/-- A party: a port and a source station (R134). -/
structure PartyId where
  port : Port
  station : Station
  deriving DecidableEq, Repr

/-- The staged check state (R71). While CHECKING it carries the party, the copied figures (R72) and the records
whose parity failed only after the checker had read them (R75; log entry 6). -/
inductive CheckState where
  | unchecked
  | checking (party : PartyId) (figures : CheckFigures) (readBefore : List RecordRef)
  | passed
  | failed (fault : FaultCode) (ref : RecordRef)
  | commitPending
  deriving DecidableEq, Repr

/-! ## Buffer store -/

/-- The words of the buffer store written since power-on, in rising order of word number (R105). -/
abbrev Store := List (Nat × StoreWord)

/-- Mailbox states (Table 7-2). -/
inductive MailboxState where
  | empty
  | fresh
  | stale
  | spent
  | faulted
  deriving DecidableEq, Repr

/-- The two halves of a mailbox (R55). -/
inductive Half where
  | a
  | b
  deriving DecidableEq, Repr

/-- A mailbox runtime record (Table 7-1, R106). -/
structure MailboxRt where
  state : MailboxState
  half : Half
  openWrite : Option Port
  length : Nat
  source : Option Station
  round : Option Round
  age : BitVec 8
  truncated : Bool
  tag : BitVec 8
  deriving DecidableEq, Repr

/-- The power-up values of R106. -/
def MailboxRt.reset : MailboxRt :=
  { state := .empty, half := .a, openWrite := none, length := 0, source := none, round := none,
    age := 0, truncated := false, tag := 0 }

/-- A queue entry (Table 7-3); its payload stands in the queue's region. -/
structure QueueEntry where
  length : Nat
  source : Station
  round : Round
  truncated : Bool
  deriving DecidableEq, Repr

/-- A queue runtime record (Table 7-3, R115). `headPos` is the ring position of the oldest entry (7.4: "internal
to the buffer store"; log entry 7); entry `i` stands `i` positions after it. -/
structure QueueRt where
  entries : List QueueEntry
  headInFlight : Option Port
  attempts : Nat
  drained : Bool
  headPos : Nat
  deriving DecidableEq, Repr

/-- The power-up values of R115. -/
def QueueRt.reset : QueueRt :=
  { entries := [], headInFlight := none, attempts := 0, drained := false, headPos := 0 }

/-! ## Contexts of capture and emit -/

/-- The mark a commit swap puts on a context or transmission that spans it (R87, R90). -/
inductive SwapMark where
  | none
  | carried
  | cut
  deriving DecidableEq, Repr

/-- The target of a reception context with the figures kept from the lookup (Table 6-1). The mode is the target's:
MAILBOX WRITE OPEN for a mailbox, QUEUE CELL HELD for a queue. `spoiled` lists the words of the open write that
were disturbed after their placing (log entry 5). -/
inductive CaptureTarget where
  | mailbox (n : Fin 64) (base capacity : Nat) (spoiled : List Nat)
  | queue (n : Fin 8) (base capacity depth : Nat) (policy : FullPolicy)
  deriving DecidableEq, Repr

/-- A reception context (Table 6-1, R92). -/
structure CaptureContext where
  entry : Fin 128
  round : Round
  target : CaptureTarget
  mark : SwapMark
  deriving DecidableEq, Repr

/-- The source effect kept with a transmission (Table 8-1). `depth` is the length of the queue's ring at the
lookup (log entry 7). -/
inductive SourceEffect where
  | mailbox (n : Fin 64) (tag : BitVec 8) (mode : ReadMode)
  | queue (n : Fin 8) (depth retryLimit : Nat)
  | none
  deriving DecidableEq, Repr

/-- An emit transmission record (Table 8-1, R124). The cell is DATA exactly when `void` is false. -/
structure EmitRecord where
  entry : Fin 128
  round : Round
  void : Bool
  effect : SourceEffect
  intended : EmitOutcome
  mark : SwapMark
  deriving DecidableEq, Repr

/-! ## Management -/

/-- The status codes (Table 9-3). -/
inductive Status where
  | ok
  | pending
  | held
  | unclaimed
  | busy
  | notChecked
  | range
  | undefined
  | state
  | unknown
  | abandoned
  | failed
  deriving DecidableEq, Repr

/-- What a response says (12.2): status, echoed sequence number, echoed request code, result words. -/
structure Reply where
  status : Status
  seq : Seq
  code : BitVec 8
  results : List Word
  deriving DecidableEq, Repr

/-- A restart mark (R148). -/
inductive RestartMark where
  | bridge
  | link (p : Port)
  deriving DecidableEq, Repr

/-- A response waiting in a response queue (R145). -/
structure Response where
  station : Station
  reply : Reply
  mark : Option RestartMark
  deriving DecidableEq, Repr

/-- A party record (Table 9-1, R135). -/
structure Party where
  id : PartyId
  lastSeq : Option Seq
  cached : Option Reply
  outstanding : Option Seq
  idle : BitVec 8
  deriving DecidableEq, Repr

/-! ## Notices -/

/-- Notice kinds (Table 11-1). -/
inductive NoticeKind where
  | started
  | lockGained
  | lockLost
  | tieGained
  | tieLost
  | commitDone
  | claimExpired
  | queueOverrun
  | queueDiscard
  | collision
  | storeParity
  | planParity
  | mailboxStale
  deriving DecidableEq, Repr

/-- Notice subjects (11.1). -/
inductive Subject where
  | none
  | mailbox (n : Fin 64)
  | queue (n : Fin 8)
  | emit (n : Fin 128)
  | record (role : BankRole) (ref : RecordRef)
  deriving DecidableEq, Repr

/-- A notice entry (Table 11-2). -/
structure Notice where
  id : BitVec 8
  kind : NoticeKind
  subject : Subject
  count : BitVec 8
  firstRound : Round
  lastRound : Round
  countdown : BitVec 8
  sentEver : Bool
  deriving DecidableEq, Repr

/-- The notice unit (R164): the queue oldest first, the next-id counter, the overflow flag. -/
structure NoticeUnit where
  entries : List Notice
  nextId : BitVec 8
  overflow : Bool
  deriving DecidableEq, Repr

/-- The notice unit after power-on and bridge restart: one entry, STARTED (R164). -/
def NoticeUnit.started : NoticeUnit :=
  { entries := [{ id := 0, kind := .started, subject := .none, count := 1, firstRound := 0, lastRound := 0,
                  countdown := 0, sentEver := false }],
    nextId := 1, overflow := false }

/-- The forwarding state (R121). -/
inductive Forwarding where
  | halted
  | forwarding
  deriving DecidableEq, Repr

/-! ## The state -/

/-- The state of the part and the queue of waiting commands. -/
structure State where
  /-- RESETN is held low (R169). -/
  resetnLow : Bool
  /-- The strap value sampled at the last power-on (R18, R153). -/
  strap : BitVec 6
  uStored : UProfile
  uInUse : UProfile
  lStored : LProfile
  lInUse : LProfile
  uTime : UplinkRecord
  lTime : LocalRecord
  /-- The reception in progress on each port (R7). -/
  rx : PerPort (Option Reception)
  /-- The transmit buffer of each port: the cell in flight (R14). -/
  tx : PerPort (Option Cell)
  slotFlags : PerPort SlotFlags
  counters : PerPort Counters
  responses : PerPort (List Response)
  /-- The reception context of each port (R92). -/
  contexts : PerPort (Option CaptureContext)
  /-- The emit transmission record of each port (R124). -/
  emitRecords : PerPort (Option EmitRecord)
  active : Bank
  staged : Bank
  captureOutcomes : Vector (Option (CaptureOutcome × Round)) 128
  emitOutcomes : Vector (Option (EmitOutcome × Round)) 128
  generation : BitVec 16
  checkState : CheckState
  store : Store
  /-- The model's own: how many power-ons there were, the index of the free contents of unwritten words. -/
  storeEpoch : Nat
  mailboxes : Vector MailboxRt 64
  queues : Vector QueueRt 8
  forwarding : Forwarding
  parties : Vector (Option Party) 8
  claim : Option PartyId
  settings : Settings
  notices : NoticeUnit
  /-- The model's own: how many free choices were taken (log entry 4). -/
  choice : Nat
  /-- The commands that wait, first in, first out. -/
  pending : List Instr
  deriving DecidableEq, Repr

/-- The whole part just started (power-on, R169, or bridge restart, R148) with these stored profiles, settings and
store: every other quantity at the value its own chapter gives after a start, both link starts taken (R22, R50),
STARTED raised (R164). Round 0 of port L starts in this event; no mailbox is FRESH, no party stands, no commit is
pending and the one notice has countdown 0, so that round start changes nothing else (R49). -/
def State.started (strap : BitVec 6) (u : UProfile) (l : LProfile) (settings : Settings) (store : Store)
    (storeEpoch choice : Nat) (pending : List Instr) : State :=
  { resetnLow := false, strap,
    uStored := u, uInUse := u, lStored := l, lInUse := l,
    uTime := .atStart u.enabled,
    lTime := if l.enabled then .roundStarted .untied 0 else .disabled,
    rx := ⟨none, none⟩, tx := ⟨none, none⟩,
    slotFlags := ⟨.clear, .clear⟩, counters := ⟨.zero, .zero⟩, responses := ⟨[], []⟩,
    contexts := ⟨none, none⟩, emitRecords := ⟨none, none⟩,
    active := .empty, staged := .empty,
    captureOutcomes := Vector.replicate 128 none, emitOutcomes := Vector.replicate 128 none,
    generation := 0, checkState := .unchecked,
    store, storeEpoch,
    mailboxes := Vector.replicate 64 .reset, queues := Vector.replicate 8 .reset,
    forwarding := .halted,
    parties := Vector.replicate 8 none, claim := none, settings,
    notices := .started, choice, pending }

/-- The machine right after reset: the power-on of R169 with both profiles and the settings at their power-up
defaults, an empty store list, an empty queue, and strap value 0 (log entry 1). -/
def State.reset : State :=
  State.started 0 (.powerUp 0) (.powerUp 0) .powerUp [] 0 0 []

end Sys2Proof.Machine
end

