-- ==== Sys2Proof/Machine/Ops.lean ====
section
/-! DEFINITION. The named operations that the meanings share: saturating counts, free choices, updates of one port's
state, the buffer store's words, mailbox and queue records, notices, response queues. -/

namespace Sys2Proof.Machine

/-! ## Numbers -/

/-- One more, and the largest value stays (R17, R21, R106, R135, R165). -/
def satInc {n : Nat} (x : BitVec n) : BitVec n := if x = BitVec.allOnes n then x else x + 1

/-- One less, and 0 stays (R166). -/
def satDec {n : Nat} (x : BitVec n) : BitVec n := if x = 0 then x else x - 1

/-! ## Updates of one part of the state -/

def State.withRx (s : State) (p : Port) (v : Option Reception) : State := { s with rx := s.rx.set p v }

def State.withTx (s : State) (p : Port) (v : Option Cell) : State := { s with tx := s.tx.set p v }

def State.withFlags (s : State) (p : Port) (v : SlotFlags) : State := { s with slotFlags := s.slotFlags.set p v }

def State.withCounters (s : State) (p : Port) (v : Counters) : State := { s with counters := s.counters.set p v }

def State.withResponses (s : State) (p : Port) (v : List Response) : State :=
  { s with responses := s.responses.set p v }

def State.withContext (s : State) (p : Port) (v : Option CaptureContext) : State :=
  { s with contexts := s.contexts.set p v }

def State.withEmitRecord (s : State) (p : Port) (v : Option EmitRecord) : State :=
  { s with emitRecords := s.emitRecords.set p v }

def State.withMailbox (s : State) (n : Fin 64) (v : MailboxRt) : State :=
  { s with mailboxes := s.mailboxes.set n.val v }

def State.withQueue (s : State) (n : Fin 8) (v : QueueRt) : State := { s with queues := s.queues.set n.val v }

def State.withParty (s : State) (i : Fin 8) (v : Option Party) : State := { s with parties := s.parties.set i.val v }

def State.withUTime (s : State) (v : UplinkRecord) : State := { s with uTime := v }

def State.withLTime (s : State) (v : LocalRecord) : State := { s with lTime := v }

def State.withNotices (s : State) (v : NoticeUnit) : State := { s with notices := v }

def State.withStore (s : State) (v : Store) : State := { s with store := v }

def State.withCheck (s : State) (v : CheckState) : State := { s with checkState := v }

def State.withClaim (s : State) (v : Option PartyId) : State := { s with claim := v }

/-- Record a capture outcome with its round; each new outcome replaces the last (R63). -/
def State.recordCapture (s : State) (n : Fin 128) (o : CaptureOutcome) (r : Round) : State :=
  { s with captureOutcomes := s.captureOutcomes.set n.val (some (o, r)) }

/-- Record an emit outcome with its round (R63). -/
def State.recordEmit (s : State) (n : Fin 128) (o : EmitOutcome) (r : Round) : State :=
  { s with emitOutcomes := s.emitOutcomes.set n.val (some (o, r)) }

/-! ## Free choices -/

/-- Two effects of one event in either order: a free choice (Config.takenFirst) says which is taken first. -/
def either (f g : State → State) (s : State) : State :=
  let s' := { s with choice := s.choice + 1 }
  if Config.takenFirst s.choice then g (f s') else f (g s')

/-! ## Ports -/

/-- The bridge's address on P: the station address of the in-use profile (R1). -/
def State.address (s : State) : Port → Station
  | .u => s.uInUse.station
  | .l => s.lInUse.station

/-- The response slot in use on P. -/
def State.responseSlot (s : State) : Port → Nat
  | .u => s.uInUse.responseSlot
  | .l => s.lInUse.responseSlot

/-- The notice target in use on P (R19, R38). -/
def State.noticeTarget (s : State) : Port → Station
  | .u => s.uInUse.noticeTarget
  | .l => s.lInUse.noticeTarget

/-- The slot count in use on P (R2). -/
def State.slotCount (s : State) : Port → Nat
  | .u => s.uInUse.slotCount
  | .l => s.lInUse.slotCount

/-- The port is OFF (R4): it neither receives nor transmits and takes no slot events. -/
def State.portOff (s : State) : Port → Bool
  | .u => s.uTime.state = .off
  | .l => s.lTime.state = .off

/-- Port U is LOCKED. -/
def State.locked (s : State) : Bool := s.uTime.state = .locked

/-- The current slot of P, if one is current (R2, R4, R21, R41). -/
def State.currentSlot (s : State) : Port → Option Nat
  | .u => s.uTime.slot
  | .l => s.lTime.slot

/-- The current round of P, if it is known (R4, R21, R41). -/
def State.currentRound (s : State) : Port → Option Round
  | .u => s.uTime.round
  | .l => s.lTime.round

/-- The slot whose start port P took last in the round in progress (log entry 3). -/
def State.lastSlot (s : State) : Port → Nat
  | .u => s.uTime.lastSlot
  | .l => s.lTime.lastSlot

/-- The port's timing function runs slots at all: U in ALIGN, CONFIRM and LOCKED, L while not OFF (R4). -/
def State.placementApplies (s : State) : Port → Bool
  | .u => s.uTime.state = .align || s.uTime.state = .confirm || s.uTime.state = .locked
  | .l => s.lTime.state ≠ .off

/-- The port delivers DATA, VOID and REQUEST cells beyond itself: U while LOCKED, L with a current slot (R10). -/
def State.delivers (s : State) : Port → Bool
  | .u => s.locked
  | .l => s.lTime.slot.isSome

/-- The port is running in the sense of R144: port U LOCKED, or port L not OFF. -/
def State.portRunning (s : State) : Port → Bool
  | .u => s.locked
  | .l => s.lTime.state ≠ .off

/-- The current L round for raises and INJECT: the round last started, or 0 while port L is OFF (R109, R165). -/
def State.raiseRound (s : State) : Round :=
  if s.lTime.state = .off then 0 else s.lTime.round.getD 0

/-- Change the counters of P. -/
def State.count (s : State) (p : Port) (f : Counters → Counters) : State :=
  s.withCounters p (f (s.counters.get p))

def Counters.countGood (c : Counters) : Counters := { c with good := satInc c.good }

def Counters.countMalformed (c : Counters) : Counters := { c with malformed := satInc c.malformed }

def Counters.countMisplaced (c : Counters) : Counters := { c with misplaced := satInc c.misplaced }

def Counters.countLate (c : Counters) : Counters := { c with late := satInc c.late }

def Counters.countDisturbed (c : Counters) : Counters := { c with disturbed := satInc c.disturbed }

def Counters.countDropped (c : Counters) : Counters := { c with droppedRequests := satInc c.droppedRequests }

/-! ## Words of the buffer store (R105) -/

/-- Every key below `bound`-free list is above `a`: the list's first key is above `a`. -/
def storeAbove (a : Nat) : Store → Bool
  | [] => true
  | (b, _) :: _ => a < b

/-- The canonical form of the store: word numbers strictly rising, all within the store. An unlisted word is one
nothing has written, which no entry can equal. -/
def storeWf : Store → Bool
  | [] => true
  | (a, _) :: t => a < 4096 && storeAbove a t && storeWf t

/-- The entry of word `a`, if it has been written. -/
def storeFind (a : Nat) : Store → Option StoreWord
  | [] => none
  | (b, w) :: t => if a = b then some w else storeFind a t

/-- Put `w` in the list at word `a`, keeping the order. -/
def storeInsert (a : Nat) (w : StoreWord) : Store → Store
  | [] => [(a, w)]
  | (b, x) :: t =>
    if a < b then (a, w) :: (b, x) :: t
    else if a = b then (a, w) :: t
    else (b, x) :: storeInsert a w t

/-- Write word `a`. Beyond the store there is no word: nothing is written (log entry 10). -/
def storeWrite (a : Nat) (w : StoreWord) (st : Store) : Store :=
  if a < 4096 then storeInsert a w st else st

/-- Write words from `a` on, each with good parity (R105). -/
def storeWriteAll (a : Nat) : List Word → Store → Store
  | [], st => st
  | w :: ws, st => storeWriteAll (a + 1) ws (storeWrite a (.good w) st)

/-- What word `a` reads as: what was last written, a free value where nothing has been written since power-on, and
a failed word beyond the store (R105; log entries 2 and 10). -/
def State.wordAt (s : State) (a : Nat) : StoreWord :=
  if a < 4096 then (storeFind a s.store).getD (Config.unwrittenWord s.storeEpoch a) else .failed

/-- Read `k` words from `a` on: none when one of them has failed parity ("the read gives no payload", R105). -/
def State.readWords (s : State) (a : Nat) : Nat → Option (List Word)
  | 0 => some []
  | k + 1 =>
    match s.wordAt a with
    | .good w => (s.readWords (a + 1) k).map (w :: ·)
    | .failed => none

/-! ## Mailbox and queue records -/

/-- The other half of a mailbox. -/
def Half.other : Half → Half
  | .a => .b
  | .b => .a

/-- The first word of a half of a mailbox region (R55). -/
def halfBase (base capacity : Nat) : Half → Nat
  | .a => base
  | .b => base + capacity

/-- The flip (R108): the half written becomes current with the new value, FRESH, age 0, write tag one more, no open
write. -/
def MailboxRt.flip (m : MailboxRt) (length : Nat) (source : Station) (round : Round) (truncated : Bool) : MailboxRt :=
  { state := .fresh, half := m.half.other, openWrite := none, length, source := some source, round := some round,
    age := 0, truncated, tag := m.tag + 1 }

/-- An open write ends without a flip (R108): no other field changes. -/
def MailboxRt.closeWrite (m : MailboxRt) : MailboxRt := { m with openWrite := none }

/-- The first word of ring position `headPos + i` of a queue's region (R56, 7.4). -/
def ringBase (base capacity depth headPos i : Nat) : Nat := base + (headPos + i) % depth * capacity

/-- The head entry is removed (R115): attempts become 0, the drained flag is cleared, the next entry is the head and
is not in flight. `depth` is the queue's depth, the length of its ring. -/
def QueueRt.removeHead (q : QueueRt) (depth : Nat) : QueueRt :=
  { entries := q.entries.tail, headInFlight := none, attempts := 0, drained := false,
    headPos := (q.headPos + 1) % depth }

/-! ## Notices (Chapter 11) -/

/-- The value the id counter gives: from `c` on, one step at a time, the next value no standing entry holds (R165).
At most 15 entries stand when a new one is made, so `fuel` steps of 16 are enough. -/
def freshId (ids : List (BitVec 8)) (c : BitVec 8) : Nat → BitVec 8
  | 0 => c
  | fuel + 1 => if c ∈ ids then freshId ids (c + 1) fuel else c

/-- The entry has this kind and subject. -/
def Notice.same (e : Notice) (k : NoticeKind) (j : Subject) : Bool := e.kind = k && e.subject = j

/-- A raise in L round `r` (R165): it coalesces into the standing entry, or makes a new entry, or is lost with the
overflow flag set. -/
def NoticeUnit.raise (u : NoticeUnit) (k : NoticeKind) (j : Subject) (r : Round) : NoticeUnit :=
  if u.entries.any (·.same k j) then
    { u with entries := u.entries.map fun e =>
        if e.same k j then { e with count := satInc e.count, lastRound := r } else e }
  else if u.entries.length < 16 then
    let id := freshId (u.entries.map (·.id)) u.nextId 16
    { u with
      entries := u.entries ++ [{ id, kind := k, subject := j, count := 1, firstRound := r, lastRound := r,
                                 countdown := 0, sentEver := false }],
      nextId := id + 1 }
  else { u with overflow := true }

/-- Raise a notice at this event (R165). -/
def State.raise (s : State) (k : NoticeKind) (j : Subject) : State :=
  s.withNotices (s.notices.raise k j s.raiseRound)

/-- Raise several notices, in this order. -/
def State.raiseAll (s : State) (l : List (NoticeKind × Subject)) : State :=
  l.foldl (fun s x => s.raise x.1 x.2) s

/-! ## Response queues (R145 to R147) -/

/-- P's response queue has room: it holds fewer than 8 responses (R145). -/
def State.hasRoom (s : State) (p : Port) : Bool := (s.responses.get p).length < 8

/-- A response joins the tail of P's queue; one that would be the ninth is not queued (R145). -/
def State.enqueue (s : State) (p : Port) (r : Response) : State :=
  if s.hasRoom p then s.withResponses p (s.responses.get p ++ [r]) else s

/-- Flush P's queue (R147); the marks of the removed responses are acted on by the caller (R148). -/
def State.flush (s : State) (p : Port) : State := s.withResponses p []

/-- The restart marks in P's queue. -/
def State.marks (s : State) (p : Port) : List RestartMark := (s.responses.get p).filterMap (·.mark)

/-! ## The part in reset -/

/-- While RESETN is held low, the part takes no events (R169). -/
def State.live (s : State) (f : State → State) : State := if s.resetnLow then s else f s

end Sys2Proof.Machine
end

