-- ==== Sys2Proof/Machine/Operands.lean ====
section
/-! DEFINITION. The wire formats (Chapter 12): headers and checks, selectors, request codes, plan records, profiles,
settings, and the words of responses and notices. -/

namespace Sys2Proof.Machine

/-! ## Fields of numbers -/

/-- Bits `hi` to `lo` of `x`, an unsigned number. -/
def field (x hi lo : Nat) : Nat := x / 2 ^ lo % 2 ^ (hi + 1 - lo)

/-- The number `v` in bits `hi` to `lo`. -/
def put (v hi lo : Nat) : Nat := v % 2 ^ (hi + 1 - lo) * 2 ^ lo

/-- One bit. -/
def putBit (b : Bool) (i : Nat) : Nat := put b.toNat i i

/-- A word from the sum of its fields. -/
def toWord (n : Nat) : Word := BitVec.ofNat 32 n

/-! ## The two checks (12.1, R174) -/

/-- One bit shifted into a CRC register with generator `poly`, most significant bit first. -/
def crcStep {n : Nat} (poly c : BitVec n) (b : Bool) : BitVec n :=
  if c.msb != b then (c <<< 1) ^^^ poly else c <<< 1

/-- The bits of a number of `n` bits, most significant first. -/
def bitsOf {n : Nat} (x : BitVec n) : List Bool := (List.range n).map fun i => x.getLsbD (n - 1 - i)

/-- The header check over bytes 0 to 6: generator x⁸+x⁵+x³+x²+x+1, preset to all ones, no final inversion. -/
def headerCheck (bytes : BitVec 56) : BitVec 8 := (bitsOf bytes).foldl (crcStep 0x2F#8) 0xFF#8

/-- The payload check: generator x¹⁶+x¹⁴+x¹¹+x⁸+x⁶+x⁵+x⁴+x²+1, taken the same way over the payload bytes. -/
def payloadCheck (words : List Word) : BitVec 16 :=
  (words.flatMap bitsOf).foldl (crcStep 0x4975#16) 0xFFFF#16

/-! ## Headers (Table 12-1) -/

/-- Table 12-2. -/
def CellKind.code : CellKind → Nat
  | .data => 1
  | .void => 2
  | .beacon => 3
  | .request => 4
  | .response => 5
  | .notice => 6

/-- Table 12-2 read back; 0 and 7 are no kind. -/
def cellKindOf : Nat → Option CellKind
  | 1 => some .data
  | 2 => some .void
  | 3 => some .beacon
  | 4 => some .request
  | 5 => some .response
  | 6 => some .notice
  | _ => none

/-- The destination is 0 in DATA, VOID and BEACON cells; the length is 0 in VOID and 1 in BEACON (R5). -/
def kindFieldsOk : CellKind → (dest length : Nat) → Bool
  | .data, dest, _ => dest = 0
  | .void, dest, length => dest = 0 && length = 0
  | .beacon, dest, length => dest = 0 && length = 1
  | .request, _, _ => true
  | .response, _, _ => true
  | .notice, _, _ => true

/-- The fields of a header that is legal (R5), none of a malformed one. Reserved bits are ignored, the slot is bits
9 to 0 of bytes 2 and 3, and the check covers the bits as received (R170). -/
def parseHeader (h : BitVec 64) : Option Header :=
  let x := h.toNat
  let round := field x 55 48
  let slot := field x 41 32
  let source := field x 31 24
  let dest := field x 23 16
  let length := field x 15 8
  match cellKindOf (field x 63 61) with
  | none => none
  | some kind =>
    if headerCheck (BitVec.ofNat 56 (x / 2 ^ 8)) = BitVec.ofNat 8 x && round ≤ 127 && slot ≠ 0 &&
        source ≠ 0 && source ≠ 255 && dest ≠ 255 && length ≤ 12 && kindFieldsOk kind dest length then
      some { kind, stale := field x 60 60 = 1, round := BitVec.ofNat 7 round, slot,
             source := BitVec.ofNat 8 source, dest := BitVec.ofNat 8 dest, length }
    else none

/-- Bytes 0 to 6 of a header the bridge sends, reserved bits 0 (R170). -/
def Header.bytes (h : Header) : BitVec 56 :=
  BitVec.ofNat 56 (put h.kind.code 55 53 + putBit h.stale 52 + put h.round.toNat 47 40 + put h.slot 33 24 +
    put h.source.toNat 23 16 + put h.dest.toNat 15 8 + put h.length 7 0)

/-- The 8 bytes of a header the bridge sends, with a good check (R170, R174). -/
def Header.wire (h : Header) : BitVec 64 :=
  BitVec.ofNat 64 (h.bytes.toNat * 2 ^ 8 + (headerCheck h.bytes).toNat)

/-! ## Cells the bridge sends (12.1, R174) -/

/-- The `k` bytes of a number, most significant first. -/
def bytesOf (x : Nat) : Nat → List Byte
  | 0 => []
  | k + 1 => bytesOf (x / 2 ^ 8) k ++ [BitVec.ofNat 8 x]

/-- The payload check of a cell the bridge sends (R14, R174). -/
def Cell.check (c : Cell) : BitVec 16 := payloadCheck c.payload

/-- The bytes of a cell the bridge sends, in their order on the line: the header with its check, then, when the length is
not 0, each payload word most significant byte first and the payload check, high byte first (12.1, R174). -/
def Cell.bytes (c : Cell) : List Byte :=
  bytesOf c.header.wire.toNat 8 ++
    if c.payload.isEmpty then [] else c.payload.flatMap (bytesOf ·.toNat 4) ++ bytesOf c.check.toNat 2

/-! ## Beacon payload (12.1) -/

/-- The beacon's one word: the tied flag in bit 31, the announced slot count in bits 15 to 0. -/
def beaconWord (tied : Bool) (slotCount : Nat) : Word := toWord (putBit tied 31 + put slotCount 15 0)

/-- The announced slot count of a beacon payload: the whole 16-bit field (R170). -/
def announcedCount (payload : List Word) : Nat := field (payload.headD 0).toNat 15 0

/-- A payload is valid when its check is good and, for a BEACON, the announced count lies in 8 to 1023 (R6). -/
def payloadValid (h : Header) (payload : List Word) (check : BitVec 16) : Bool :=
  payloadCheck payload = check &&
    (h.kind ≠ .beacon || (8 ≤ announcedCount payload && announcedCount payload ≤ 1023))

/-! ## Selectors (12.2) -/

/-- The code of a port in a selector, a record or a result (12.2). -/
def portCode : Port → Nat
  | .u => 1
  | .l => 2

/-- 1 is U and 2 is L; 0 and 3 are out of range (R171). -/
def portOfCode : Nat → Option Port
  | 1 => some .u
  | 2 => some .l
  | _ => none

/-- The code of a port that may be absent: 0 (R173). -/
def optPortCode : Option Port → Nat
  | none => 0
  | some p => portCode p

/-- The code of a bank role: 1 ACTIVE, 2 STAGED (12.2). -/
def bankCode : BankRole → Nat
  | .active => 1
  | .staged => 2

/-- The bank named by a code. -/
def bankOfCode : Nat → Option BankRole
  | 1 => some .active
  | 2 => some .staged
  | _ => none

/-- The four record kinds (12.2). -/
inductive RecordKind where
  | mailbox
  | queue
  | capture
  | emit
  deriving DecidableEq, Repr

/-- 1 mailbox definition, 2 queue definition, 3 capture entry, 4 emit entry. -/
def recordKindOf : Nat → Option RecordKind
  | 1 => some .mailbox
  | 2 => some .queue
  | 3 => some .capture
  | 4 => some .emit
  | _ => none

/-- The port or bank field of a selector. -/
def selTop (sel : BitVec 16) : Nat := field sel.toNat 15 14

/-- The kind field of a selector. -/
def selKind (sel : BitVec 16) : Option RecordKind := recordKindOf (field sel.toNat 13 11)

/-- The number field of a selector. -/
def selNumber (sel : BitVec 16) : Nat := field sel.toNat 10 0

/-- The port a selector names. -/
def selPort (sel : BitVec 16) : Option Port := portOfCode (selTop sel)

/-- The bank a selector names. -/
def selBank (sel : BitVec 16) : Option BankRole := bankOfCode (selTop sel)

/-- The number as a number below `n`, when it is in range (R150). -/
def numberBelow (n k : Nat) : Option (Fin n) := if h : k < n then some ⟨k, h⟩ else none

/-- The mailbox a selector names (R150). -/
def selMailbox (sel : BitVec 16) : Option (Fin 64) := numberBelow 64 (selNumber sel)

/-- The queue a selector names (R150). -/
def selQueue (sel : BitVec 16) : Option (Fin 8) := numberBelow 8 (selNumber sel)

/-- A record by kind and number, when the number is within the range of the kind (R150). -/
def recordOf : RecordKind → Nat → Option RecordRef
  | .mailbox, k => (numberBelow 64 k).map .mailbox
  | .queue, k => (numberBelow 8 k).map .queue
  | .capture, k => (numberBelow 128 k).map .capture
  | .emit, k => (numberBelow 128 k).map .emit

/-- The record a selector names by its kind and number (R150, R171). -/
def selRecord (sel : BitVec 16) : Option RecordRef :=
  match selKind sel with
  | some k => recordOf k (selNumber sel)
  | none => none

/-- Kind and number of a record in selector layout (12.2). -/
def refBits : RecordRef → Nat
  | .mailbox n => put 1 13 11 + put n.val 10 0
  | .queue n => put 2 13 11 + put n.val 10 0
  | .capture n => put 3 13 11 + put n.val 10 0
  | .emit n => put 4 13 11 + put n.val 10 0

/-- The subject of a notice in selector layout (12.5). DESIGN CHOICE: bits 15 and 14, which name a port or a bank, are 0
in a subject that names a mailbox, a queue or an emit entry; 12.5 gives those the kind and the number alone (log entry
33). -/
def Subject.bits : Subject → Nat
  | .none => 0
  | .mailbox n => refBits (.mailbox n)
  | .queue n => refBits (.queue n)
  | .emit n => refBits (.emit n)
  | .record role ref => put (bankCode role) 15 14 + refBits ref

/-! ## Requests (12.2) -/

/-- The requests of Table 10-1. -/
inductive Req where
  | ping
  | claim
  | release
  | readStatus
  | readProfile
  | readSettings
  | readCounters
  | readRecord
  | readMailbox
  | readQueue
  | readNotices
  | writeProfile
  | writeSettings
  | restartLink
  | clearCounters
  | stageClear
  | stageCopy
  | writeRecord
  | eraseRecord
  | check
  | commit
  | cancelCommit
  | start
  | halt
  | inject
  | drainQueue
  | ackNotice
  | restart
  deriving DecidableEq, Repr

/-- Table 12-4. -/
def Req.code : Req → BitVec 8
  | .ping => 1
  | .claim => 2
  | .release => 3
  | .readStatus => 4
  | .readProfile => 5
  | .readSettings => 6
  | .readCounters => 7
  | .readRecord => 8
  | .readMailbox => 9
  | .readQueue => 10
  | .readNotices => 11
  | .writeProfile => 12
  | .writeSettings => 13
  | .restartLink => 14
  | .clearCounters => 15
  | .stageClear => 16
  | .stageCopy => 17
  | .writeRecord => 18
  | .eraseRecord => 19
  | .check => 20
  | .commit => 21
  | .cancelCommit => 22
  | .start => 23
  | .halt => 24
  | .inject => 25
  | .drainQueue => 26
  | .ackNotice => 27
  | .restart => 28

/-- Table 12-4 read back; 0 and 29 to 255 are unknown. -/
def reqOfCode (c : BitVec 8) : Option Req :=
  match c.toNat with
  | 1 => some .ping
  | 2 => some .claim
  | 3 => some .release
  | 4 => some .readStatus
  | 5 => some .readProfile
  | 6 => some .readSettings
  | 7 => some .readCounters
  | 8 => some .readRecord
  | 9 => some .readMailbox
  | 10 => some .readQueue
  | 11 => some .readNotices
  | 12 => some .writeProfile
  | 13 => some .writeSettings
  | 14 => some .restartLink
  | 15 => some .clearCounters
  | 16 => some .stageClear
  | 17 => some .stageCopy
  | 18 => some .writeRecord
  | 19 => some .eraseRecord
  | 20 => some .check
  | 21 => some .commit
  | 22 => some .cancelCommit
  | 23 => some .start
  | 24 => some .halt
  | 25 => some .inject
  | 26 => some .drainQueue
  | 27 => some .ackNotice
  | 28 => some .restart
  | _ => none

/-- The requests that need the claim (Table 9-2, R141). -/
def Req.needsClaim : Req → Bool
  | .ping => false
  | .claim => false
  | .release => true
  | .readStatus => false
  | .readProfile => false
  | .readSettings => false
  | .readCounters => false
  | .readRecord => false
  | .readMailbox => false
  | .readQueue => false
  | .readNotices => false
  | .writeProfile => true
  | .writeSettings => true
  | .restartLink => true
  | .clearCounters => true
  | .stageClear => true
  | .stageCopy => true
  | .writeRecord => true
  | .eraseRecord => true
  | .check => true
  | .commit => true
  | .cancelCommit => true
  | .start => true
  | .halt => true
  | .inject => true
  | .drainQueue => true
  | .ackNotice => false
  | .restart => true

/-- The number of operand words fits the request (Table 10-1, R150, R171). -/
def Req.countOk (q : Req) (sel : BitVec 16) (n : Nat) : Bool :=
  match q with
  | .ping => n ≤ 11
  | .inject => n ≤ 11
  | .readMailbox => n = 1
  | .writeSettings => n = 1
  | .writeProfile =>
    match selPort sel with
    | some .u => n = 4
    | some .l => n = 3
    | none => n = 3 || n = 4
  | .writeRecord =>
    match selKind sel with
    | some .mailbox => n = 1
    | some .queue => n = 1
    | some .capture => n = 2
    | some .emit => n = 2
    | none => n = 1 || n = 2
  | .claim => n = 0
  | .release => n = 0
  | .readStatus => n = 0
  | .readProfile => n = 0
  | .readSettings => n = 0
  | .readCounters => n = 0
  | .readRecord => n = 0
  | .readQueue => n = 0
  | .readNotices => n = 0
  | .restartLink => n = 0
  | .clearCounters => n = 0
  | .stageClear => n = 0
  | .stageCopy => n = 0
  | .eraseRecord => n = 0
  | .check => n = 0
  | .commit => n = 0
  | .cancelCommit => n = 0
  | .start => n = 0
  | .halt => n = 0
  | .drainQueue => n = 0
  | .ackNotice => n = 0
  | .restart => n = 0

/-- Table 12-5. -/
def Status.code : Status → Nat
  | .ok => 0
  | .pending => 1
  | .held => 2
  | .unclaimed => 3
  | .busy => 4
  | .notChecked => 5
  | .range => 6
  | .undefined => 7
  | .state => 8
  | .unknown => 9
  | .abandoned => 10
  | .failed => 11

/-- The payload of a response: its header word (Table 12-3), then the result words. -/
def Reply.payload (r : Reply) : List Word :=
  toWord (put r.status.code 31 24 + put r.seq.toNat 23 16 + put r.code.toNat 15 8) :: r.results

/-! ## Plan records (Table 12-6, R172) -/

/-- A period field is one of the eight powers of two and the phase is below it (00_scope.md, R65). -/
def RoundSet.ok (r : RoundSet) : Bool :=
  (r.period = 1 || r.period = 2 || r.period = 4 || r.period = 8 || r.period = 16 || r.period = 32 ||
    r.period = 64 || r.period = 128) && r.phase < r.period

/-- The fields of a mailbox definition lie within Table 4-1. -/
def MailboxDef.ok (d : MailboxDef) : Bool := d.base < 4096 && 1 ≤ d.capacity && d.capacity ≤ 12

/-- The fields of a queue definition lie within Table 4-2. -/
def QueueDef.ok (d : QueueDef) : Bool :=
  d.base < 4096 && 1 ≤ d.capacity && d.capacity ≤ 12 && 1 ≤ d.depth && d.depth ≤ 32 && d.retryLimit ≤ 7

/-- The fields of a capture entry lie within Table 4-3. -/
def CaptureEntry.ok (e : CaptureEntry) : Bool :=
  1 ≤ e.slot && e.slot ≤ 1023 && e.rounds.ok && e.acceptFrom ≠ 255

/-- The fields of an emit entry lie within Table 4-4. -/
def EmitEntry.ok (e : EmitEntry) : Bool := 1 ≤ e.slot && e.slot ≤ 1023 && e.rounds.ok

/-- A mailbox definition from its word, none when a field is out of range (RANGE, R65). -/
def parseMailboxDef (w : Word) : Option MailboxDef :=
  let x := w.toNat
  let d : MailboxDef :=
    { base := field x 31 20, capacity := field x 19 16,
      readMode := if field x 15 15 = 1 then .take else .keep,
      staleLimit := BitVec.ofNat 8 (field x 7 0), notifyStale := field x 14 14 = 1 }
  if d.ok then some d else none

/-- A queue definition from its word. -/
def parseQueueDef (w : Word) : Option QueueDef :=
  let x := w.toNat
  let d : QueueDef :=
    { base := field x 31 20, capacity := field x 19 16, depth := field x 15 10,
      fullPolicy := if field x 9 9 = 1 then .replaceOldest else .dropNewest,
      retryLimit := field x 8 6 }
  if d.ok then some d else none

/-- A target or source from its kind and number codes (R65, R172). -/
def placeOf (kind number : Nat) : Option Place :=
  match kind with
  | 1 => (numberBelow 64 number).map .mailbox
  | 2 => (numberBelow 8 number).map .queue
  | _ => none

/-- The round set of a record word. -/
def parseRounds (x : Nat) : RoundSet := { period := field x 15 8, phase := field x 7 0 }

/-- A capture entry from its two words. -/
def parseCaptureEntry (w0 w1 : Word) : Option CaptureEntry :=
  let x := w0.toNat
  let y := w1.toNat
  match portOfCode (field x 31 30), placeOf (field y 31 30) (field y 23 16) with
  | some port, some target =>
    let e : CaptureEntry :=
      { port, slot := field x 25 16, rounds := parseRounds x, target, acceptFrom := BitVec.ofNat 8 (field y 7 0) }
    if e.ok then some e else none
  | _, _ => none

/-- On-empty codes (Table 12-6). -/
def onEmptyOf : Nat → Option OnEmpty
  | 1 => some .void
  | 2 => some .silent
  | _ => none

/-- On-stale codes (Table 12-6). -/
def onStaleOf : Nat → Option OnStale
  | 1 => some .sendMarked
  | 2 => some .void
  | 3 => some .silent
  | _ => none

/-- Origin codes (Table 12-6). -/
def originOf : Nat → Option Origin
  | 1 => some .preserve
  | 2 => some .self
  | _ => none

/-- An emit entry from its two words. -/
def parseEmitEntry (w0 w1 : Word) : Option EmitEntry :=
  let x := w0.toNat
  let y := w1.toNat
  match portOfCode (field x 31 30), placeOf (field y 31 30) (field y 23 16), onEmptyOf (field y 15 14),
      onStaleOf (field y 13 12), originOf (field y 11 10) with
  | some port, some source, some onEmpty, some onStale, some origin =>
    let e : EmitEntry :=
      { port, slot := field x 25 16, rounds := parseRounds x, source, onEmpty, onStale, origin }
    if e.ok then some e else none
  | _, _, _, _, _ => none

/-- The word of a mailbox definition (Table 12-6). -/
def MailboxDef.words (d : MailboxDef) : List Word :=
  [toWord (put d.base 31 20 + put d.capacity 19 16 + putBit (d.readMode = .take) 15 + putBit d.notifyStale 14 +
    put d.staleLimit.toNat 7 0)]

/-- The word of a queue definition. -/
def QueueDef.words (d : QueueDef) : List Word :=
  [toWord (put d.base 31 20 + put d.capacity 19 16 + put d.depth 15 10 + putBit (d.fullPolicy = .replaceOldest) 9 +
    put d.retryLimit 8 6)]

/-- Kind and number of a target or source in an entry's second word. -/
def Place.bits : Place → Nat
  | .mailbox n => put 1 31 30 + put n.val 23 16
  | .queue n => put 2 31 30 + put n.val 23 16

/-- The first word of an entry. -/
def entryWord (p : Port) (slot : Nat) (r : RoundSet) : Word :=
  toWord (put (portCode p) 31 30 + put slot 25 16 + put r.period 15 8 + put r.phase 7 0)

/-- The words of a capture entry. -/
def CaptureEntry.words (e : CaptureEntry) : List Word :=
  [entryWord e.port e.slot e.rounds, toWord (e.target.bits + put e.acceptFrom.toNat 7 0)]

/-- On-empty codes (Table 12-6). -/
def OnEmpty.code : OnEmpty → Nat
  | .void => 1
  | .silent => 2

/-- On-stale codes (Table 12-6). -/
def OnStale.code : OnStale → Nat
  | .sendMarked => 1
  | .void => 2
  | .silent => 3

/-- Origin codes (Table 12-6). -/
def Origin.code : Origin → Nat
  | .preserve => 1
  | .self => 2

/-- The words of an emit entry. -/
def EmitEntry.words (e : EmitEntry) : List Word :=
  [entryWord e.port e.slot e.rounds,
   toWord (e.source.bits + put e.onEmpty.code 15 14 + put e.onStale.code 13 12 + put e.origin.code 11 10)]

/-- Table 12-7, capture outcomes; NONE is 0. -/
def CaptureOutcome.code : CaptureOutcome → Nat
  | .received => 1
  | .truncated => 2
  | .void => 3
  | .invalid => 4
  | .empty => 5
  | .foreign => 6
  | .dropped => 7

/-- Table 12-7, emit outcomes; NONE is 0. -/
def EmitOutcome.code : EmitOutcome → Nat
  | .sent => 1
  | .sentStale => 2
  | .voidSent => 3
  | .silent => 4
  | .fault => 5
  | .disturbed => 6
  | .aborted => 7

/-- The first result word of READ_RECORD (12.3): generation, outcome code, outcome round. -/
def recordHead (generation : BitVec 16) (outcome round : Nat) : Word :=
  toWord (put generation.toNat 31 16 + put outcome 15 8 + put round 7 0)

/-- The fault codes (12.3). -/
def FaultCode.code : FaultCode → Nat
  | .parity => 1
  | .regionRange => 2
  | .regionOverlap => 3
  | .noTarget => 4
  | .slotRange => 5
  | .reservedSlot => 6
  | .captureOverlap => 7
  | .emitOverlap => 8
  | .selfSlot => 9
  | .mixedIngress => 10
  | .mixedEgress => 11

/-- A fault word (12.3): the code and the record reference; the two bits above the reference are free (log entry
11). No fault is 0. -/
def faultWord : Option (FaultCode × RecordRef) → Word
  | none => 0
  | some (c, r) => toWord (put c.code 31 24 + put Config.faultReferenceBank.toNat 15 14 + refBits r)

/-! ## Profiles and settings (Table 12-8) -/

/-- Byte `i` of a word, byte 0 the most significant. -/
def byteOf (w : Word) (i : Nat) : Byte := BitVec.ofNat 8 (field w.toNat (31 - 8 * i) (24 - 8 * i))

/-- The timing stations of word 3: the first `k` bytes (R172). -/
def stationsOf (w : Word) (k : Nat) : List Station := (List.range k).map (byteOf w)

/-- A U profile from its four words. -/
def parseUProfile (w0 w1 w2 w3 : Word) : UProfile :=
  { enabled := field w0.toNat 31 31 = 1, station := BitVec.ofNat 8 (field w0.toNat 23 16),
    slotCount := field w0.toNat 15 0, responseSlot := field w1.toNat 31 16, slotLength := field w1.toNat 15 8,
    lapseLimit := field w1.toNat 7 4, confirmQuorum := field w1.toNat 3 0,
    noticeTarget := BitVec.ofNat 8 (field w2.toNat 31 24), timingStations := stationsOf w3 (field w2.toNat 23 16) }

/-- An L profile from its three words. -/
def parseLProfile (w0 w1 w2 : Word) : LProfile :=
  { enabled := field w0.toNat 31 31 = 1, tieEnabled := field w0.toNat 30 30 = 1,
    station := BitVec.ofNat 8 (field w0.toNat 23 16), slotCount := field w0.toNat 15 0,
    beaconSlot := field w1.toNat 31 16, responseSlot := field w1.toNat 15 0,
    tieOffset := field w2.toNat 31 16, slotLength := field w2.toNat 15 8,
    noticeTarget := BitVec.ofNat 8 (field w2.toNat 7 0) }

/-- Station `i` of a list, 0 beyond its length (R172: unused station bytes are returned as 0). -/
def stationAt (l : List Station) (i : Nat) : Nat := (l.getD i 0).toNat

/-- The four words of a U profile. -/
def UProfile.words (p : UProfile) : List Word :=
  [toWord (putBit p.enabled 31 + put p.station.toNat 23 16 + put p.slotCount 15 0),
   toWord (put p.responseSlot 31 16 + put p.slotLength 15 8 + put p.lapseLimit 7 4 + put p.confirmQuorum 3 0),
   toWord (put p.noticeTarget.toNat 31 24 + put p.timingStations.length 23 16),
   toWord (put (stationAt p.timingStations 0) 31 24 + put (stationAt p.timingStations 1) 23 16 +
     put (stationAt p.timingStations 2) 15 8 + put (stationAt p.timingStations 3) 7 0)]

/-- The three words of an L profile. -/
def LProfile.words (p : LProfile) : List Word :=
  [toWord (putBit p.enabled 31 + putBit p.tieEnabled 30 + put p.station.toNat 23 16 + put p.slotCount 15 0),
   toWord (put p.beaconSlot 31 16 + put p.responseSlot 15 0),
   toWord (put p.tieOffset 31 16 + put p.slotLength 15 8 + put p.noticeTarget.toNat 7 0)]

/-- The settings word. -/
def Settings.settingsWord (t : Settings) : Word :=
  toWord (put t.claimTimeout.toNat 31 24 + put t.repeatInterval.toNat 23 16)

/-- The settings of a word. -/
def parseSettings (w : Word) : Settings := { claimTimeout := byteOf w 0, repeatInterval := byteOf w 1 }

/-- The three result words of READ_COUNTERS. -/
def Counters.words (c : Counters) : List Word :=
  [toWord (put c.good.toNat 31 16 + put c.malformed.toNat 15 0),
   toWord (put c.misplaced.toNat 31 16 + put c.late.toNat 15 0),
   toWord (put c.disturbed.toNat 31 16 + put c.droppedRequests.toNat 15 0)]

/-- An absent round is 255 (R173). -/
def roundCode : Option Round → Nat
  | none => 255
  | some r => r.toNat

/-- An absent station is 0 (R173). -/
def stationCode : Option Station → Nat
  | none => 0
  | some a => a.toNat

/-! ## Mailbox and queue results (Table 12-8) -/

/-- READ_MAILBOX state codes. -/
def MailboxState.code : MailboxState → Nat
  | .empty => 0
  | .fresh => 1
  | .stale => 2
  | .spent => 3
  | .faulted => 4

/-- Half codes: 0 A, 1 B. -/
def Half.code : Half → Nat
  | .a => 0
  | .b => 1

/-- The two record words of READ_MAILBOX. -/
def MailboxRt.words (m : MailboxRt) : List Word :=
  [toWord (put m.state.code 31 24 + put m.half.code 23 23 + put (optPortCode m.openWrite) 22 21 +
     putBit m.truncated 20 + put m.length 19 16 + put (stationCode m.source) 15 8 + put (roundCode m.round) 7 0),
   toWord (put m.age.toNat 31 24 + put m.tag.toNat 23 16)]

/-- The words of READ_QUEUE; a queue with no entries has no second word (R173). -/
def QueueRt.words (q : QueueRt) : List Word :=
  toWord (put q.entries.length 31 24 + put (optPortCode q.headInFlight) 23 22 + put q.attempts 21 19 +
    putBit q.drained 18) ::
  match q.entries with
  | [] => []
  | e :: _ =>
    [toWord (put e.length 31 24 + put e.source.toNat 23 16 + put e.round.toNat 15 8 + putBit e.truncated 0)]

/-! ## Notices (12.5) -/

/-- The kind codes. -/
def NoticeKind.code : NoticeKind → Nat
  | .started => 1
  | .lockGained => 2
  | .lockLost => 3
  | .tieGained => 4
  | .tieLost => 5
  | .commitDone => 6
  | .claimExpired => 7
  | .queueOverrun => 8
  | .queueDiscard => 9
  | .collision => 10
  | .storeParity => 11
  | .planParity => 12
  | .mailboxStale => 13

/-- The two words of a notice; `low` stands in bits 7 to 0 of word 0: 0 in a NOTICE cell, the countdown in a
READ_NOTICES answer. -/
def Notice.words (e : Notice) (low : Nat) : List Word :=
  [toWord (put e.id.toNat 31 24 + put e.kind.code 23 16 + put e.count.toNat 15 8 + put low 7 0),
   toWord (put e.firstRound.toNat 31 24 + put e.lastRound.toNat 23 16 + put e.subject.bits 15 0)]

end Sys2Proof.Machine
end

