-- ==== Sys2Proof/Machine/Flags.lean ====
section
/-! DEFINITION. Flags and status: ATTN, the profile-change-pending flags, the range tests of profiles and settings,
the tying conditions, and the words of READ_STATUS. -/

namespace Sys2Proof.Machine

/-- The ATTN output (R169): asserted while the notice queue holds an entry, deasserted while it is empty and while
RESETN is held low. -/
def State.attn (s : State) : Bool := !s.resetnLow && !s.notices.entries.isEmpty

/-- What stands on the line of P (R14): the bytes of the cell in flight, from its transmit buffer. -/
def State.onLine (s : State) (p : Port) : Option (List Byte) := (s.tx.get p).map Cell.bytes

/-! ## Profiles -/

/-- The U round duration, in units (R18). -/
def UProfile.duration (p : UProfile) : Nat := p.slotCount * p.slotLength

/-- The L round duration, in units (R37). -/
def LProfile.duration (p : LProfile) : Nat := p.slotCount * p.slotLength

/-- Every field of a U profile lies in its range of Table 2-1, no timing station is listed twice, and the response
slot is within the slot count (R20). -/
def UProfile.ok (p : UProfile) : Bool :=
  p.station ≠ 0 && p.station ≠ 255 && 8 ≤ p.slotCount && p.slotCount ≤ 1023 &&
  6 ≤ p.slotLength && p.slotLength ≤ 255 && 1 ≤ p.responseSlot && p.responseSlot ≤ p.slotCount &&
  1 ≤ p.lapseLimit && p.lapseLimit ≤ 15 && 1 ≤ p.confirmQuorum && p.confirmQuorum ≤ 4 &&
  p.timingStations.length ≤ 4 && p.timingStations.all (fun a => a ≠ 0 && a ≠ 255) &&
  p.timingStations.Nodup && p.noticeTarget ≠ 255

/-- Every field of an L profile lies in its range of Table 3-1: the beacon slot and the response slot are within the
slot count and differ (R39). -/
def LProfile.ok (p : LProfile) : Bool :=
  p.station ≠ 0 && p.station ≠ 255 && 8 ≤ p.slotCount && p.slotCount ≤ 1023 &&
  6 ≤ p.slotLength && p.slotLength ≤ 255 && 1 ≤ p.beaconSlot && p.beaconSlot ≤ p.slotCount &&
  1 ≤ p.responseSlot && p.responseSlot ≤ p.slotCount && p.beaconSlot ≠ p.responseSlot &&
  p.tieOffset ≤ 65535 && p.noticeTarget ≠ 255

/-- The tests of R39 that tie the two stored profiles: the tie offset is below the U round duration, and while tie
is enabled the L round duration does not exceed it. -/
def profilesAgree (u : UProfile) (l : LProfile) : Bool :=
  l.tieOffset < u.duration && (!l.tieEnabled || l.duration ≤ u.duration)

/-- The settings lie in the ranges of R158; 255 is the largest value a byte can carry. -/
def Settings.ok (t : Settings) : Bool := 8 ≤ t.claimTimeout.toNat && 4 ≤ t.repeatInterval.toNat

/-- Profile-change-pending of U: stored and in-use differ in a field other than the notice target (R19). -/
def State.uPendingFlag (s : State) : Bool :=
  { s.uStored with noticeTarget := 0 } ≠ { s.uInUse with noticeTarget := 0 }

/-- Profile-change-pending of L (R38). -/
def State.lPendingFlag (s : State) : Bool :=
  { s.lStored with noticeTarget := 0 } ≠ { s.lInUse with noticeTarget := 0 }

/-- The conditions of R44 on the in-use profiles: tie enabled, the tie offset below the U round duration, the L
round duration not above it. -/
def State.tieConditions (s : State) : Bool :=
  s.lInUse.tieEnabled && s.lInUse.tieOffset < s.uInUse.duration && s.lInUse.duration ≤ s.uInUse.duration

/-! ## READ_STATUS (Table 10-2, Table 12-8) -/

/-- U state codes. -/
def UState.code : UState → Nat
  | .off => 0
  | .seek => 1
  | .align => 2
  | .confirm => 3
  | .locked => 4

/-- L state codes. -/
def LState.code : LState → Nat
  | .off => 0
  | .untied => 1
  | .tying => 2
  | .tied => 3

/-- Check state codes. -/
def CheckState.code : CheckState → Nat
  | .unchecked => 0
  | .checking _ _ _ => 1
  | .passed => 2
  | .failed _ _ => 3
  | .commitPending => 4

/-- The fault of a FAILED check, absent otherwise (R153). -/
def CheckState.fault : CheckState → Option (FaultCode × RecordRef)
  | .failed c r => some (c, r)
  | .unchecked => none
  | .checking _ _ _ => none
  | .passed => none
  | .commitPending => none

/-- The U round READ_STATUS reports: absent in OFF and SEEK (R21). -/
def State.reportedURound (s : State) : Option Round :=
  if s.placementApplies .u then s.uTime.round else none

/-- The L round READ_STATUS reports: absent in OFF (R41). -/
def State.reportedLRound (s : State) : Option Round :=
  if s.lTime.state = .off then none else s.lTime.round

/-- Port (bits 31-30) and station (bits 23-16) of a party, 0 for none (R173). -/
def holderBits : Option PartyId → Nat
  | none => 0
  | some i => put (portCode i.port) 31 30 + put i.station.toNat 23 16

/-- The five result words of READ_STATUS. -/
def State.statusWords (s : State) : List Word :=
  [toWord (put 2412 31 16 + put 1 15 8 + put s.strap.toNat 7 0),
   toWord (put s.uTime.state.code 31 24 + put (roundCode s.reportedURound) 23 16 + put s.lTime.state.code 15 8 +
     put (roundCode s.reportedLRound) 7 0),
   toWord (put s.generation.toNat 31 16 + put s.checkState.code 15 8 + putBit s.lPendingFlag 3 +
     putBit s.uPendingFlag 2 + putBit (s.forwarding = .forwarding) 0),
   faultWord s.checkState.fault,
   toWord (holderBits s.claim + put s.notices.entries.length 15 8 + putBit s.notices.overflow 0)]

/-- The result words of READ_PROFILE: the stored profile, the in-use profile, the pending flag. -/
def State.profileWords (s : State) : Port → List Word
  | .u => s.uStored.words ++ s.uInUse.words ++ [toWord (putBit s.uPendingFlag 0)]
  | .l => s.lStored.words ++ s.lInUse.words ++ [toWord (putBit s.lPendingFlag 0)]

/-- The result words of READ_NOTICES (12.5): count, overflow flag and sent-ever flags, then the four oldest
entries with their countdowns. DESIGN CHOICE: with fewer than four entries, the sent-ever bits of the places without one
are 0; 12.5 gives the bits of the entries returned only (log entry 29). -/
def NoticeUnit.words (u : NoticeUnit) : List Word :=
  let four := u.entries.take 4
  let sent (i : Nat) : Bool := (four[i]?.map (·.sentEver)).getD false
  toWord (put u.entries.length 31 24 + putBit u.overflow 23 + putBit (sent 3) 3 + putBit (sent 2) 2 +
    putBit (sent 1) 1 + putBit (sent 0) 0) ::
  four.flatMap fun e => e.words e.countdown.toNat

end Sys2Proof.Machine
end

