-- ==== Sys2Proof/Machine/Notices.lean ====
section
/-! DEFINITION. The notice unit (Chapter 11): countdowns, due notices, acknowledgment. Raising stands in Ops. -/

namespace Sys2Proof.Machine

/-- R166: at an L round start every countdown that is not 0 decreases by one. -/
def State.countDown (s : State) : State :=
  s.withNotices { s.notices with
    entries := s.notices.entries.map fun e => { e with countdown := satDec e.countdown } }

/-- The entry is due: its countdown is 0 (R166). -/
def Notice.due (e : Notice) : Bool := e.countdown = 0

/-- The oldest due entry (R167). -/
def State.oldestDue (s : State) : Option Notice := s.notices.entries.find? (·.due)

/-- R167: the entry `e` is loaded for sending: its countdown becomes the repeat interval, its sent-ever flag is
set. -/
def State.markSent (s : State) (e : Notice) : State :=
  s.withNotices { s.notices with
    entries := s.notices.entries.map fun x =>
      if x.id = e.id then { x with countdown := s.settings.repeatInterval, sentEver := true } else x }

/-- The payload of the NOTICE cell of an entry (12.5). -/
def Notice.payload (e : Notice) : List Word := e.words 0

/-- An entry with this id stands. -/
def State.noticeStands (s : State) (id : BitVec 8) : Bool := s.notices.entries.any (·.id = id)

/-- R168: the entry with the id is removed, the others keep their order, the overflow flag is cleared. -/
def State.acknowledge (s : State) (id : BitVec 8) : State :=
  s.withNotices { s.notices with entries := s.notices.entries.filter (·.id ≠ id), overflow := false }

end Sys2Proof.Machine
end

