-- ==== Sys2Proof/Machine/Buffer.lean ====
section
/-! DEFINITION. The buffer store (Chapter 7): mailboxes, queues, aging. -/

namespace Sys2Proof.Machine

/-! ## Mailboxes -/

/-- R107: a write opens on mailbox `n` from port `p`; the answer is false when one is open already (refused). -/
def State.openWrite (s : State) (n : Fin 64) (p : Port) : State × Bool :=
  let m := s.mailboxes[n]
  match m.openWrite with
  | some _ => (s, false)
  | none => (s.withMailbox n { m with openWrite := some p }, true)

/-- R108, abandonment: the open write from `p` on mailbox `n`, if there is one, becomes none. -/
def State.abandonWrite (s : State) (n : Fin 64) (p : Port) : State :=
  let m := s.mailboxes[n]
  if m.openWrite = some p then s.withMailbox n m.closeWrite else s

/-- Place the words of a capture in the half that is not current (R107); the words disturbed after their placing
are left failed (R105; log entry 5). -/
def State.placeWords (s : State) (m : MailboxRt) (base capacity : Nat) (spoiled : List Nat) (ws : List Word) : State :=
  let start := halfBase base capacity m.half.other
  let written := storeWriteAll start (ws.take capacity) s.store
  let lost := spoiled.filter fun a => start ≤ a && a < start + (ws.take capacity).length
  s.withStore (lost.foldl (fun st a => storeWrite a .failed st) written)

/-- The words of the reception in progress on P that have arrived when its capture is given up (R107): a free choice, at
most as many as the header says. Log entry 5. -/
def State.arrivedWords (s : State) (p : Port) : List Word :=
  (Config.arrivedWords s.choice).take (((s.rx.get p).map (·.header.length)).getD 0)

/-- R107: the capture of P is given up before its payload-complete event. The words that have arrived were placed in the
half that is not current, when the context has a mailbox write open; for every other context nothing was placed. -/
def State.placeArrived (s : State) (p : Port) : State :=
  match s.contexts.get p with
  | none => s
  | some c =>
    match c.target with
    | .mailbox n base capacity spoiled =>
      if c.mark ≠ .cut && s.mailboxes[n].openWrite = some p then
        ({ s with choice := s.choice + 1 }).placeWords s.mailboxes[n] base capacity spoiled (s.arrivedWords p)
      else s
    | .queue _ _ _ _ _ => s

/-- The payload of a mailbox: the stored-length words of its current half (R105); none when one has failed. -/
def State.mailboxPayload (s : State) (n : Fin 64) (d : MailboxDef) : Option (List Word) :=
  let m := s.mailboxes[n]
  s.readWords (halfBase d.base d.capacity m.half) m.length

/-- A read of mailbox `n` found a failed word: the mailbox becomes FAULTED and STORE_PARITY is raised (R105). -/
def State.faultMailbox (s : State) (n : Fin 64) : State :=
  (s.withMailbox n { s.mailboxes[n] with state := .faulted }).raise .storeParity (.mailbox n)

/-- R113: the end of a transmission of a DATA cell copied from mailbox `n` with this tag under this read mode. -/
def State.mailboxEnd (s : State) (n : Fin 64) (tag : BitVec 8) (mode : ReadMode) (e : TxEnd) : State :=
  let m := s.mailboxes[n]
  if e = .clean && mode = .take && (m.state = .fresh || m.state = .stale) && m.tag = tag then
    s.withMailbox n { m with state := .spent }
  else s

/-! ## Aging (R110) -/

/-- The mailbox record after one aging under its definition: the age counts in FRESH, STALE and SPENT, and a FRESH
value whose age reaches a nonzero stale limit becomes STALE. -/
def MailboxRt.aged (m : MailboxRt) (d : MailboxDef) : MailboxRt :=
  if m.state = .fresh || m.state = .stale || m.state = .spent then
    let m := { m with age := satInc m.age }
    if m.state = .fresh && d.staleLimit ≠ 0 && d.staleLimit ≤ m.age then { m with state := .stale } else m
  else m

/-- What aging raises for mailbox `n`: PLAN_PARITY for a failed definition (R70), MAILBOX_STALE when the value
becomes STALE and notify is set. -/
def agingNotices (n : Fin 64) (def_ : Stored MailboxDef) (m : MailboxRt) : List (NoticeKind × Subject) :=
  if def_.parityGood then
    match def_.fields with
    | some d =>
      if (m.aged d).state = .stale && m.state = .fresh && d.notifyStale then [(.mailboxStale, .mailbox n)] else []
    | none => []
  else [(.planParity, .record .active (.mailbox n))]

/-- The record of mailbox `n` after aging: only a mailbox defined with good parity is aged. -/
def agedUnder (def_ : Stored MailboxDef) (m : MailboxRt) : MailboxRt :=
  if def_.parityGood then
    match def_.fields with
    | some d => m.aged d
    | none => m
  else m

/-- R110: the mailboxes of the ACTIVE plan are aged and judged. The raises come in the order of the mailbox numbers
(log entry 12). -/
def State.ageMailboxes (s : State) : State :=
  ({ s with mailboxes := Vector.ofFn fun n : Fin 64 => agedUnder s.active.mailboxes[n] s.mailboxes[n] }).raiseAll
    ((List.finRange 64).flatMap fun n => agingNotices n s.active.mailboxes[n] s.mailboxes[n])

/-! ## Queues -/

/-- The answers of an append (R116). -/
inductive Appended where
  | appended
  | replaced
  | dropped
  deriving DecidableEq, Repr

/-- The entry's words are written at the next free position of the ring and the entry joins the tail (R116). -/
def State.putEntry (s : State) (n : Fin 8) (base capacity depth : Nat) (e : QueueEntry) (ws : List Word) : State :=
  let q := s.queues[n]
  let at_ := ringBase base capacity depth q.headPos q.entries.length
  (s.withStore (storeWriteAll at_ (ws.take capacity) s.store)).withQueue n { q with entries := q.entries ++ [e] }

/-- R116: an append with the figures of the capture context. -/
def State.append (s : State) (n : Fin 8) (base capacity depth : Nat) (policy : FullPolicy) (e : QueueEntry)
    (ws : List Word) : State × Appended :=
  let q := s.queues[n]
  if q.entries.length < depth then (s.putEntry n base capacity depth e ws, .appended)
  else if q.headInFlight.isSome || policy = .dropNewest then (s.raise .queueOverrun (.queue n), .dropped)
  else
    (((s.withQueue n (q.removeHead depth)).putEntry n base capacity depth e ws).raise .queueOverrun (.queue n),
      .replaced)

/-- What a queue offers a slot start (R117). -/
inductive Offer where
  | nothing
  | head (e : QueueEntry) (payload : List Word)
  | faulted
  deriving DecidableEq, Repr

/-- R117: the selection of the head of queue `n` for a slot start of port `p`. -/
def State.selectHead (s : State) (n : Fin 8) (d : QueueDef) (p : Port) : State × Offer :=
  let q := s.queues[n]
  match q.entries, q.headInFlight with
  | [], _ => (s, .nothing)
  | _ :: _, some _ => (s, .nothing)
  | e :: _, none =>
    match s.readWords (ringBase d.base d.capacity d.depth q.headPos 0) e.length with
    | some ws => (s.withQueue n { q with headInFlight := some p }, .head e ws)
    | none => ((s.withQueue n (q.removeHead d.depth)).raise .storeParity (.queue n), .faulted)

/-- R118: the end of a transmission of the head of queue `n` on port `p`, with the retry limit kept with it. When
the head is not in flight on `p`, the end changes nothing. `depth` is the length of the ring. -/
def State.queueEnd (s : State) (n : Fin 8) (depth retryLimit : Nat) (p : Port) (e : TxEnd) : State :=
  let q := s.queues[n]
  if q.headInFlight = some p then
    match e with
    | .clean => s.withQueue n (q.removeHead depth)
    | .disturbed =>
      if q.drained || retryLimit < q.attempts + 1 then
        (s.withQueue n (q.removeHead depth)).raise .queueDiscard (.queue n)
      else s.withQueue n { q with attempts := q.attempts + 1, headInFlight := none }
    | .aborted =>
      if q.drained then s.withQueue n (q.removeHead depth)
      else s.withQueue n { q with headInFlight := none }
  else s

/-- R119: every entry not in flight is removed; a head in flight stays, with its drained flag set. The count of the
entries removed is answered. -/
def State.drain (s : State) (n : Fin 8) (depth : Nat) : State × Nat :=
  let q := s.queues[n]
  match q.headInFlight with
  | some _ => (s.withQueue n { q with entries := q.entries.take 1, drained := true }, q.entries.length - 1)
  | none =>
    (s.withQueue n { q with entries := [], attempts := 0, drained := false,
                            headPos := (q.headPos + q.entries.length) % depth }, q.entries.length)

end Sys2Proof.Machine
end

