-- ==== Sys2Proof/Machine/PlanMemory.lean ====
section
/-! DEFINITION. Plan memory (Chapters 4 and 5): reads with parity, lookups, the commit swap and carry-over. -/

namespace Sys2Proof.Machine

/-! ## Round sets (4.3) -/

/-- R59: the round set matches round `r`. -/
def RoundSet.hits (t : RoundSet) (r : Round) : Bool := r.toNat % t.period = t.phase

/-- R60: two round sets overlap when their phases leave the same remainder on division by the smaller period. -/
def RoundSet.overlaps (t v : RoundSet) : Bool :=
  t.phase % min t.period v.period = v.phase % min t.period v.period

/-- R57: the capture entry matches slot `slot` of round `r` of port `p`. -/
def CaptureEntry.hits (e : CaptureEntry) (p : Port) (slot : Nat) (r : Round) : Bool :=
  e.port = p && e.slot = slot && e.rounds.hits r

/-- R58: the emit entry matches slot `slot` of round `r` of port `p`. -/
def EmitEntry.hits (e : EmitEntry) (p : Port) (slot : Nat) (r : Round) : Bool :=
  e.port = p && e.slot = slot && e.rounds.hits r

/-! ## Reads (R70) -/

/-- The fields a reader of the record sees: none when it is undefined or has failed parity (R70). -/
def Stored.seen {α : Type} (x : Stored α) : Option α := if x.parityGood then x.fields else none

/-- The bank of a role (R52). -/
def State.bank (s : State) : BankRole → Bank
  | .active => s.active
  | .staged => s.staged

/-- The parity condition of a record of a bank (R69). -/
def Bank.parityGood (b : Bank) : RecordRef → Bool
  | .mailbox n => b.mailboxes[n].parityGood
  | .queue n => b.queues[n].parityGood
  | .capture n => b.captures[n].parityGood
  | .emit n => b.emits[n].parityGood

/-- The notice of a read of this record: PLAN_PARITY when its parity has failed (R70). -/
def Bank.readNotice (b : Bank) (role : BankRole) (ref : RecordRef) : List (NoticeKind × Subject) :=
  if b.parityGood ref then [] else [(.planParity, .record role ref)]

/-- A read of a record of the ACTIVE bank: PLAN_PARITY is raised when its parity has failed (R70). -/
def State.readActive (s : State) (ref : RecordRef) : State := s.raiseAll (s.active.readNotice .active ref)

/-- The definition of a place exists with good parity in the bank. -/
def Bank.placeSeen (b : Bank) : Place → Bool
  | .mailbox n => b.mailboxes[n].seen.isSome
  | .queue n => b.queues[n].seen.isSome

/-- The record that defines a place. -/
def Place.ref : Place → RecordRef
  | .mailbox n => .mailbox n
  | .queue n => .queue n

/-! ## Lookups (4.4) -/

/-- The capture entry of a bank that matches, if one does (R53: at most one in ACTIVE; the lowest is taken). -/
def Bank.findCapture (b : Bank) (p : Port) (slot : Nat) (r : Round) : Option (Fin 128 × CaptureEntry) :=
  (List.finRange 128).findSome? fun n =>
    match b.captures[n].seen with
    | some e => if e.hits p slot r then some (n, e) else none
    | none => none

/-- The emit entry of a bank that matches, if one does. -/
def Bank.findEmit (b : Bank) (p : Port) (slot : Nat) (r : Round) : Option (Fin 128 × EmitEntry) :=
  (List.finRange 128).findSome? fun n =>
    match b.emits[n].seen with
    | some e => if e.hits p slot r then some (n, e) else none
    | none => none

/-- A lookup examines every capture entry of ACTIVE, and each failed one raises PLAN_PARITY (R70). The raises come in
the order of the entry numbers (log entry 12). -/
def State.readCaptures (s : State) : State :=
  s.raiseAll ((List.finRange 128).flatMap fun n => s.active.readNotice .active (.capture n))

/-- A lookup examines every emit entry of ACTIVE (R70). -/
def State.readEmits (s : State) : State :=
  s.raiseAll ((List.finRange 128).flatMap fun n => s.active.readNotice .active (.emit n))

/-! ## The commit swap (5.6) -/

/-- R88: the mailbox is kept when both plans define it with good parity, the same base word and the same capacity. -/
def mailboxKept (old new : Stored MailboxDef) : Bool :=
  match old.seen, new.seen with
  | some a, some b => a.base = b.base && a.capacity = b.capacity
  | _, _ => false

/-- R89: the queue is kept when both plans define it with good parity, the same base word, entry capacity and
depth. -/
def queueKept (old new : Stored QueueDef) : Bool :=
  match old.seen, new.seen with
  | some a, some b => a.base = b.base && a.capacity = b.capacity && a.depth = b.depth
  | _, _ => false

/-- Carry-over from plan `old` to plan `new` keeps the place (R88, R89). -/
def placeKept (old new : Bank) : Place → Bool
  | .mailbox n => mailboxKept old.mailboxes[n] new.mailboxes[n]
  | .queue n => queueKept old.queues[n] new.queues[n]

/-- The place a capture context captures into. -/
def CaptureTarget.place : CaptureTarget → Place
  | .mailbox n _ _ _ => .mailbox n
  | .queue n _ _ _ _ => .queue n

/-- The mark a swap leaves: a mark CUT stands, otherwise CARRIED when the place is kept and CUT when it is not. -/
def SwapMark.after (m : SwapMark) (kept : Bool) : SwapMark :=
  match m with
  | .cut => .cut
  | .none => if kept then .carried else .cut
  | .carried => if kept then .carried else .cut

/-- R87: the context is marked at a swap. -/
def CaptureContext.swapped (c : CaptureContext) (old new : Bank) : CaptureContext :=
  { c with mark := c.mark.after (placeKept old new c.target.place) }

/-- The source of the transmission is kept by carry-over; a void cell has none (R90). -/
def SourceEffect.kept (old new : Bank) : SourceEffect → Bool
  | .mailbox n _ _ => placeKept old new (.mailbox n)
  | .queue n _ _ => placeKept old new (.queue n)
  | .none => false

/-- R90: the transmission is marked at a swap. -/
def EmitRecord.swapped (r : EmitRecord) (old new : Bank) : EmitRecord :=
  { r with mark := r.mark.after (r.effect.kept old new) }

/-- R87, R88: at a carry-over that resets the mailbox, the open write of P's capture ends; the words that had arrived
were placed (R107). -/
def State.cutWrite (s : State) (old new : Bank) (p : Port) : State :=
  match s.contexts.get p with
  | none => s
  | some c => if placeKept old new c.target.place then s else s.placeArrived p

/-- R88, R89: the runtime records after carry-over, and the marks of the contexts and transmissions that span it. -/
def State.carryOver (s : State) (old new : Bank) : State :=
  { s with
    mailboxes := Vector.ofFn fun n : Fin 64 =>
      if mailboxKept old.mailboxes[n] new.mailboxes[n] then s.mailboxes[n] else .reset
    queues := Vector.ofFn fun n : Fin 8 =>
      if queueKept old.queues[n] new.queues[n] then s.queues[n] else .reset
    contexts := ⟨s.contexts.u.map (·.swapped old new), s.contexts.l.map (·.swapped old new)⟩
    emitRecords := ⟨s.emitRecords.u.map (·.swapped old new), s.emitRecords.l.map (·.swapped old new)⟩ }

/-- The failed definitions that carry-over reads, with the roles after the exchange (R86 step 6, R70), by number,
ACTIVE before STAGED (log entry 12). -/
def State.carryOverNotices (s : State) : List (NoticeKind × Subject) :=
  ((List.finRange 64).flatMap fun n =>
    s.active.readNotice .active (.mailbox n) ++ s.staged.readNotice .staged (.mailbox n)) ++
  ((List.finRange 8).flatMap fun n =>
    s.active.readNotice .active (.queue n) ++ s.staged.readNotice .staged (.queue n))

/-- R86: the swap, in its order: roles, generation, outcomes, check state, COMMIT_DONE, carry-over. -/
def State.swap (s : State) : State :=
  let s1 : State :=
    { s with active := s.staged, staged := s.active, generation := s.generation + 1,
             captureOutcomes := Vector.replicate 128 none, emitOutcomes := Vector.replicate 128 none,
             checkState := .unchecked }
  let s2 := s1.raise .commitDone .none
  let s3 := s2.raiseAll s2.carryOverNotices
  ((s3.cutWrite s.active s.staged .u).cutWrite s.active s.staged .l).carryOver s.active s.staged

/-- R86: an L round start performs a pending commit. -/
def State.swapIfPending (s : State) : State := if s.checkState = .commitPending then s.swap else s

end Sys2Proof.Machine
end

