-- ==== Sys2Proof/Machine/Checker.lean ====
section
/-! DEFINITION. The plan checker (5.3): the order of Table 5-1 and the first fault in it. -/

namespace Sys2Proof.Machine

/-- A fault and the record it names (Table 5-2). -/
abbrev PlanFault := FaultCode × RecordRef

/-- The fault `c` against `r` when the test fails. -/
def faultWhen (failed : Bool) (c : FaultCode) (r : RecordRef) : Option PlanFault := if failed then some (c, r) else none

/-! ## Regions (R76, R77) -/

/-- The words of a mailbox definition's region: first word and length (R55). -/
def MailboxDef.region (d : MailboxDef) : Nat × Nat := (d.base, 2 * d.capacity)

/-- The words of a queue definition's region (R56). -/
def QueueDef.region (d : QueueDef) : Nat × Nat := (d.base, d.depth * d.capacity)

/-- R76: the region ends within word 4095. -/
def regionFits (g : Nat × Nat) : Bool := g.1 + g.2 ≤ 4096

/-- R77: each of two regions begins no later than the last word of the other. -/
def regionsMeet (g h : Nat × Nat) : Bool := g.1 < h.1 + h.2 && h.1 < g.1 + g.2

/-- The regions of the defined mailboxes and then of the defined queues, with their records (R77). -/
def Bank.regions (b : Bank) : List (RecordRef × Nat × Nat) :=
  ((List.finRange 64).filterMap fun n => (b.mailboxes[n].fields).map fun d => (.mailbox n, d.region)) ++
  ((List.finRange 8).filterMap fun n => (b.queues[n].fields).map fun d => (.queue n, d.region))

/-- Step 3: the first region that shares a word with an earlier one. -/
def overlapFault (seen : List (Nat × Nat)) : List (RecordRef × Nat × Nat) → Option PlanFault
  | [] => none
  | (r, g) :: t => if seen.any (regionsMeet g) then some (.regionOverlap, r) else overlapFault (g :: seen) t

/-! ## Entries (R78, R79) -/

/-- A place is defined in the bank. -/
def Bank.placeDefined (b : Bank) : Place → Bool
  | .mailbox n => b.mailboxes[n].fields.isSome
  | .queue n => b.queues[n].fields.isSome

/-- The copied slot count of a port (R72). -/
def CheckFigures.slotCount (f : CheckFigures) : Port → Nat
  | .u => f.uSlotCount
  | .l => f.lSlotCount

/-- The slot is reserved on the port in the copied figures (R78, R79): its response slot, or the L beacon slot. -/
def CheckFigures.reserved (f : CheckFigures) : Port → Nat → Bool
  | .u, slot => slot = f.uResponseSlot
  | .l, slot => slot = f.lResponseSlot || slot = f.lBeaconSlot

/-- Two entries of the same port and slot whose round sets overlap (R60). -/
def clash (p q : Port) (slot slot' : Nat) (t v : RoundSet) : Bool := p = q && slot = slot' && t.overlaps v

/-- The defined capture entries of a bank. -/
def Bank.captureList (b : Bank) : List (Fin 128 × CaptureEntry) :=
  (List.finRange 128).filterMap fun n => (b.captures[n].fields).map (n, ·)

/-- The defined emit entries of a bank. -/
def Bank.emitList (b : Bank) : List (Fin 128 × EmitEntry) :=
  (List.finRange 128).filterMap fun n => (b.emits[n].fields).map (n, ·)

/-- The capture entry overlaps a lower-numbered one (R78). -/
def Bank.captureClash (b : Bank) (n : Fin 128) (e : CaptureEntry) : Bool :=
  b.captureList.any fun x => x.1 < n && clash x.2.port e.port x.2.slot e.slot x.2.rounds e.rounds

/-- The emit entry overlaps a lower-numbered one (R79). -/
def Bank.emitClash (b : Bank) (n : Fin 128) (e : EmitEntry) : Bool :=
  b.emitList.any fun x => x.1 < n && clash x.2.port e.port x.2.slot e.slot x.2.rounds e.rounds

/-- The emit entry overlaps a capture entry, of any number (R79). -/
def Bank.selfClash (b : Bank) (e : EmitEntry) : Bool :=
  b.captureList.any fun x => clash x.2.port e.port x.2.slot e.slot x.2.rounds e.rounds

/-- The four tests of R78 on a defined capture entry, in their order. -/
def Bank.captureFault (b : Bank) (f : CheckFigures) (n : Fin 128) (e : CaptureEntry) : Option PlanFault :=
  [faultWhen (!b.placeDefined e.target) .noTarget (.capture n),
   faultWhen (f.slotCount e.port < e.slot) .slotRange (.capture n),
   faultWhen (f.reserved e.port e.slot) .reservedSlot (.capture n),
   faultWhen (b.captureClash n e) .captureOverlap (.capture n)].findSome? id

/-- The five tests of R79 on a defined emit entry, in their order. -/
def Bank.emitFaultOf (b : Bank) (f : CheckFigures) (n : Fin 128) (e : EmitEntry) : Option PlanFault :=
  [faultWhen (!b.placeDefined e.source) .noTarget (.emit n),
   faultWhen (f.slotCount e.port < e.slot) .slotRange (.emit n),
   faultWhen (f.reserved e.port e.slot) .reservedSlot (.emit n),
   faultWhen (b.emitClash n e) .emitOverlap (.emit n),
   faultWhen (b.selfClash e) .selfSlot (.emit n)].findSome? id

/-! ## Connections (R80) -/

/-- Some defined capture entry of port `p` has the place as its target. -/
def Bank.capturedFrom (b : Bank) (k : Place) (p : Port) : Bool :=
  b.captureList.any fun x => x.2.target = k && x.2.port = p

/-- Some defined emit entry of port `p` has the place as its source. -/
def Bank.emittedOn (b : Bank) (k : Place) (p : Port) : Bool :=
  b.emitList.any fun x => x.2.source = k && x.2.port = p

/-- R80, step 6: a defined place captured from both ports. -/
def Bank.ingressFault (b : Bank) (k : Place) : Option PlanFault :=
  faultWhen (b.placeDefined k && b.capturedFrom k .u && b.capturedFrom k .l) .mixedIngress k.ref

/-- R80, step 7: a defined queue emitted on both ports. -/
def Bank.egressFault (b : Bank) (n : Fin 8) : Option PlanFault :=
  faultWhen (b.placeDefined (.queue n) && b.emittedOn (.queue n) .u && b.emittedOn (.queue n) .l) .mixedEgress (.queue n)

/-! ## The check -/

/-- R75: the first read of a record; a record whose parity failed only after its read reads well (log entry 6). -/
def Bank.readFault (b : Bank) (readBefore : List RecordRef) (r : RecordRef) : Option PlanFault :=
  faultWhen (!b.parityGood r && !readBefore.contains r) .parity r

/-- The fault found at mailbox definition `n` in step 1. -/
def Bank.step1 (b : Bank) (rb : List RecordRef) (n : Fin 64) : Option PlanFault :=
  (b.readFault rb (.mailbox n)).or
    (b.mailboxes[n].fields.bind fun d => faultWhen (!regionFits d.region) .regionRange (.mailbox n))

/-- The fault found at queue definition `n` in step 2. -/
def Bank.step2 (b : Bank) (rb : List RecordRef) (n : Fin 8) : Option PlanFault :=
  (b.readFault rb (.queue n)).or
    (b.queues[n].fields.bind fun d => faultWhen (!regionFits d.region) .regionRange (.queue n))

/-- The fault found at capture entry `n` in step 4. -/
def Bank.step4 (b : Bank) (rb : List RecordRef) (f : CheckFigures) (n : Fin 128) : Option PlanFault :=
  (b.readFault rb (.capture n)).or (b.captures[n].fields.bind (b.captureFault f n))

/-- The fault found at emit entry `n` in step 5. -/
def Bank.step5 (b : Bank) (rb : List RecordRef) (f : CheckFigures) (n : Fin 128) : Option PlanFault :=
  (b.readFault rb (.emit n)).or (b.emits[n].fields.bind (b.emitFaultOf f n))

/-- The seven steps of Table 5-1, each the first fault among its records. -/
def Bank.checkSteps (b : Bank) (f : CheckFigures) (rb : List RecordRef) : List (Option PlanFault) :=
  [(List.finRange 64).findSome? (b.step1 rb),
   (List.finRange 8).findSome? (b.step2 rb),
   overlapFault [] b.regions,
   (List.finRange 128).findSome? (b.step4 rb f),
   (List.finRange 128).findSome? (b.step5 rb f),
   ((List.finRange 64).findSome? fun n => b.ingressFault (.mailbox n)).or
     ((List.finRange 8).findSome? fun n => b.ingressFault (.queue n)),
   (List.finRange 8).findSome? b.egressFault]

/-- R75: the first fault of the bank in the order of Table 5-1, none when the bank passes. -/
def Bank.check (b : Bank) (f : CheckFigures) (rb : List RecordRef) : Option PlanFault :=
  (b.checkSteps f rb).findSome? id

/-- The figures the checker copies from the stored profiles (R72). -/
def State.figures (s : State) : CheckFigures :=
  { uSlotCount := s.uStored.slotCount, uResponseSlot := s.uStored.responseSlot, lSlotCount := s.lStored.slotCount,
    lBeaconSlot := s.lStored.beaconSlot, lResponseSlot := s.lStored.responseSlot }

end Sys2Proof.Machine
end

