-- ==== Sys2Proof/Machine/Agent.lean ====
section
/-! DEFINITION. The management agent (Chapter 9): parties, the claim and its timeout, the deferred response. -/

namespace Sys2Proof.Machine

/-! ## Parties (9.2) -/

/-- Position `i` holds the party `id`. -/
def State.partyAt (s : State) (id : PartyId) (i : Fin 8) : Bool :=
  match s.parties[i] with
  | some q => q.id = id
  | none => false

/-- The position of a party in the table. -/
def State.findParty (s : State) (id : PartyId) : Option (Fin 8) := (List.finRange 8).find? (s.partyAt id)

/-- The record of a party just admitted (R137). -/
def Party.fresh (id : PartyId) : Party := { id, lastSeq := none, cached := none, outstanding := none, idle := 0 }

/-- The lowest free position (R137). -/
def State.freePosition (s : State) : Option (Fin 8) := (List.finRange 8).find? fun i => s.parties[i].isNone

/-- The idle rounds of a position that may be evicted: neither the claim holder nor a party with an outstanding
sequence (R137). -/
def State.evictable (s : State) (i : Fin 8) : Option (BitVec 8) :=
  match s.parties[i] with
  | some q => if s.claim ≠ some q.id && q.outstanding.isNone then some q.idle else none
  | none => none

/-- Of two candidates the one with the larger idle rounds, the earlier one among equals (R137). -/
def moreIdle (best : Option (Fin 8 × BitVec 8)) (c : Fin 8 × BitVec 8) : Option (Fin 8 × BitVec 8) :=
  match best with
  | none => some c
  | some b => if b.2 < c.2 then some c else some b

/-- The position of the victim of an eviction (R137). -/
def State.victim (s : State) : Option (Fin 8) :=
  (((List.finRange 8).filterMap fun i => (s.evictable i).map (i, ·)).foldl moreIdle none).map (·.1)

/-- Change the record at a position of the table, if it holds one. -/
def State.updateParty (s : State) (i : Fin 8) (f : Party → Party) : State :=
  s.withParty i (s.parties[i].map f)

/-- Step 1 of R138: the party is found, or admitted (R137), and its idle rounds become 0 (R136). The answer is its
position; none when no position can be had, which R137 says does not happen (log entry 17). -/
def State.admitParty (s : State) (id : PartyId) : State × Option (Fin 8) :=
  match s.findParty id with
  | some i => (s.updateParty i fun q => { q with idle := 0 }, some i)
  | none =>
    match s.freePosition with
    | some i => (s.withParty i (some (.fresh id)), some i)
    | none =>
      match s.victim with
      | some i => (s.withParty i (some (.fresh id)), some i)
      | none => (s, none)

/-! ## The deferred response (R144) -/

/-- The party with an outstanding sequence (R143: at most one). -/
def State.outstandingParty (s : State) : Option (Fin 8 × Party × Seq) :=
  (List.finRange 8).findSome? fun i =>
    match s.parties[i] with
    | some q => q.outstanding.map fun n => (i, q, n)
    | none => none

/-- R144: the deferred response is queued when there is room and the port is running, cached when the check is still
the party's last request, and the outstanding sequence is cleared. The code echoed is 20 (R171). -/
def State.giveDeferred (s : State) (status : Status) (results : List Word) : State :=
  match s.outstandingParty with
  | none => s
  | some (i, q, n) =>
    let reply : Reply := { status, seq := n, code := Req.check.code, results }
    let q' : Party :=
      { q with outstanding := none, cached := if q.lastSeq = some n then some reply else q.cached }
    let s' := s.withParty i (some q')
    if s.portRunning q.id.port then
      s'.enqueue q.id.port { station := q.id.station, reply, mark := none }
    else s'

/-- R81: the claim ended; a check in progress is abandoned: the state becomes UNCHECKED and ABANDONED is given. -/
def State.abandonCheck (s : State) : State :=
  match s.checkState with
  | .checking _ _ _ => (s.withCheck .unchecked).giveDeferred .abandoned []
  | .unchecked => s
  | .passed => s
  | .failed _ _ => s
  | .commitPending => s

/-! ## The claim timeout (R136, R142) -/

/-- R136: the idle rounds of every party increase by one. -/
def State.countIdle (s : State) : State :=
  { s with parties := Vector.ofFn fun i : Fin 8 => s.parties[i].map fun q => { q with idle := satInc q.idle } }

/-- The idle rounds of the claim holder. -/
def State.holderIdle (s : State) : Option (BitVec 8) :=
  match s.claim with
  | none => none
  | some id => (s.findParty id).bind fun i => s.parties[i].map (·.idle)

/-- R142: the claim is judged: when the holder's idle rounds are at least the claim timeout, the claim becomes free,
CLAIM_EXPIRED is raised and a check in progress is abandoned. -/
def State.judgeClaim (s : State) : State :=
  match s.holderIdle with
  | some k =>
    if s.settings.claimTimeout ≤ k then ((s.withClaim none).raise .claimExpired .none).abandonCheck else s
  | none => s

/-- The agent's part of an L round start. -/
def State.agentRound (s : State) : State := s.countIdle.judgeClaim

end Sys2Proof.Machine
end

