-- ==== Sys2Proof/Machine/LocalTiming.lean ====
section
/-! DEFINITION. The local timing (Chapter 3): L round starts and their delivery, alignment points, untying. -/

namespace Sys2Proof.Machine

/-! ## L round starts (3.6) -/

/-- The blocks whose order at an L round start is free (R49, R111, R165). -/
inductive RoundWork where
  | aging
  | agent
  | swap
  deriving DecidableEq, Repr

/-- What each block does at an L round start: aging (R110), idle counts and the claim (R136, R142), the swap (R86). -/
def RoundWork.run : RoundWork → State → State
  | .aging, s => s.ageMailboxes
  | .agent, s => s.agentRound
  | .swap, s => s.swapIfPending

/-- The three blocks in an order. -/
def orderedWork : RoundOrder → List RoundWork
  | .agingAgentSwap => [.aging, .agent, .swap]
  | .agingSwapAgent => [.aging, .swap, .agent]
  | .agentAgingSwap => [.agent, .aging, .swap]
  | .agentSwapAging => [.agent, .swap, .aging]
  | .swapAgingAgent => [.swap, .aging, .agent]
  | .swapAgentAging => [.swap, .agent, .aging]

/-- R49 with the blocks in the given order. The countdown step of the notice unit gives the same queue before or
after any raise (R49), so it stands last. -/
def State.deliverIn (o : RoundOrder) (s : State) : State :=
  ((orderedWork o).foldl (fun s w => w.run s) s).countDown

/-- R49: an L round start is delivered to the four blocks; their order is a free choice. -/
def State.deliverLRound (s : State) : State :=
  State.deliverIn (Config.roundOrder s.choice) { s with choice := s.choice + 1 }

/-- The local timing record at the start of L round `n` (R42): the round runs, no slot is current yet, no alignment
is pending. -/
def State.beginLRound (s : State) (state : LState) (n : Round) : State :=
  (s.withLTime (.roundStarted state n)).withFlags .l .clear

/-- An L round start on the local timer, in UNTIED, numbered one more (R42, R48). -/
def State.untiedRound (s : State) : State :=
  (s.beginLRound .untied (s.lTime.round.getD 0 + 1)).deliverLRound

/-! ## Alignment points (3.4) -/

/-- R46, R47: an alignment is taken: the L round start numbered with its U round number. From TYING the state becomes
TIED and TIE_GAINED is raised, before or after what the round start raises (a free choice, R165). DESIGN CHOICE: it is
not raised between two of the raises of aging, the agent and the swap, which R165 also allows (log entry 32). -/
def State.takeAlignment (s : State) (a : Alignment) : State :=
  let s' := s.beginLRound .tied a.round
  if s.lTime.state = .tying then either (·.raise .tieGained .none) State.deliverLRound s' else s'.deliverLRound

/-- Port L is TYING or TIED. -/
def State.tyingOrTied (s : State) : Bool := s.lTime.state = .tying || s.lTime.state = .tied

/-- R46, R47: the pending alignment `a` falls due. -/
def State.alignmentFallsDue (s : State) (a : Alignment) : State :=
  if s.lTime.running = false then s.takeAlignment a
  else if s.lTime.state = .tied || s.lTime.slot = some s.lInUse.slotCount then
    s.withLTime { s.lTime with pending := some { a with held := true } }
  else s.withLTime { s.lTime with pending := none }

/-- R44, R45: a U round start beginning U round `n` is delivered to the local timing: UNTIED becomes TYING when the
tying conditions hold, and in TYING or TIED a pending alignment is recorded, in place of one still pending. -/
def State.deliverURound (s : State) (n : Round) : State :=
  let s' :=
    if s.lTime.state = .untied && s.tieConditions then s.withLTime { s.lTime with state := .tying } else s
  if s'.tyingOrTied then
    s'.withLTime { s'.lTime with pending := some { round := n, offset := s.lInUse.tieOffset, held := false } }
  else s'

/-! ## Untying (3.5) -/

/-- R48: port U has left LOCKED: TYING or TIED becomes UNTIED and the pending alignment is discarded; TIE_LOST is
raised from TIED. An idle port L then starts its next round at once on the local timer, by the L_ROUND_START that
follows (log entry 18). DESIGN CHOICE: TIE_LOST then carries the round last ended; the spec leaves open whether it carries
that or the one so started (log entry 31). -/
def State.untie (s : State) : State :=
  match s.lTime.state with
  | .tied => (s.withLTime { s.lTime with state := .untied, pending := none }).raise .tieLost .none
  | .tying => s.withLTime { s.lTime with state := .untied, pending := none }
  | .untied => s
  | .off => s

/-- The L round start that may be taken now: on the local timer in UNTIED with no round running (R42, R48), at the
pending alignment in TYING or TIED while idle (R46, R47). -/
def State.nextLRound (s : State) : Option (State → State) :=
  if s.lTime.running then none
  else
    match s.lTime.state, s.lTime.pending with
    | .untied, _ => some State.untiedRound
    | .tying, some a => some (·.takeAlignment a)
    | .tied, some a => some (·.takeAlignment a)
    | .tying, none => none
    | .tied, none => none
    | .off, _ => none

/-- Take the L round start that may be taken now, if there is one and `due` holds; otherwise there is no such event
and nothing changes (log entry 13). -/
def State.takeLRound (s : State) (due : Bool) : State :=
  match s.nextLRound with
  | some f => if due then f s else s
  | none => s

end Sys2Proof.Machine
end

