-- ==== Sys2Proof/Machine/Emit.lean ====
section
/-! DEFINITION. The emit unit (Chapter 8): what a slot start sends and what a transmission end does. -/

namespace Sys2Proof.Machine

/-! ## Cells the bridge sends -/

/-- The header of a cell the bridge sends on P in the current slot and round (R14). -/
def sentHeader (kind : CellKind) (stale : Bool) (slot : Nat) (round : Round) (source dest : Station)
    (payload : List Word) : Header :=
  { kind, stale, round, slot, source, dest, length := payload.length }

/-- Load P's transmit buffer; the port begins sending at once (R14). -/
def State.load (s : State) (p : Port) (c : Cell) : State :=
  (s.withTx p (some c)).withFlags p { s.slotFlags.get p with sent := true }

/-- R43: the BEACON of the L beacon slot; the tied flag is set in TIED. -/
def State.beaconCell (s : State) (slot : Nat) (round : Round) : Cell :=
  let payload := [beaconWord (s.lTime.state = .tied) s.lInUse.slotCount]
  { header := sentHeader .beacon false slot round (s.address .l) 0 payload, payload }

/-- The RESPONSE cell of a queued response (R139, R123). -/
def State.responseCell (s : State) (p : Port) (slot : Nat) (round : Round) (r : Response) : Cell :=
  let payload := r.reply.payload
  { header := sentHeader .response false slot round (s.address p) r.station payload, payload }

/-- The NOTICE cell of an entry (R167, 12.5). -/
def State.noticeCell (s : State) (p : Port) (slot : Nat) (round : Round) (e : Notice) : Cell :=
  let payload := e.payload
  { header := sentHeader .notice false slot round (s.address p) (s.noticeTarget p) payload, payload }

/-- A void cell (R130). -/
def State.voidCell (s : State) (p : Port) (slot : Nat) (round : Round) : Cell :=
  { header := sentHeader .void false slot round (s.address p) 0 [], payload := [] }

/-- A DATA cell (R129): the source is the stored station under PRESERVE, the bridge's address under SELF. -/
def State.dataCell (s : State) (p : Port) (slot : Nat) (round : Round) (stale : Bool) (origin : Origin)
    (stored : Station) (payload : List Word) : Cell :=
  let source := match origin with
    | .preserve => stored
    | .self => s.address p
  { header := sentHeader .data stale slot round source 0 payload, payload }

/-! ## Response slots (R123) -/

/-- R123: the head response, else the oldest due notice when the target is not 0, else nothing. -/
def State.serveResponseSlot (s : State) (p : Port) (slot : Nat) (round : Round) : State :=
  match s.responses.get p with
  | r :: _ => s.load p (s.responseCell p slot round r)
  | [] =>
    match s.oldestDue with
    | some e => if s.noticeTarget p ≠ 0 then (s.markSent e).load p (s.noticeCell p slot round e) else s
    | none => s

/-! ## Data slots (8.2) -/

/-- R127: the on-empty or on-stale policy calls for a void cell: it is loaded, with this intended outcome. -/
def State.sendVoid (s : State) (p : Port) (slot : Nat) (round : Round) (n : Fin 128) (intended : EmitOutcome) : State :=
  (s.load p (s.voidCell p slot round)).withEmitRecord p
    (some { entry := n, round, void := true, effect := .none, intended, mark := .none })

/-- R127: the on-empty policy of the entry. `intended` is what a void cell's end records, `quiet` what silence
records at the slot start. -/
def State.applyOnEmpty (s : State) (p : Port) (slot : Nat) (round : Round) (n : Fin 128) (e : EmitEntry)
    (intended quiet : EmitOutcome) : State :=
  match e.onEmpty with
  | .void => s.sendVoid p slot round n intended
  | .silent => s.recordEmit n quiet round

/-- The on-empty policy with outcome FAULT (R125, R126, R128). -/
def State.emitFault (s : State) (p : Port) (slot : Nat) (round : Round) (n : Fin 128) (e : EmitEntry) : State :=
  s.applyOnEmpty p slot round n e .fault .fault

/-- The on-empty policy of a source with nothing to send. -/
def State.emitEmpty (s : State) (p : Port) (slot : Nat) (round : Round) (n : Fin 128) (e : EmitEntry) : State :=
  s.applyOnEmpty p slot round n e .voidSent .silent

/-- R112, R125: the copy of the current half is sent as a DATA cell; a failed word makes the mailbox FAULTED, raises
STORE_PARITY, and the on-empty policy applies with FAULT. -/
def State.emitCopy (s : State) (p : Port) (slot : Nat) (round : Round) (n : Fin 128) (e : EmitEntry) (k : Fin 64)
    (d : MailboxDef) (stale : Bool) (intended : EmitOutcome) : State :=
  let m := s.mailboxes[k]
  match s.mailboxPayload k d with
  | some ws =>
    (s.load p (s.dataCell p slot round stale e.origin (m.source.getD 0) ws)).withEmitRecord p
      (some { entry := n, round, void := false, effect := .mailbox k m.tag d.readMode, intended, mark := .none })
  | none => (s.faultMailbox k).emitFault p slot round n e

/-- R125: the first line of Table 8-2 that fits the state of the source mailbox. -/
def State.emitMailbox (s : State) (p : Port) (slot : Nat) (round : Round) (n : Fin 128) (e : EmitEntry) (k : Fin 64)
    (d : MailboxDef) : State :=
  match s.mailboxes[k].state, e.onStale with
  | .fresh, _ => s.emitCopy p slot round n e k d false .sent
  | .stale, .sendMarked => s.emitCopy p slot round n e k d true .sentStale
  | .stale, .void => s.sendVoid p slot round n .voidSent
  | .stale, .silent => s.recordEmit n .silent round
  | .empty, _ => s.emitEmpty p slot round n e
  | .spent, _ => s.emitEmpty p slot round n e
  | .faulted, _ => s.emitFault p slot round n e

/-- R126: the answer of a queue source. -/
def State.emitQueue (s : State) (p : Port) (slot : Nat) (round : Round) (n : Fin 128) (e : EmitEntry) (k : Fin 8)
    (d : QueueDef) : State :=
  match s.selectHead k d p with
  | (s', .head q ws) =>
    (s'.load p (s'.dataCell p slot round false e.origin q.source ws)).withEmitRecord p
      (some { entry := n, round, void := false, effect := .queue k d.depth d.retryLimit, intended := .sent,
              mark := .none })
  | (s', .nothing) => s'.emitEmpty p slot round n e
  | (s', .faulted) => s'.emitFault p slot round n e

/-- R62: the emit lookup for a data slot, and what follows each of its answers. DESIGN CHOICE: PLAN_PARITY of the lookup
is raised before STORE_PARITY of the copy or head selection at the same slot start; R165 lets different blocks raise in
either order (log entry 30). -/
def State.serveDataSlot (s : State) (p : Port) (slot : Nat) (round : Round) : State :=
  let s0 := s.readEmits
  match s.active.findEmit p slot round with
  | none => s0
  | some (n, e) =>
    let s1 := s0.readActive e.source.ref
    match e.source with
    | .mailbox k =>
      match s.active.mailboxes[k].seen with
      | some d => s1.emitMailbox p slot round n e k d
      | none => s1.emitFault p slot round n e
    | .queue k =>
      match s.active.queues[k].seen with
      | some d => s1.emitQueue p slot round n e k d
      | none => s1.emitFault p slot round n e

/-! ## Transmission ends (8.4) -/

/-- The outcome a transmission end records (R131). -/
def EmitRecord.outcomeAt (r : EmitRecord) : TxEnd → EmitOutcome
  | .clean => r.intended
  | .disturbed => .disturbed
  | .aborted => .aborted

/-- The effect of the end on the source, with the figures kept in the record (R113, R118). -/
def State.sourceEnd (s : State) (p : Port) (effect : SourceEffect) (e : TxEnd) : State :=
  match effect with
  | .mailbox n tag mode => s.mailboxEnd n tag mode e
  | .queue n depth retryLimit => s.queueEnd n depth retryLimit p e
  | .none => s

/-- R131, R132 and R90: the end of a DATA or VOID transmission. Without a swap mark the outcome is recorded, the
source takes its effect and a DISTURBED end raises COLLISION, "taken together" (a free choice of order). A CARRIED
transmission has the source effect alone, a CUT one none. -/
def State.emitEnd (s : State) (p : Port) (e : TxEnd) : State :=
  match s.emitRecords.get p with
  | none => s
  | some r =>
    let s1 := s.withEmitRecord p none
    match r.mark with
    | .cut => s1
    | .carried => s1.sourceEnd p r.effect e
    | .none =>
      let s2 := s1.recordEmit r.entry (r.outcomeAt e) r.round
      if e = .disturbed then either (·.raise .collision (.emit r.entry)) (·.sourceEnd p r.effect e) s2
      else s2.sourceEnd p r.effect e

/-- R15: the transmission in flight on P, if there is one, ends: the buffer is free, a DISTURBED end is counted, a
DATA or VOID end goes to the emit unit. Ends of BEACON and NOTICE cells change nothing more (R15, R167); what the end
of a RESPONSE does stands in Restart. -/
def State.finishTx (s : State) (p : Port) (e : TxEnd) : State :=
  match s.tx.get p with
  | none => s
  | some c =>
    let s1 := s.withTx p none
    let s2 := if e = .disturbed then s1.count p Counters.countDisturbed else s1
    match c.header.kind with
    | .data => s2.emitEnd p e
    | .void => s2.emitEnd p e
    | .beacon => s2
    | .request => s2
    | .response => s2
    | .notice => s2

end Sys2Proof.Machine
end

