-- ==== Sys2Proof/Machine/Restart.lean ====
section
/-! DEFINITION. Starts (R22, R50, R148, R169), departures from LOCKED (R32), restart marks (R148), and the transmission
end of a response. -/

namespace Sys2Proof.Machine

/-! ## Closing a reception context (R33, R103) -/

/-- The context of P is given up: an open mailbox write is abandoned, what had arrived of its cell having been placed
(R107); a held cell is dropped. A context marked CUT waits for nothing. -/
def State.dropContext (s : State) (p : Port) : State :=
  match s.contexts.get p with
  | none => s
  | some c =>
    let s' := (s.placeArrived p).withContext p none
    match c.mark, c.target with
    | .cut, _ => s'
    | .none, .mailbox n _ _ _ => s'.abandonWrite n p
    | .carried, .mailbox n _ _ _ => s'.abandonWrite n p
    | .none, .queue _ _ _ _ _ => s'
    | .carried, .queue _ _ _ _ _ => s'

/-- R33, R103: a departure of port U from LOCKED or a link start closes the context of P; INVALID is recorded with the
context's round, but not when a swap has marked the context. -/
def State.closeContext (s : State) (p : Port) : State :=
  match s.contexts.get p with
  | none => s
  | some c =>
    match c.mark with
    | .none => (s.dropContext p).recordCapture c.entry .invalid c.round
    | .carried => s.dropContext p
    | .cut => s.dropContext p

/-! ## The whole part -/

/-- R169: power-on. The profiles and settings take their power-up defaults, the contents of the store are undefined
anew (R105). -/
def State.powerOn (s : State) (strap : BitVec 6) : State :=
  State.started strap (.powerUp strap) (.powerUp strap) .powerUp [] (s.storeEpoch + 1) s.choice s.pending

/-- R148: a bridge restart keeps the strap value, the stored profiles, the settings record and the store words, those of
the captures it discards included, as far as they had arrived (R107, R108). -/
def State.bridgeRestart (s : State) : State :=
  let s1 := (s.placeArrived .u).placeArrived .l
  State.started s.strap s.uStored s.lStored s.settings s1.store s.storeEpoch s1.choice s.pending

/-! ## Link starts, before the marks of the flushed queue act -/

/-- R22: the steps of a link start of U by a RESTART_LINK; from LOCKED it is a departure from LOCKED as well (R32).
DESIGN CHOICE: where port L was idle, TYING or TIED, LOCK_LOST carries the L round last ended (log entry 31). -/
def State.startLinkU (s : State) : State :=
  let s1 := (((s.closeContext .u).withRx .u none).finishTx .u .aborted).flush .u
  let s2 := { s1 with uInUse := s1.uStored, uTime := .atStart s1.uStored.enabled,
                      slotFlags := s1.slotFlags.set .u .clear }
  if s.locked then either (·.raise .lockLost .none) State.untie s2 else s2

/-- Step 6 of R50: the local timing record is set from the adopted profile. -/
def State.startLTime (s : State) : State :=
  if s.lInUse.enabled then s.beginLRound (if s.locked && s.tieConditions then .tying else .untied) 0
  else s.withLTime .disabled

/-- The round-0 start of an enabled port L is an L round start for all the blocks of R49 (R50). -/
def State.deliverRoundZero (s : State) : State := if s.lInUse.enabled then s.deliverLRound else s

/-- R50: the steps of a link start of L by a RESTART_LINK. From TIED, TIE_LOST is raised: the steps "are taken
together", so it may be raised before the record is set, between, or after the round start (free choices; log entry
19). DESIGN CHOICE: it is not raised between two of the raises of that round start (log entry 32). -/
def State.startLinkL (s : State) : State :=
  let s1 := (((s.closeContext .l).withRx .l none).finishTx .l .aborted).flush .l
  let s2 := { s1 with lInUse := s1.lStored, slotFlags := s1.slotFlags.set .l .clear }
  if s.lTime.state = .tied then
    if Config.takenFirst s2.choice then
      (({ s2 with choice := s2.choice + 1 }).raise .tieLost .none).startLTime.deliverRoundZero
    else
      either (·.raise .tieLost .none) State.deliverRoundZero ({ s2 with choice := s2.choice + 1 }).startLTime
  else s2.startLTime.deliverRoundZero

/-- The link start of a port, before the marks of its flushed queue act. -/
def State.startLink (s : State) : Port → State
  | .u => s.startLinkU
  | .l => s.startLinkL

/-! ## Restart marks (R148) -/

/-- R148, R35: the second link start of P, caused by the marks that the first one flushed. A mark takes effect at that
flush, so its own flush, which finds the queue empty, comes before the round-0 start of the first: of its steps there
remain those of U on a port that has left LOCKED, and for L the timing record and the round-0 start (log entry 19). -/
def State.startLinkAgain (s : State) : Port → State
  | .u => s.startLinkU
  | .l => s.startLTime.deliverRoundZero

/-- A link start of P (R22, R50) with the marks of the queue it flushes acted on (R148): a RESTART mark among them causes
one bridge restart, which contains the link start; otherwise the marks naming P cause one more link start of it. -/
def State.linkStart (s : State) (p : Port) : State :=
  if .bridge ∈ s.marks p then s.bridgeRestart
  else if .link p ∈ s.marks p then (s.startLink p).startLinkAgain p
  else s.startLink p

/-- R148, when a marked response leaves its queue at its transmission end. -/
def State.actOnMark (s : State) : Option RestartMark → State
  | none => s
  | some .bridge => s.bridgeRestart
  | some (.link p) => s.linkStart p

/-! ## Leaving LOCKED by lapse (R32) -/

/-- R32: port U, LOCKED, enters SEEK: the U transmission is aborted, the U capture context closed, the U response queue
flushed, port L untied and LOCK_LOST raised (the last two in either order); the round and slot become unknown (R26).
DESIGN CHOICE: where port L was idle, TYING or TIED, LOCK_LOST carries the L round last ended, not the one that R48 starts
at once (log entry 31). -/
def State.leaveLocked (s : State) : State :=
  let s1 := ((s.finishTx .u .aborted).closeContext .u).flush .u
  either (·.raise .lockLost .none) State.untie { s1 with
    uTime := { s1.uTime with state := .seek, round := none, slot := none, lastSlot := 0 },
    slotFlags := s1.slotFlags.set .u .clear }

/-- A lapse (R32) with the marks of the responses it flushes acted on (R34, R148): a bridge restart, or a link start of U,
which finds port U out of LOCKED. -/
def State.lapse (s : State) : State :=
  if .bridge ∈ s.marks .u then s.bridgeRestart
  else if .link .u ∈ s.marks .u then s.leaveLocked.startLinkU
  else s.leaveLocked

/-! ## Transmission ends (R15) -/

/-- R146: at its CLEAN or DISTURBED end a response leaves its queue, and its restart mark acts (R148). -/
def State.transmissionEnd (s : State) (p : Port) (e : TxEnd) : State :=
  match s.tx.get p with
  | none => s
  | some c =>
    let s1 := s.finishTx p e
    if c.header.kind = .response && e ≠ .aborted then
      (s1.withResponses p (s1.responses.get p).tail).actOnMark ((s.responses.get p).head?.bind (·.mark))
    else s1

end Sys2Proof.Machine
end

