-- ==== Sys2Proof/Machine/Capture.lean ====
section
/-! DEFINITION. The capture unit (Chapter 6): what it does at header accepted, payload complete and slot passed
empty. -/

namespace Sys2Proof.Machine

/-! ## Header accepted (6.2, 6.3) -/

/-- The figures that the context keeps of the target (R61), none when the definition is undefined or failed. -/
def State.targetFigures (s : State) : Place → Option CaptureTarget
  | .mailbox n => s.active.mailboxes[n].seen.map fun d => .mailbox n d.base d.capacity []
  | .queue n => s.active.queues[n].seen.map fun d => .queue n d.base d.capacity d.depth d.fullPolicy

/-- R96, R97: a write opens on the mailbox (INVALID when refused), or the cell is held for the queue. -/
def State.openCapture (s : State) (p : Port) (n : Fin 128) (round : Round) (t : CaptureTarget) : State :=
  let c : CaptureContext := { entry := n, round, target := t, mark := .none }
  match t with
  | .mailbox k _ _ _ =>
    let x := s.openWrite k p
    if x.2 then x.1.withContext p (some c) else s.recordCapture n .invalid round
  | .queue _ _ _ _ _ => s.withContext p (some c)

/-- R93: the lines of Table 6-2 for a matching entry. -/
def State.captureMatched (s : State) (p : Port) (h : Header) (n : Fin 128) (e : CaptureEntry) : State :=
  match s.targetFigures e.target with
  | none => s.recordCapture n .invalid h.round
  | some t =>
    if e.acceptFrom ≠ 0 && e.acceptFrom ≠ h.source then s.recordCapture n .foreign h.round
    else if h.kind = .void then s.recordCapture n .void h.round
    else s.openCapture p n h.round t

/-- R93, R61: a header-accepted event is delivered. The cell passed placement, so its slot and round are the current
ones of the port. A lookup reads every entry, and the target of the entry that matches (R70). -/
def State.captureAtHeader (s : State) (p : Port) (h : Header) : State :=
  let s1 := s.readCaptures
  match s.active.findCapture p h.slot h.round with
  | none => s1
  | some (n, e) => (s1.readActive e.target.ref).captureMatched p h n e

/-! ## Payload complete (6.4) -/

/-- Record the outcome of a context, unless a swap has marked it (R87). -/
def State.contextOutcome (s : State) (c : CaptureContext) (o : CaptureOutcome) : State :=
  match c.mark with
  | .none => s.recordCapture c.entry o c.round
  | .carried => s
  | .cut => s

/-- R98, R108: the open write of `p` on mailbox `n` is closed, with the flip when the payload is valid. Words were
placed in either case (R107). -/
def State.closeCapture (s : State) (p : Port) (c : CaptureContext) (h : Header) (n : Fin 64) (base capacity : Nat)
    (spoiled : List Nat) (payload : List Word) (valid : Bool) : State :=
  let m := s.mailboxes[n]
  if m.openWrite = some p then
    let s1 := s.placeWords m base capacity spoiled payload
    if valid then
      (s1.withMailbox n (m.flip (min h.length capacity) h.source c.round (capacity < h.length))).contextOutcome c
        (if capacity < h.length then .truncated else .received)
    else (s1.withMailbox n m.closeWrite).contextOutcome c .invalid
  else s

/-- The outcome of an append (R99). -/
def Appended.outcome (a : Appended) (truncated : Bool) : CaptureOutcome :=
  match a with
  | .dropped => .dropped
  | .appended => if truncated then .truncated else .received
  | .replaced => if truncated then .truncated else .received

/-- R99: the held cell is appended when its payload is valid. -/
def State.appendCapture (s : State) (c : CaptureContext) (h : Header) (n : Fin 8) (base capacity depth : Nat)
    (policy : FullPolicy) (payload : List Word) (valid : Bool) : State :=
  if valid then
    let x := s.append n base capacity depth policy
      { length := min h.length capacity, source := h.source, round := c.round, truncated := capacity < h.length }
      payload
    x.1.contextOutcome c (x.2.outcome (capacity < h.length))
  else s.contextOutcome c .invalid

/-- R98, R99: the payload-complete event of a reception whose header was `h`. A context marked CUT finishes nothing
(R87); the context becomes none. -/
def State.captureComplete (s : State) (p : Port) (h : Header) (payload : List Word) (valid : Bool) : State :=
  match s.contexts.get p with
  | none => s
  | some c =>
    let s1 := s.withContext p none
    match c.mark, c.target with
    | .cut, _ => s1
    | .none, .mailbox n base capacity spoiled => s1.closeCapture p c h n base capacity spoiled payload valid
    | .carried, .mailbox n base capacity spoiled => s1.closeCapture p c h n base capacity spoiled payload valid
    | .none, .queue n base capacity depth policy => s1.appendCapture c h n base capacity depth policy payload valid
    | .carried, .queue n base capacity depth policy => s1.appendCapture c h n base capacity depth policy payload valid

/-! ## Slot passed empty (6.6) -/

/-- R101: the lookup of an empty slot; the target is not read. -/
def State.captureEmpty (s : State) (p : Port) (slot : Nat) (round : Round) : State :=
  let s1 := s.readCaptures
  match s.active.findCapture p slot round with
  | none => s1
  | some (n, _) => s1.recordCapture n .empty round

end Sys2Proof.Machine
end

