-- ==== Sys2Proof/Machine/Slots.lean ====
section
/-! DEFINITION. Slot starts, slot ends and transmission ends (1.4, 1.5). -/

namespace Sys2Proof.Machine

/-! ## Slot starts (R13) -/

/-- A slot start may be taken now: the port runs a round, no slot is current, and a slot is left (R2). -/
def State.slotMayStart (s : State) (p : Port) : Bool :=
  (match p with
    | .u => s.placementApplies .u
    | .l => s.lTime.running && s.lTime.state ≠ .off) &&
  (s.currentSlot p).isNone && s.lastSlot p < s.slotCount p

/-- The record in which slot `k` of P is current and its marks are clear. -/
def State.enterSlot (s : State) (p : Port) (k : Nat) : State :=
  (match p with
    | .u => s.withUTime { s.uTime with slot := some k, lastSlot := k }
    | .l => s.withLTime { s.lTime with slot := some k, lastSlot := k }).withFlags p .clear

/-- R13: the first line that fits slot `k` of round `round`. -/
def State.serveSlot (s : State) (p : Port) (k : Nat) (round : Round) : State :=
  if p = .l && k = s.lInUse.beaconSlot then s.load .l (s.beaconCell k round)
  else if p = .u && !s.locked then s
  else if k = s.responseSlot p then s.serveResponseSlot p k round
  else if s.forwarding = .forwarding then s.serveDataSlot p k round
  else s

/-- A slot start of P (R2, R13). -/
def State.slotStarts (s : State) (p : Port) : State :=
  let k := s.lastSlot p + 1
  (s.enterSlot p k).serveSlot p k ((s.currentRound p).getD 0)

/-- SLOT_START: a slot start that may not come now changes nothing (log entry 13). -/
def execSlotStart (p : Port) (s : State) : Host.Outcome State Fault Refusal :=
  .next (s.live fun s => if s.slotMayStart p then s.slotStarts p else s)

/-! ## Slot ends (R11) -/

/-- The current slot of P may end now: its transmission has ended, and so has a reception accepted in window in it
(R3). -/
def State.slotMayEnd (s : State) (p : Port) : Bool :=
  (s.currentSlot p).isSome && (s.tx.get p).isNone &&
  (match s.rx.get p with
    | none => true
    | some r => !(r.slotAt.isSome && r.inWindow))

/-- R11, R31: slot passed empty is taken when nothing was accepted or sent, and delivered on U only while LOCKED. -/
def State.slotPassedEmpty (s : State) (p : Port) : State :=
  match s.currentSlot p, s.currentRound p with
  | some slot, some round =>
    if !(s.slotFlags.get p).accepted && !(s.slotFlags.get p).sent && s.delivers p then s.captureEmpty p slot round
    else s
  | some _, none => s
  | none, _ => s

/-- No slot of P is current. -/
def State.leaveSlot (s : State) (p : Port) : State :=
  (match p with
    | .u => s.withUTime { s.uTime with slot := none }
    | .l => s.withLTime { s.lTime with slot := none }).withFlags p .clear

/-- R42, R46, R47: the end of the last slot of an L round. The round is over; a held alignment is taken. -/
def State.lRoundEnds (s : State) : State :=
  let s1 := s.withLTime { s.lTime with running := false }
  match s1.lTime.pending with
  | some a => if a.held && s1.tyingOrTied then s1.takeAlignment a else s1
  | none => s1

/-- A slot end of P. DESIGN CHOICE: PLAN_PARITY of the lookup of an empty slot is raised before what an L round start at
the same slot end raises (log entry 30). -/
def State.slotEnds (s : State) (p : Port) : State :=
  let s1 := (s.slotPassedEmpty p).leaveSlot p
  if p = .l && s.slotCount .l ≤ s.lTime.lastSlot then s1.lRoundEnds else s1

/-- SLOT_END: a slot end that may not come now changes nothing (log entry 13). -/
def execSlotEnd (p : Port) (s : State) : Host.Outcome State Fault Refusal :=
  .next (s.live fun s => if s.slotMayEnd p then s.slotEnds p else s)

/-! ## Transmission ends (R15) -/

/-- TRANSMISSION_END: with nothing in flight there is no such event and nothing changes. -/
def execTransmissionEnd (p : Port) (e : TxEnd) (s : State) : Host.Outcome State Fault Refusal :=
  .next (s.live (·.transmissionEnd p e))

end Sys2Proof.Machine
end

