-- ==== Sys2Proof/Machine/Events.lean ====
section
/-! DEFINITION. The remaining events: rounds of port L, timeouts, the end of a check, starts, disturbances, reset. -/

namespace Sys2Proof.Machine

/-! ## Alignments and L rounds -/

/-- ALIGNMENT_DUE (R46, R47): the pending alignment, not yet held, falls due; without one nothing changes. -/
def execAlignmentDue (s : State) : Host.Outcome State Fault Refusal :=
  .next (s.live fun s =>
    match s.lTime.pending with
    | some a => if s.tyingOrTied && !a.held then s.alignmentFallsDue a else s
    | none => s)

/-- L_ROUND_START (R42, R49). -/
def execLRoundStart (s : State) : Host.Outcome State Fault Refusal := .next (s.live (·.takeLRound true))

/-- The next aging makes mailbox `n` STALE (R110). -/
def State.aboutToGoStale (s : State) (n : Fin 64) : Bool :=
  match s.active.mailboxes[n].seen with
  | some d => s.mailboxes[n].state = .fresh && (s.mailboxes[n].aged d).state = .stale
  | none => false

/-- MAILBOX_BECOMES_STALE (R110): the L round start at which the age reaches the limit (log entry 21). -/
def execMailboxBecomesStale (n : Fin 64) (s : State) : Host.Outcome State Fault Refusal :=
  .next (s.live fun s => s.takeLRound (s.aboutToGoStale n))

/-- The next count of idle rounds ends the claim (R142). -/
def State.claimAboutToExpire (s : State) : Bool :=
  match s.holderIdle with
  | some k => s.settings.claimTimeout ≤ satInc k
  | none => false

/-- CLAIM_TIMEOUT (R142): the L round start at which the claim expires (log entry 21). -/
def execClaimTimeout (s : State) : Host.Outcome State Fault Refusal :=
  .next (s.live fun s => s.takeLRound s.claimAboutToExpire)

/-- The next countdown step makes the entry `id` due (R166). -/
def State.aboutToBeDue (s : State) (id : BitVec 8) : Bool :=
  s.notices.entries.any fun e => e.id = id && e.countdown = 1

/-- NOTICE_DUE (R166): the L round start at which the countdown reaches 0 (log entry 21). -/
def execNoticeDue (id : BitVec 8) (s : State) : Host.Outcome State Fault Refusal :=
  .next (s.live fun s => s.takeLRound (s.aboutToBeDue id))

/-- COMMIT_SWAP (R86): the L round start that performs the pending commit (log entry 21). -/
def execCommitSwap (s : State) : Host.Outcome State Fault Refusal :=
  .next (s.live fun s => s.takeLRound (s.checkState = .commitPending))

/-! ## The end of a check (R74, R75) -/

/-- R75, R70: the notice of a PARITY fault. -/
def parityNotice : PlanFault → List (NoticeKind × Subject)
  | (.parity, ref) => [(.planParity, .record .staged ref)]
  | (_, _) => []

/-- R74, R144: the check ends with this result. -/
def State.checkEnds (s : State) (fault : Option PlanFault) : State :=
  match fault with
  | none => (s.withCheck .passed).giveDeferred .ok [faultWord none]
  | some x =>
    ((s.withCheck (.failed x.1 x.2)).raiseAll (parityNotice x)).giveDeferred .failed [faultWord (some x)]

/-- CHECK_COMPLETE (R74): without a check in progress there is no such event and nothing changes. -/
def execCheckComplete (s : State) : Host.Outcome State Fault Refusal :=
  .next (s.live fun s =>
    match s.checkState with
    | .checking _ figures readBefore => s.checkEnds (s.staged.check figures readBefore)
    | .unchecked => s
    | .passed => s
    | .failed _ _ => s
    | .commitPending => s)

/-! ## Starts and reset -/

/-- POWER_ON (R169): taken in reset as well; it is the release of RESETN. -/
def execPowerOn (strap : BitVec 6) (s : State) : Host.Outcome State Fault Refusal := .next (s.powerOn strap)

/-- R169: RESETN goes low: receptions and transmissions in progress are cut "with no event taken", and no event is
taken until the release (log entry 26). -/
def execResetnLow (s : State) : Host.Outcome State Fault Refusal :=
  .next { s with resetnLow := true, rx := ⟨none, none⟩, tx := ⟨none, none⟩,
                 contexts := ⟨none, none⟩, emitRecords := ⟨none, none⟩ }

/-- LINK_START_U (R22). -/
def execLinkStartU (s : State) : Host.Outcome State Fault Refusal := .next (s.live (·.linkStart .u))

/-- LINK_START_L (R50). -/
def execLinkStartL (s : State) : Host.Outcome State Fault Refusal := .next (s.live (·.linkStart .l))

/-- BRIDGE_RESTART (R148). -/
def execBridgeRestart (s : State) : Host.Outcome State Fault Refusal := .next (s.live (·.bridgeRestart))

/-! ## Disturbances -/

/-- The bank with the parity condition of a record failed; its fields stand (R69). -/
def Bank.disturb (b : Bank) : RecordRef → Bank
  | .mailbox n => { b with mailboxes := b.mailboxes.set n.val { b.mailboxes[n] with parityGood := false } }
  | .queue n => { b with queues := b.queues.set n.val { b.queues[n] with parityGood := false } }
  | .capture n => { b with captures := b.captures.set n.val { b.captures[n] with parityGood := false } }
  | .emit n => { b with emits := b.emits.set n.val { b.emits[n] with parityGood := false } }

/-- A check in progress that has read the record already, while its parity was good, keeps what it read (R75). -/
def CheckState.noteRead (c : CheckState) (ref : RecordRef) (note : Bool) : CheckState :=
  match c with
  | .checking p f rb => if note then .checking p f (ref :: rb) else c
  | .unchecked => c
  | .passed => c
  | .failed _ _ => c
  | .commitPending => c

/-- R69: a record of a bank is disturbed. -/
def State.disturbRecord (s : State) (role : BankRole) (ref : RecordRef) (alreadyRead : Bool) : State :=
  match role with
  | .active => { s with active := s.active.disturb ref }
  | .staged =>
    { s with staged := s.staged.disturb ref,
             checkState := s.checkState.noteRead ref (alreadyRead && s.staged.parityGood ref) }

/-- PLAN_RECORD_DISTURBED (R69). -/
def execPlanRecordDisturbed (role : BankRole) (ref : RecordRef) (alreadyRead : Bool) (s : State) :
    Host.Outcome State Fault Refusal :=
  .next (s.live (·.disturbRecord role ref alreadyRead))

/-- A context whose open write has placed word `a` already keeps it as spoiled (R107; log entry 5). -/
def CaptureContext.spoil (c : CaptureContext) (mailboxes : Vector MailboxRt 64) (a : Nat) : CaptureContext :=
  match c.target with
  | .mailbox n base capacity spoiled =>
    let start := halfBase base capacity mailboxes[n].half.other
    if start ≤ a && a < start + capacity then { c with target := .mailbox n base capacity (a :: spoiled) } else c
  | .queue _ _ _ _ _ => c

/-- R105: a word of the store is disturbed; its parity condition is failed. -/
def State.disturbWord (s : State) (word : BitVec 12) (placed : Bool) : State :=
  let s1 := s.withStore (storeWrite word.toNat .failed s.store)
  if placed then
    { s1 with contexts := ⟨s.contexts.u.map (·.spoil s.mailboxes word.toNat),
                           s.contexts.l.map (·.spoil s.mailboxes word.toNat)⟩ }
  else s1

/-- STORE_WORD_DISTURBED (R105). -/
def execStoreWordDisturbed (word : BitVec 12) (placed : Bool) (s : State) : Host.Outcome State Fault Refusal :=
  .next (s.live (·.disturbWord word placed))

end Sys2Proof.Machine
end

