-- ==== Sys2Proof/Machine/Requests.lean ====
section
/-! DEFINITION. The request catalogue (Chapter 10): what each request does by its own rule, after the request code, the
operand count and the claim have been judged. -/

namespace Sys2Proof.Machine

/-- What the execution of a request answers. -/
inductive Answer where
  /-- A response at once; `endsClaim` says that a check in progress is abandoned after it is queued (R144). -/
  | now (status : Status) (results : List Word) (mark : Option RestartMark) (endsClaim : Bool)
  /-- A CHECK was taken: the response is deferred (R143). -/
  | deferred
  /-- The execution brought on a bridge restart, which emptied party table and queues (R148, R149; log entry 20). -/
  | gone
  deriving DecidableEq, Repr

/-- A refusal or another answer without results (R151). -/
def answer (s : State) (status : Status) : State × Answer := (s, .now status [] none false)

/-- OK with these results. -/
def answerOk (s : State) (results : List Word) : State × Answer := (s, .now .ok results none false)

/-! ## Session (10.2) -/

/-- R152. -/
def ownPing (operands : List Word) (s : State) : State × Answer := answerOk s operands

/-- R140. -/
def ownClaim (id : PartyId) (s : State) : State × Answer :=
  match s.claim with
  | none => answerOk (s.withClaim (some id)) []
  | some h => if h = id then answerOk s [] else (s, .now .held [toWord (holderBits (some h))] none false)

/-- R140, R81. -/
def ownRelease (id : PartyId) (s : State) : State × Answer :=
  if s.claim = some id then (s.withClaim none, .now .ok [] none true) else answer s .unclaimed

/-! ## Reading (10.3) -/

/-- R153. -/
def ownReadStatus (s : State) : State × Answer := answerOk s s.statusWords

/-- R154. -/
def ownReadProfile (sel : BitVec 16) (s : State) : State × Answer :=
  match selPort sel with
  | some p => answerOk s (s.profileWords p)
  | none => answer s .range

/-- R154. -/
def ownReadSettings (s : State) : State × Answer := answerOk s [s.settings.settingsWord]

/-- R154, R17. -/
def ownReadCounters (sel : BitVec 16) (s : State) : State × Answer :=
  match selPort sel with
  | some p => answerOk s (s.counters.get p).words
  | none => answer s .range

/-- Outcome code and round of an ACTIVE entry; both 0 for a record that has no outcome record (12.3, R63). -/
def outcomeFields {α : Type} (code : α → Nat) (role : BankRole) (o : Option (α × Round)) : Nat × Nat :=
  match role, o with
  | .staged, _ => (0, 0)
  | .active, none => (0, 255)
  | .active, some (x, r) => (code x, r.toNat)

/-- The result words of READ_RECORD, none when the record is undefined (R155). -/
def State.recordWords (s : State) (role : BankRole) (ref : RecordRef) : Option (List Word) :=
  let b := s.bank role
  match ref with
  | .mailbox n => b.mailboxes[n].fields.map fun d => recordHead s.generation 0 0 :: d.words
  | .queue n => b.queues[n].fields.map fun d => recordHead s.generation 0 0 :: d.words
  | .capture n =>
    let o := outcomeFields CaptureOutcome.code role s.captureOutcomes[n]
    b.captures[n].fields.map fun e => recordHead s.generation o.1 o.2 :: e.words
  | .emit n =>
    let o := outcomeFields EmitOutcome.code role s.emitOutcomes[n]
    b.emits[n].fields.map fun e => recordHead s.generation o.1 o.2 :: e.words

/-- R155: parity is judged before the defined flag. -/
def ownReadRecord (sel : BitVec 16) (s : State) : State × Answer :=
  match selBank sel, selRecord sel with
  | some role, some ref =>
    if (s.bank role).parityGood ref then
      match s.recordWords role ref with
      | some ws => answerOk s ws
      | none => answer s .undefined
    else answer (s.raise .planParity (.record role ref)) .failed
  | _, _ => answer s .range

/-- R156, R114. -/
def ownReadMailbox (sel : BitVec 16) (operands : List Word) (s : State) : State × Answer :=
  match selMailbox sel with
  | none => answer s .range
  | some n =>
    let offset := (operands.headD 0).toNat
    if 11 < offset then answer s .range
    else
      match s.active.mailboxes[n].seen with
      | none => answer (s.readActive (.mailbox n)) .undefined
      | some d =>
        if s.mailboxes[n].state = .faulted then answer s .failed
        else
          match s.mailboxPayload n d with
          | none => answer (s.faultMailbox n) .failed
          | some ws => answerOk s (s.mailboxes[n].words ++ (ws.drop offset).take 9)

/-- R120, R162. -/
def ownReadQueue (sel : BitVec 16) (s : State) : State × Answer :=
  match selQueue sel with
  | none => answer s .range
  | some n =>
    match s.active.queues[n].seen with
    | none => answer (s.readActive (.queue n)) .undefined
    | some _ => answerOk s s.queues[n].words

/-- R157. -/
def ownReadNotices (s : State) : State × Answer := answerOk s s.notices.words

/-! ## Profiles, settings and restarts (10.4) -/

/-- R159 for port U: RANGE (R20, R39), then STATE, then the stored profile is replaced; the notice target also in the
in-use profile (R19). -/
def writeUProfile (p : UProfile) (id : PartyId) (s : State) : State × Answer :=
  if !(p.ok && profilesAgree p s.lStored) then answer s .range
  else if !p.enabled && id.port = .u then answer s .state
  else answerOk { s with uStored := p, uInUse := { s.uInUse with noticeTarget := p.noticeTarget } } []

/-- R159 for port L: RANGE (R39), then STATE (R40), then the stored profile is replaced (R38). -/
def writeLProfile (p : LProfile) (id : PartyId) (s : State) : State × Answer :=
  if !(p.ok && profilesAgree s.uStored p) then answer s .range
  else if !p.enabled && (id.port = .l || s.checkState = .commitPending) then answer s .state
  else answerOk { s with lStored := p, lInUse := { s.lInUse with noticeTarget := p.noticeTarget } } []

/-- R159. The operand count has been judged (R171): 4 words for U, 3 for L. -/
def ownWriteProfile (id : PartyId) (sel : BitVec 16) (operands : List Word) (s : State) : State × Answer :=
  let w (i : Nat) : Word := operands.getD i 0
  match selPort sel with
  | none => answer s .range
  | some .u => writeUProfile (parseUProfile (w 0) (w 1) (w 2) (w 3)) id s
  | some .l => writeLProfile (parseLProfile (w 0) (w 1) (w 2)) id s

/-- R158. -/
def ownWriteSettings (operands : List Word) (s : State) : State × Answer :=
  let t := parseSettings (operands.headD 0)
  if t.ok then answerOk { s with settings := t } [] else answer s .range

/-- R160, R35, R51: the other port's link start at once; the port of arrival's when the marked response leaves. -/
def ownRestartLink (id : PartyId) (sel : BitVec 16) (s : State) : State × Answer :=
  match selPort sel with
  | none => answer s .range
  | some p =>
    if p = id.port then (s, .now .ok [] (some (.link p)) false)
    else if .bridge ∈ s.marks p then (s.linkStart p, .gone)
    else answerOk (s.linkStart p) []

/-- R160, R17. -/
def ownClearCounters (sel : BitVec 16) (s : State) : State × Answer :=
  match selPort sel with
  | none => answer s .range
  | some p => answerOk (s.withCounters p .zero) []

/-- R148, R160. -/
def ownRestart (s : State) : State × Answer := (s, .now .ok [] (some .bridge) false)

/-! ## The plan (10.5) -/

/-- The STAGED bank is frozen: CHECKING or COMMIT_PENDING (R73, R85). -/
def State.frozen (s : State) : Bool :=
  match s.checkState with
  | .checking _ _ _ => true
  | .commitPending => true
  | .unchecked => false
  | .passed => false
  | .failed _ _ => false

/-- An edit carried out: the STAGED bank is replaced and the check state becomes UNCHECKED (R64). -/
def State.edited (s : State) (b : Bank) : State := { s with staged := b, checkState := .unchecked }

/-- R67. -/
def ownStageClear (s : State) : State × Answer :=
  if s.frozen then answer s .busy else answerOk (s.edited .empty) []

/-- R68: records are copied as they are stored, parity condition included. -/
def ownStageCopy (s : State) : State × Answer :=
  if s.frozen then answer s .busy else answerOk (s.edited s.active) []

/-- A record with these fields and good parity (R65). -/
def Stored.written {α : Type} (x : α) : Stored α := { fields := some x, parityGood := true }

/-- The bank with a record replaced by the written fields, none when a field is out of range (R65, R172). -/
def Bank.writeRecord (b : Bank) (ref : RecordRef) (w0 w1 : Word) : Option Bank :=
  match ref with
  | .mailbox n => (parseMailboxDef w0).map fun d => { b with mailboxes := b.mailboxes.set n.val (.written d) }
  | .queue n => (parseQueueDef w0).map fun d => { b with queues := b.queues.set n.val (.written d) }
  | .capture n => (parseCaptureEntry w0 w1).map fun e => { b with captures := b.captures.set n.val (.written e) }
  | .emit n => (parseEmitEntry w0 w1).map fun e => { b with emits := b.emits.set n.val (.written e) }

/-- The bank with a record undefined, with good parity (R66). -/
def Bank.eraseRecord (b : Bank) : RecordRef → Bank
  | .mailbox n => { b with mailboxes := b.mailboxes.set n.val .undefined }
  | .queue n => { b with queues := b.queues.set n.val .undefined }
  | .capture n => { b with captures := b.captures.set n.val .undefined }
  | .emit n => { b with emits := b.emits.set n.val .undefined }

/-- R64, R65, R161: BUSY comes before the selector range. -/
def ownWriteRecord (sel : BitVec 16) (operands : List Word) (s : State) : State × Answer :=
  if s.frozen then answer s .busy
  else
    match selRecord sel with
    | none => answer s .range
    | some ref =>
      match s.staged.writeRecord ref (operands.getD 0 0) (operands.getD 1 0) with
      | none => answer s .range
      | some b => answerOk (s.edited b) []

/-- R64, R66, R161. -/
def ownEraseRecord (sel : BitVec 16) (s : State) : State × Answer :=
  if s.frozen then answer s .busy
  else
    match selRecord sel with
    | none => answer s .range
    | some ref => answerOk (s.edited (s.staged.eraseRecord ref)) []

/-- R72: the check is taken, or BUSY. -/
def ownCheck (id : PartyId) (s : State) : State × Answer :=
  if s.frozen then answer s .busy else (s.withCheck (.checking id s.figures []), .deferred)

/-- R83. -/
def ownCommit (s : State) : State × Answer :=
  match s.checkState with
  | .passed => answer (s.withCheck .commitPending) .pending
  | .unchecked => answer s .notChecked
  | .failed _ _ => answer s .notChecked
  | .checking _ _ _ => answer s .busy
  | .commitPending => answer s .state

/-- R84. -/
def ownCancelCommit (s : State) : State × Answer :=
  if s.checkState = .commitPending then answerOk (s.withCheck .passed) [] else answer s .state

/-! ## Forwarding and data (10.6) -/

/-- R122. -/
def ownStart (s : State) : State × Answer := answerOk { s with forwarding := .forwarding } []

/-- R122. -/
def ownHalt (s : State) : State × Answer := answerOk { s with forwarding := .halted } []

/-- R109: the payload is written into the half that is not current and the mailbox flips, in one event. -/
def State.injectInto (s : State) (n : Fin 64) (d : MailboxDef) (station : Station) (ws : List Word) : State :=
  let m := s.mailboxes[n]
  (s.withStore (storeWriteAll (halfBase d.base d.capacity m.half.other) ws s.store)).withMailbox n
    (m.flip ws.length station s.raiseRound false)

/-- R162, R109. -/
def ownInject (id : PartyId) (sel : BitVec 16) (operands : List Word) (s : State) : State × Answer :=
  match selMailbox sel with
  | none => answer s .range
  | some n =>
    match s.active.mailboxes[n].seen with
    | none => answer (s.readActive (.mailbox n)) .undefined
    | some d =>
      if d.capacity < operands.length then answer s .range
      else if s.mailboxes[n].openWrite.isSome then answer s .busy
      else answerOk (s.injectInto n d id.station operands) []

/-- R162, R119. -/
def ownDrainQueue (sel : BitVec 16) (s : State) : State × Answer :=
  match selQueue sel with
  | none => answer s .range
  | some n =>
    match s.active.queues[n].seen with
    | none => answer (s.readActive (.queue n)) .undefined
    | some d =>
      let r := s.drain n d.depth
      answerOk r.1 [toWord (put r.2 7 0)]

/-! ## Notices (10.7) -/

/-- R163, R168: the id is bits 7 to 0 of the selector (12.2). -/
def ownAckNotice (sel : BitVec 16) (s : State) : State × Answer :=
  let id : BitVec 8 := BitVec.ofNat 8 (field sel.toNat 7 0)
  if s.noticeStands id then answerOk (s.acknowledge id) [] else answer s .undefined

/-! ## Every request -/

/-- The request's own rule (R139, step 3). -/
def ownRule (q : Req) (id : PartyId) (sel : BitVec 16) (operands : List Word) (s : State) : State × Answer :=
  match q with
  | .ping => ownPing operands s
  | .claim => ownClaim id s
  | .release => ownRelease id s
  | .readStatus => ownReadStatus s
  | .readProfile => ownReadProfile sel s
  | .readSettings => ownReadSettings s
  | .readCounters => ownReadCounters sel s
  | .readRecord => ownReadRecord sel s
  | .readMailbox => ownReadMailbox sel operands s
  | .readQueue => ownReadQueue sel s
  | .readNotices => ownReadNotices s
  | .writeProfile => ownWriteProfile id sel operands s
  | .writeSettings => ownWriteSettings operands s
  | .restartLink => ownRestartLink id sel s
  | .clearCounters => ownClearCounters sel s
  | .stageClear => ownStageClear s
  | .stageCopy => ownStageCopy s
  | .writeRecord => ownWriteRecord sel operands s
  | .eraseRecord => ownEraseRecord sel s
  | .check => ownCheck id s
  | .commit => ownCommit s
  | .cancelCommit => ownCancelCommit s
  | .start => ownStart s
  | .halt => ownHalt s
  | .inject => ownInject id sel operands s
  | .drainQueue => ownDrainQueue sel s
  | .ackNotice => ownAckNotice sel s
  | .restart => ownRestart s

end Sys2Proof.Machine
end

