-- ==== Sys2Proof/Machine/Management.lean ====
section
/-! DEFINITION. Taking a request (9.3): the steps of R138, the judgement of R139, and the commands of the request rows. -/

namespace Sys2Proof.Machine

/-- The party of a request: the port it arrived on and its source station (R134). -/
def requestParty (r : Request) : PartyId := { port := r.port, station := r.station }

/-- R139: the first refusal that applies, otherwise the request's own rule. `q` is none for an unknown code. -/
def judge (q : Option Req) (r : Request) (s : State) : State × Answer :=
  match q with
  | none => answer s .unknown
  | some q =>
    if !q.countOk r.selector r.operands.length then answer s .unknown
    else if q.needsClaim && s.claim ≠ some (requestParty r) then answer s .unclaimed
    else ownRule q (requestParty r) r.selector r.operands s

/-- The response of an executed request becomes the cached response of the party at position `i` and is queued (R138
step 5); a check that the claim's end abandons is answered after it (R144). -/
def State.respond (s : State) (i : Fin 8) (r : Request) (reply : Reply) (mark : Option RestartMark)
    (endsClaim : Bool) : State :=
  let s1 := (s.updateParty i fun q => { q with cached := some reply }).enqueue r.port
    { station := r.station, reply, mark }
  if endsClaim then s1.abandonCheck else s1

/-- Step 5 of R138: the party at position `i` has its request executed. A CHECK taken becomes outstanding (R143). -/
def State.execute (s : State) (i : Fin 8) (q : Option Req) (code : BitVec 8) (r : Request) : State :=
  let x := judge q r (s.updateParty i fun y => { y with lastSeq := some r.seq })
  match x.2 with
  | .now status results mark endsClaim =>
    x.1.respond i r { status, seq := r.seq, code, results } mark endsClaim
  | .deferred => x.1.updateParty i fun y => { y with outstanding := some r.seq, cached := none }
  | .gone => x.1

/-- The cached response that answers a retry (R138 step 3). -/
def Party.retryReply (q : Party) (seq : Seq) : Option Reply := if q.lastSeq = some seq then q.cached else none

/-- Steps 2 to 5 of R138 for the party at position `i`. A copy queued again carries no mark (R148). -/
def State.handle (s : State) (i : Fin 8) (party : Party) (q : Option Req) (code : BitVec 8) (r : Request) : State :=
  if party.outstanding = some r.seq then s
  else
    match party.retryReply r.seq with
    | some reply =>
      if s.hasRoom r.port then s.enqueue r.port { station := r.station, reply, mark := none }
      else s.count r.port Counters.countDropped
    | none =>
      if s.hasRoom r.port then s.execute i q code r
      else s.count r.port Counters.countDropped

/-- R138: a request taken by the agent. -/
def State.serve (s : State) (q : Option Req) (code : BitVec 8) (r : Request) : State :=
  match s.admitParty (requestParty r) with
  | (s1, none) => s1
  | (s1, some i) =>
    match s1.parties[i] with
    | some party => s1.handle i party q code r
    | none => s1

/-- R134: a request is taken when its port is L, or U and LOCKED; a port that is OFF receives nothing (R4). The
request has passed its port by its GOOD count (log entry 9). -/
def State.take (s : State) (q : Req) (r : Request) : State :=
  if s.portRunning r.port then s.serve (some q) q.code r else s

/-! ## The request rows -/

/-- PING (R152). -/
def execPing (r : Request) (s : State) : Host.Outcome State Fault Refusal := .next (s.live (·.take .ping r))

/-- CLAIM (R140). -/
def execClaim (r : Request) (s : State) : Host.Outcome State Fault Refusal := .next (s.live (·.take .claim r))

/-- RELEASE (R140). -/
def execRelease (r : Request) (s : State) : Host.Outcome State Fault Refusal := .next (s.live (·.take .release r))

/-- READ_STATUS (R153). -/
def execReadStatus (r : Request) (s : State) : Host.Outcome State Fault Refusal :=
  .next (s.live (·.take .readStatus r))

/-- READ_PROFILE (R154). -/
def execReadProfile (r : Request) (s : State) : Host.Outcome State Fault Refusal :=
  .next (s.live (·.take .readProfile r))

/-- READ_SETTINGS (R154). -/
def execReadSettings (r : Request) (s : State) : Host.Outcome State Fault Refusal :=
  .next (s.live (·.take .readSettings r))

/-- READ_COUNTERS (R154). -/
def execReadCounters (r : Request) (s : State) : Host.Outcome State Fault Refusal :=
  .next (s.live (·.take .readCounters r))

/-- READ_RECORD (R155). -/
def execReadRecord (r : Request) (s : State) : Host.Outcome State Fault Refusal :=
  .next (s.live (·.take .readRecord r))

/-- READ_MAILBOX (R156). -/
def execReadMailbox (r : Request) (s : State) : Host.Outcome State Fault Refusal :=
  .next (s.live (·.take .readMailbox r))

/-- READ_QUEUE (R162). -/
def execReadQueue (r : Request) (s : State) : Host.Outcome State Fault Refusal :=
  .next (s.live (·.take .readQueue r))

/-- READ_NOTICES (R157). -/
def execReadNotices (r : Request) (s : State) : Host.Outcome State Fault Refusal :=
  .next (s.live (·.take .readNotices r))

/-- WRITE_PROFILE (R159). -/
def execWriteProfile (r : Request) (s : State) : Host.Outcome State Fault Refusal :=
  .next (s.live (·.take .writeProfile r))

/-- WRITE_SETTINGS (R158). -/
def execWriteSettings (r : Request) (s : State) : Host.Outcome State Fault Refusal :=
  .next (s.live (·.take .writeSettings r))

/-- RESTART_LINK (R160). -/
def execRestartLink (r : Request) (s : State) : Host.Outcome State Fault Refusal :=
  .next (s.live (·.take .restartLink r))

/-- CLEAR_COUNTERS (R160). -/
def execClearCounters (r : Request) (s : State) : Host.Outcome State Fault Refusal :=
  .next (s.live (·.take .clearCounters r))

/-- STAGE_CLEAR (R161). -/
def execStageClear (r : Request) (s : State) : Host.Outcome State Fault Refusal :=
  .next (s.live (·.take .stageClear r))

/-- STAGE_COPY (R161). -/
def execStageCopy (r : Request) (s : State) : Host.Outcome State Fault Refusal :=
  .next (s.live (·.take .stageCopy r))

/-- WRITE_RECORD (R161). -/
def execWriteRecord (r : Request) (s : State) : Host.Outcome State Fault Refusal :=
  .next (s.live (·.take .writeRecord r))

/-- ERASE_RECORD (R161). -/
def execEraseRecord (r : Request) (s : State) : Host.Outcome State Fault Refusal :=
  .next (s.live (·.take .eraseRecord r))

/-- CHECK (R72, R161). -/
def execCheck (r : Request) (s : State) : Host.Outcome State Fault Refusal := .next (s.live (·.take .check r))

/-- COMMIT (R83, R161). -/
def execCommit (r : Request) (s : State) : Host.Outcome State Fault Refusal := .next (s.live (·.take .commit r))

/-- CANCEL_COMMIT (R84, R161). -/
def execCancelCommit (r : Request) (s : State) : Host.Outcome State Fault Refusal :=
  .next (s.live (·.take .cancelCommit r))

/-- START (R122). -/
def execStart (r : Request) (s : State) : Host.Outcome State Fault Refusal := .next (s.live (·.take .start r))

/-- HALT (R122). -/
def execHalt (r : Request) (s : State) : Host.Outcome State Fault Refusal := .next (s.live (·.take .halt r))

/-- INJECT (R162, R109). -/
def execInject (r : Request) (s : State) : Host.Outcome State Fault Refusal := .next (s.live (·.take .inject r))

/-- DRAIN_QUEUE (R162, R119). -/
def execDrainQueue (r : Request) (s : State) : Host.Outcome State Fault Refusal :=
  .next (s.live (·.take .drainQueue r))

/-- ACK_NOTICE (R163). -/
def execAckNotice (r : Request) (s : State) : Host.Outcome State Fault Refusal :=
  .next (s.live (·.take .ackNotice r))

/-- RESTART (R148, R160). -/
def execRestart (r : Request) (s : State) : Host.Outcome State Fault Refusal := .next (s.live (·.take .restart r))

end Sys2Proof.Machine
end

