-- ==== Sys2Proof/Machine/Uplink.lean ====
section
/-! DEFINITION. The uplink timing (Chapter 2): beacons and U round starts. -/

namespace Sys2Proof.Machine

/-! ## Beacons (2.3, 2.4) -/

/-- The beacon's source qualifies: the list is empty, or names it (R23). -/
def State.beaconCounts (s : State) (source : Station) : Bool :=
  s.uInUse.timingStations.isEmpty || s.uInUse.timingStations.contains source

/-- R24: the beacon is consistent. -/
def State.beaconConsistent (s : State) (r : Reception) (payload : List Word) : Bool :=
  r.slotAt = some r.header.slot && r.roundAt = some r.header.round && r.inWindow &&
    announcedCount payload = s.uInUse.slotCount

/-- R25: the two conditions of adoption. -/
def State.beaconAdoptable (s : State) (r : Reception) (payload : List Word) : Bool :=
  announcedCount payload = s.uInUse.slotCount && r.header.slot ≤ s.uInUse.slotCount

/-- R25: adoption. The beacon's header is the header accepted in the adopted slot (log entry 23). -/
def State.adopt (s : State) (r : Reception) : State :=
  (s.withUTime { s.uTime with
      state := .align, round := some r.header.round, slot := some r.header.slot, lastSlot := r.header.slot,
      adoptionRound := true, consistentSeen := false }).withFlags .u { accepted := true, sent := false }

/-- R27, R28: ALIGN or CONFIRM returns to SEEK: the round and slot become unknown (R26), flags and set are
cleared. -/
def State.seekAgain (s : State) : State :=
  (s.withUTime { s.uTime with
      state := .seek, round := none, slot := none, lastSlot := 0,
      adoptionRound := false, consistentSeen := false, confirmSet := [] }).withFlags .u .clear

/-- R21: a station joins the confirm set only when it is no member and the set has fewer than 4. -/
def joinConfirmSet (set : List Station) (a : Station) : List Station :=
  if set.contains a || 4 ≤ set.length then set else set ++ [a]

/-- R24, R27, R28, R29: a counting beacon is classified and acts in ALIGN, CONFIRM or LOCKED. -/
def State.classified (s : State) (consistent : Bool) (source : Station) : State :=
  match s.uTime.state with
  | .align => if consistent then s.withUTime { s.uTime with consistentSeen := true } else s.seekAgain
  | .confirm =>
    if consistent then s.withUTime { s.uTime with confirmSet := joinConfirmSet s.uTime.confirmSet source }
    else s.seekAgain
  | .locked =>
    if consistent then s.withUTime { s.uTime with consistentTally := satInc s.uTime.consistentTally }
    else s.withUTime { s.uTime with discordantTally := satInc s.uTime.discordantTally }
  | .off => s
  | .seek => s

/-- R23 to R25, R27 to R29: a valid beacon is delivered to the uplink timing. -/
def State.uplinkBeacon (s : State) (r : Reception) (payload : List Word) : State :=
  if s.beaconCounts r.header.source then
    if s.uTime.state = .seek then (if s.beaconAdoptable r payload then s.adopt r else s)
    else s.classified (s.beaconConsistent r payload) r.header.source
  else s

/-! ## U round starts (2.4, 2.5) -/

/-- R29: the closing round is a miss. -/
def UplinkRecord.missed (t : UplinkRecord) : Bool :=
  t.consistentTally = 0 || t.consistentTally < t.discordantTally

/-- R29: the miss count after the judgement. -/
def UplinkRecord.judgedMisses (t : UplinkRecord) : Nat := if t.missed then t.missCount + 1 else 0

/-- The number of the U round that a round start begins (R26). -/
def State.nextURound (s : State) : Round := s.uTime.round.getD 0 + 1

/-- A U round start may be taken now: the timer runs rounds and the last slot of the round has ended (R2, R26). -/
def State.uRoundMayStart (s : State) : Bool :=
  s.placementApplies .u && s.uTime.slot = none && s.slotCount .u ≤ s.uTime.lastSlot

/-- The record as the next round begins in `state` (R26). -/
def State.beginURound (s : State) (state : UState) : State :=
  s.withUTime { s.uTime with state, round := some s.nextURound, slot := none, lastSlot := 0 }

/-- R27: a U round start in ALIGN. -/
def State.alignRound (s : State) : State :=
  if s.uTime.consistentSeen then
    (s.withUTime { s.uTime with confirmSet := [], adoptionRound := false, consistentSeen := false }).beginURound .confirm
  else if s.uTime.adoptionRound then
    (s.withUTime { s.uTime with adoptionRound := false }).beginURound .align
  else s.seekAgain

/-- R28: the U round start that closes CONFIRM. LOCK_GAINED is raised, and the round start is delivered to the local
timing (R30), which raises nothing at it. -/
def State.confirmRound (s : State) : State :=
  if s.uInUse.confirmQuorum ≤ s.uTime.confirmSet.length then
    (((s.withUTime { s.uTime with
          missCount := 0, consistentTally := 0, discordantTally := 0, confirmSet := [] }).beginURound .locked).raise
        .lockGained .none).deliverURound s.nextURound
  else s.seekAgain

/-- R29: the closing round has been judged and the record holds the new miss count and empty tallies. -/
def State.judged (s : State) : State :=
  s.withUTime { s.uTime with missCount := s.uTime.judgedMisses, consistentTally := 0, discordantTally := 0 }

/-- R29: this U round start ends lock. -/
def State.wouldLapse (s : State) : Bool := s.locked && s.uInUse.lapseLimit ≤ s.uTime.judgedMisses

/-- R29: a U round start in LOCKED: a lapse (R32), or the next round, delivered to the local timing (R30). -/
def State.lockedRound (s : State) : State :=
  if s.wouldLapse then s.judged.lapse
  else (s.judged.beginURound .locked).deliverURound s.nextURound

/-- A U round start by the state of the uplink timing (R27 to R29). -/
def State.uRound (s : State) : State :=
  match s.uTime.state with
  | .align => s.alignRound
  | .confirm => s.confirmRound
  | .locked => s.lockedRound
  | .off => s
  | .seek => s

/-- U_ROUND_START: a round start that may not come now changes nothing (log entry 13). -/
def execURoundStart (s : State) : Host.Outcome State Fault Refusal :=
  .next (s.live fun s => if s.uRoundMayStart then s.uRound else s)

/-- LOCK_LAPSE (R29): the U round start at which the miss count reaches the lapse limit (log entry 21). -/
def execLockLapse (s : State) : Host.Outcome State Fault Refusal :=
  .next (s.live fun s => if s.uRoundMayStart && s.wouldLapse then s.lockedRound else s)

end Sys2Proof.Machine
end

