-- ==== Sys2Proof/Machine/Receive.lean ====
section
/-! DEFINITION. Receiving (1.4): arrivals, payload completion, and where a cell goes. -/

namespace Sys2Proof.Machine

/-! ## Payload complete (R9, R10) -/

/-- The request in a payload (12.2, R171): code, sequence number and selector in the first word, operands after it.
A payload of no words carries none (R134). -/
def requestIn (p : Port) (station : Station) : List Word → Option (BitVec 8 × Request)
  | [] => none
  | w :: operands =>
    some (BitVec.ofNat 8 (field w.toNat 31 24),
      { port := p, station, seq := BitVec.ofNat 8 (field w.toNat 23 16),
        selector := BitVec.ofNat 16 (field w.toNat 15 0), operands })

/-- R134, R10: a valid REQUEST cell is taken when it was deliverable at its header, the port delivers now, and it is
addressed to the bridge. -/
def State.takeRequestCell (s : State) (p : Port) (r : Reception) (payload : List Word) : State :=
  if r.deliverable && s.delivers p && r.header.dest = s.address p then
    match requestIn p r.header.source payload with
    | some (code, q) => s.serve (reqOfCode code) code q
    | none => s
  else s

/-- R10: where a completed cell goes. A bad payload goes to the capture unit alone (R9). -/
def State.deliverCell (s : State) (p : Port) (r : Reception) (payload : List Word) (valid : Bool) : State :=
  match r.header.kind with
  | .data => s.captureComplete p r.header payload valid
  | .void => s.captureComplete p r.header payload valid
  | .beacon => if valid && p = .u then s.uplinkBeacon r payload else s
  | .request => if valid then s.takeRequestCell p r payload else s
  | .response => s
  | .notice => s

/-- R9: the payload-complete event of the reception `r`: the buffer is free, the cell is counted and delivered. DESIGN
CHOICE: a REQUEST cell is counted GOOD before its request is executed at the same event, so READ_COUNTERS counts its own
cell and CLEAR_COUNTERS erases it; R17 leaves the order open (log entry 28). -/
def State.completeReception (s : State) (p : Port) (r : Reception) (payload : List Word) (valid : Bool) : State :=
  ((s.withRx p none).count p (if valid then Counters.countGood else Counters.countMalformed)).deliverCell p r payload
    valid

/-- The reception in progress that a payload of these words completes: the port is not OFF, and the words are as many
as the header says, at least one (R6). -/
def State.completing (s : State) (p : Port) (payload : List Word) : Option Reception :=
  if s.portOff p then none
  else (s.rx.get p).filter fun r => r.header.length ≠ 0 && payload.length = r.header.length

/-- PAYLOAD_COMPLETE: without such a reception there is no such event and nothing changes (log entry 13). -/
def State.payloadArrives (s : State) (p : Port) (payload : List Word) (check : BitVec 16) : State :=
  match s.completing p payload with
  | some r => s.completeReception p r payload (payloadValid r.header payload check)
  | none => s

/-! ## Arrivals (R8) -/

/-- The decision of R8 on a legal header. -/
inductive HeaderTest where
  | accepted
  | misplaced
  | late
  deriving DecidableEq, Repr

/-- R8, tests 2 and 3: not applied to a BEACON on U, nor where the port gives no slots (R4). Between slots, and while
port L is idle, no slot is current and a header is misplaced. -/
def State.testHeader (s : State) (p : Port) (h : Header) (inWindow : Bool) : HeaderTest :=
  if (p = .u && h.kind = .beacon) || !s.placementApplies p then .accepted
  else if s.currentSlot p ≠ some h.slot || s.currentRound p ≠ some h.round then .misplaced
  else if !inWindow || (s.slotFlags.get p).accepted then .late
  else .accepted

/-- The reception record of a header accepted now. -/
def State.receptionOf (s : State) (p : Port) (h : Header) (inWindow : Bool) : Reception :=
  { header := h, slotAt := s.currentSlot p, roundAt := s.currentRound p, inWindow, deliverable := s.delivers p }

/-- The header-accepted event (R8, R10): the port keeps the reception, a DATA or VOID cell is delivered to the capture
unit, and a cell of length 0 completes at once (R6). A reception still in progress gives way, its capture discarded
without an outcome (R93; log entry 22). -/
def State.acceptHeader (s : State) (p : Port) (h : Header) (inWindow : Bool) : State :=
  let r := s.receptionOf p h inWindow
  let s1 := (s.dropContext p).withRx p (some r)
  let s2 := if (s.currentSlot p).isSome then s1.withFlags p { s1.slotFlags.get p with accepted := true } else s1
  let s3 := if r.deliverable && (h.kind = .data || h.kind = .void) then s2.captureAtHeader p h else s2
  if h.length = 0 then s3.completeReception p r [] true else s3

/-- R8: the tests in their order on an arrival at a port that is not OFF and receives (R7). -/
def State.arrive (s : State) (p : Port) (header : BitVec 64) (inWindow : Bool) : State :=
  match parseHeader header with
  | none => s.count p Counters.countMalformed
  | some h =>
    match s.testHeader p h inWindow with
    | .misplaced => s.count p Counters.countMisplaced
    | .late => s.count p Counters.countLate
    | .accepted => s.acceptHeader p h inWindow

/-- The port receives: it is not OFF (R4), and the start of the current slot loaded nothing (R7). -/
def State.receives (s : State) (p : Port) : Bool := !s.portOff p && !(s.slotFlags.get p).sent

/-- CELL_ARRIVAL (R8). -/
def execCellArrival (p : Port) (header : BitVec 64) (inWindow : Bool) (s : State) :
    Host.Outcome State Fault Refusal :=
  .next (s.live fun s => if s.receives p then s.arrive p header inWindow else s)

/-- PAYLOAD_COMPLETE (R9). -/
def execPayloadComplete (p : Port) (payload : List Word) (check : BitVec 16) (s : State) :
    Host.Outcome State Fault Refusal :=
  .next (s.live (·.payloadArrives p payload check))

end Sys2Proof.Machine
end

