-- ==== Sys2Proof/Machine/Dispatch.lean ====
section
/-! DEFINITION. exec: one arm per row of spec/opcode_table.json. -/

namespace Sys2Proof.Machine

open Host

def exec (i : Instr) (s : State) : Host.Outcome State Fault Refusal :=
  match i with
  | .powerOn strap => Sys2Proof.Machine.execPowerOn strap s
  | .resetnLow => Sys2Proof.Machine.execResetnLow s
  | .cellArrival p header inWindow => Sys2Proof.Machine.execCellArrival p header inWindow s
  | .payloadComplete p payload check => Sys2Proof.Machine.execPayloadComplete p payload check s
  | .slotStart p => Sys2Proof.Machine.execSlotStart p s
  | .slotEnd p => Sys2Proof.Machine.execSlotEnd p s
  | .transmissionEnd p e => Sys2Proof.Machine.execTransmissionEnd p e s
  | .uRoundStart => Sys2Proof.Machine.execURoundStart s
  | .lockLapse => Sys2Proof.Machine.execLockLapse s
  | .alignmentDue => Sys2Proof.Machine.execAlignmentDue s
  | .lRoundStart => Sys2Proof.Machine.execLRoundStart s
  | .mailboxBecomesStale n => Sys2Proof.Machine.execMailboxBecomesStale n s
  | .claimTimeout => Sys2Proof.Machine.execClaimTimeout s
  | .noticeDue id => Sys2Proof.Machine.execNoticeDue id s
  | .commitSwap => Sys2Proof.Machine.execCommitSwap s
  | .checkComplete => Sys2Proof.Machine.execCheckComplete s
  | .linkStartU => Sys2Proof.Machine.execLinkStartU s
  | .linkStartL => Sys2Proof.Machine.execLinkStartL s
  | .bridgeRestart => Sys2Proof.Machine.execBridgeRestart s
  | .planRecordDisturbed role ref alreadyRead => Sys2Proof.Machine.execPlanRecordDisturbed role ref alreadyRead s
  | .storeWordDisturbed word placed => Sys2Proof.Machine.execStoreWordDisturbed word placed s
  | .ping r => Sys2Proof.Machine.execPing r s
  | .claim r => Sys2Proof.Machine.execClaim r s
  | .release r => Sys2Proof.Machine.execRelease r s
  | .readStatus r => Sys2Proof.Machine.execReadStatus r s
  | .readProfile r => Sys2Proof.Machine.execReadProfile r s
  | .readSettings r => Sys2Proof.Machine.execReadSettings r s
  | .readCounters r => Sys2Proof.Machine.execReadCounters r s
  | .readRecord r => Sys2Proof.Machine.execReadRecord r s
  | .readMailbox r => Sys2Proof.Machine.execReadMailbox r s
  | .readQueue r => Sys2Proof.Machine.execReadQueue r s
  | .readNotices r => Sys2Proof.Machine.execReadNotices r s
  | .writeProfile r => Sys2Proof.Machine.execWriteProfile r s
  | .writeSettings r => Sys2Proof.Machine.execWriteSettings r s
  | .restartLink r => Sys2Proof.Machine.execRestartLink r s
  | .clearCounters r => Sys2Proof.Machine.execClearCounters r s
  | .stageClear r => Sys2Proof.Machine.execStageClear r s
  | .stageCopy r => Sys2Proof.Machine.execStageCopy r s
  | .writeRecord r => Sys2Proof.Machine.execWriteRecord r s
  | .eraseRecord r => Sys2Proof.Machine.execEraseRecord r s
  | .check r => Sys2Proof.Machine.execCheck r s
  | .commit r => Sys2Proof.Machine.execCommit r s
  | .cancelCommit r => Sys2Proof.Machine.execCancelCommit r s
  | .start r => Sys2Proof.Machine.execStart r s
  | .halt r => Sys2Proof.Machine.execHalt r s
  | .inject r => Sys2Proof.Machine.execInject r s
  | .drainQueue r => Sys2Proof.Machine.execDrainQueue r s
  | .ackNotice r => Sys2Proof.Machine.execAckNotice r s
  | .restart r => Sys2Proof.Machine.execRestart r s

end Sys2Proof.Machine
end

