-- ==== Sys2Proof/Safety.lean ====
section
/-! DEFINITION. The vocabulary of claims: the laws a safe run keeps, requests by name, and the states from which a
request is executed with the state its answer leaves. -/

namespace Sys2Proof.Machine

open Sys2Proof

/-! ## Laws -/

/-- R164: at most 16 entries, no two with the same kind and subject, every id unique. -/
def NoticeUnit.Lawful (u : NoticeUnit) : Prop :=
  u.entries.length ≤ 16 ∧ (u.entries.map fun e => (e.kind, e.subject)).Nodup ∧ (u.entries.map (·.id)).Nodup

/-- R145: each response queue holds at most 8 responses. -/
def State.ResponsesLawful (s : State) : Prop := ∀ p, (s.responses.get p).length ≤ 8

/-- R135, R140: no two positions of the party table hold the same party, and the claim holder is in the table. -/
def State.PartiesLawful (s : State) : Prop :=
  (∀ i j : Fin 8, ∀ q r : Party, s.parties[i] = some q → s.parties[j] = some r → q.id = r.id → i = j) ∧
  (∀ id, s.claim = some id → ∃ i : Fin 8, ∃ q : Party, s.parties[i] = some q ∧ q.id = id)

/-- R143: a party with an outstanding sequence is the one whose check is in progress, and it holds the claim. -/
def State.CheckLawful (s : State) : Prop :=
  (∀ p f rb, s.checkState = .checking p f rb → s.claim = some p) ∧
  (∀ i : Fin 8, ∀ q n, s.parties[i] = some q → q.outstanding = some n →
    ∃ f rb, s.checkState = .checking q.id f rb)

/-- R115, R56, R118: the head attempts and the drained flag belong to a head: an empty queue has none in flight, no
attempts and no drained flag, and a drained head is in flight (R119). At most 32 entries of at most 12 words stand, and
the attempts stay within a retry limit of 7. -/
def QueueRt.Lawful (q : QueueRt) : Prop :=
  (q.entries = [] → q.headInFlight = none ∧ q.attempts = 0 ∧ q.drained = false) ∧
  (q.drained = true → q.headInFlight.isSome) ∧
  q.entries.length ≤ 32 ∧ q.attempts ≤ 7 ∧ (∀ e, e ∈ q.entries → e.length ≤ 12)

/-- R106, R55: an EMPTY mailbox has no value, so length 0 and no source or captured round; every other has both, and
at most 12 words. -/
def MailboxRt.Lawful (m : MailboxRt) : Prop :=
  (m.state = .empty → m.length = 0 ∧ m.source = none ∧ m.round = none) ∧
  (m.state ≠ .empty → m.source.isSome ∧ m.round.isSome) ∧ m.length ≤ 12

/-- The figures that a context keeps of its target lie in the ranges of Tables 4-1 and 4-2 (R92). -/
def CaptureTarget.InRange : CaptureTarget → Prop
  | .mailbox _ _ capacity _ => capacity ≤ 12
  | .queue _ _ capacity depth _ => capacity ≤ 12 ∧ depth ≤ 32

/-- The retry limit that a transmission keeps lies in the range of Table 4-2 (R124). -/
def SourceEffect.InRange : SourceEffect → Prop
  | .queue _ _ retryLimit => retryLimit ≤ 7
  | .mailbox _ _ _ => True
  | .none => True

/-- The law of the buffer store and of what capture and emit keep of it: the store's canonical form (R105), the laws of
every mailbox and queue, figures in range, and a mailbox write open from P for as long as P's context, not CUT, is in
the mode MAILBOX WRITE OPEN (R92, R107, R87). -/
def State.BuffersLawful (s : State) : Prop :=
  storeWf s.store = true ∧ (∀ n : Fin 64, s.mailboxes[n].Lawful) ∧ (∀ n : Fin 8, s.queues[n].Lawful) ∧
  (∀ p c, s.contexts.get p = some c → c.target.InRange) ∧ (∀ p r, s.emitRecords.get p = some r → r.effect.InRange) ∧
  (∀ p c n base capacity spoiled, s.contexts.get p = some c → c.target = .mailbox n base capacity spoiled →
    c.mark ≠ .cut → s.mailboxes[n].openWrite = some p)

/-- R21, R26, R41, R48: what the two timing records never show. -/
def State.TimingLawful (s : State) : Prop :=
  (s.uTime.round.isSome ↔ s.placementApplies .u) ∧ (s.uTime.slot.isSome → s.placementApplies .u) ∧
  (s.lTime.round.isSome ↔ s.lTime.state ≠ .off) ∧ (s.lTime.slot.isSome → s.lTime.running) ∧
  (s.lTime.running → s.lTime.state ≠ .off) ∧ (s.lTime.pending.isSome → s.tyingOrTied) ∧
  (s.tyingOrTied → s.locked)

/-- R20, R39, R158: the profiles, stored and in use, and the settings lie in their ranges, and the stored profiles agree
with each other. -/
def State.ProfilesLawful (s : State) : Prop :=
  s.uStored.ok = true ∧ s.lStored.ok = true ∧ s.uInUse.ok = true ∧ s.lInUse.ok = true ∧
  profilesAgree s.uStored s.lStored = true ∧ s.settings.ok = true

/-- Every defined record of the bank lies in the ranges of Tables 4-1 to 4-4 (R65). -/
def Bank.InRange (b : Bank) : Prop :=
  (∀ n : Fin 64, ∀ d, b.mailboxes[n].fields = some d → d.ok) ∧ (∀ n : Fin 8, ∀ d, b.queues[n].fields = some d → d.ok) ∧
  (∀ n : Fin 128, ∀ e, b.captures[n].fields = some e → e.ok) ∧ (∀ n : Fin 128, ∀ e, b.emits[n].fields = some e → e.ok)

/-- The law of R53 on a bank: no two defined capture entries match the same port, slot and round, and no two defined
emit entries do. -/
def Bank.OneMatch (b : Bank) : Prop :=
  (∀ m n : Fin 128, ∀ d e p slot r, b.captures[m].fields = some d → b.captures[n].fields = some e →
    d.hits p slot r → e.hits p slot r → m = n) ∧
  (∀ m n : Fin 128, ∀ d e p slot r, b.emits[m].fields = some d → b.emits[n].fields = some e →
    d.hits p slot r → e.hits p slot r → m = n)

/-- R53, R65, R91: both banks hold records in range, the ACTIVE bank keeps the law of R53, and so does the STAGED bank
while the check state is PASSED or COMMIT_PENDING. -/
def State.PlanLawful (s : State) : Prop :=
  s.active.InRange ∧ s.staged.InRange ∧ s.active.OneMatch ∧
  (s.checkState = .passed ∨ s.checkState = .commitPending → s.staged.OneMatch)

/-! ## Words and selectors, bit by bit -/

/-- Bits `hi` to `lo` of a word, an unsigned number (Chapter 12). -/
def bitsAt (w : Word) (hi lo : Nat) : Nat := (w.extractLsb' lo (hi + 1 - lo)).toNat

/-- The selector names the port: 1 is U, 2 is L, in bits 15 and 14 (12.2). -/
def selectsPort (sel : BitVec 16) (p : Port) : Prop :=
  (sel.extractLsb' 14 2).toNat = match p with
    | .u => 1
    | .l => 2

/-- The selector names the bank: 1 is ACTIVE, 2 is STAGED (12.2). -/
def selectsBank (sel : BitVec 16) (b : BankRole) : Prop :=
  (sel.extractLsb' 14 2).toNat = match b with
    | .active => 1
    | .staged => 2

/-- The number in bits 10 to 0 of the selector (12.2). -/
def selectsNumber (sel : BitVec 16) (n : Nat) : Prop := (sel.extractLsb' 0 11).toNat = n

/-- The selector names the record: kinds 1 to 4 in bits 13 to 11, with the number (12.2). -/
def selectsRecord (sel : BitVec 16) : RecordRef → Prop
  | .mailbox n => (sel.extractLsb' 11 3).toNat = 1 ∧ selectsNumber sel n
  | .queue n => (sel.extractLsb' 11 3).toNat = 2 ∧ selectsNumber sel n
  | .capture n => (sel.extractLsb' 11 3).toNat = 3 ∧ selectsNumber sel n
  | .emit n => (sel.extractLsb' 11 3).toNat = 4 ∧ selectsNumber sel n

/-- The STAGED bank is frozen: CHECKING or COMMIT_PENDING (R73, R85). -/
def State.StagedFrozen (s : State) : Prop :=
  (∃ p f rb, s.checkState = .checking p f rb) ∨ s.checkState = .commitPending

/-! ## Requests by name -/

/-- The command of a request. -/
def Req.command (q : Req) (r : Request) : Instr :=
  match q with
  | .ping => .ping r
  | .claim => .claim r
  | .release => .release r
  | .readStatus => .readStatus r
  | .readProfile => .readProfile r
  | .readSettings => .readSettings r
  | .readCounters => .readCounters r
  | .readRecord => .readRecord r
  | .readMailbox => .readMailbox r
  | .readQueue => .readQueue r
  | .readNotices => .readNotices r
  | .writeProfile => .writeProfile r
  | .writeSettings => .writeSettings r
  | .restartLink => .restartLink r
  | .clearCounters => .clearCounters r
  | .stageClear => .stageClear r
  | .stageCopy => .stageCopy r
  | .writeRecord => .writeRecord r
  | .eraseRecord => .eraseRecord r
  | .check => .check r
  | .commit => .commit r
  | .cancelCommit => .cancelCommit r
  | .start => .start r
  | .halt => .halt r
  | .inject => .inject r
  | .drainQueue => .drainQueue r
  | .ackNotice => .ackNotice r
  | .restart => .restart r

/-! ## Requests taken -/

/-- The request finds its port running and the part out of reset (R134, R4, R169). -/
def State.Takes (s : State) (r : Request) : Prop := s.resetnLow = false ∧ s.portRunning r.port = true

/-- The state after step 1 of R138: the party is found or admitted, its idle rounds are 0. -/
def State.admitted (s : State) (r : Request) : State := (s.admitParty (requestParty r)).1

/-- The request is taken, its party has position `i`, and neither step 2 nor step 3 nor step 4 of R138 applies: it is
executed. -/
def State.Executes (s : State) (r : Request) (i : Fin 8) : Prop :=
  s.Takes r ∧ (s.admitParty (requestParty r)).2 = some i ∧
  (∀ q, (s.admitted r).parties[i] = some q → q.outstanding ≠ some r.seq ∧ (q.lastSeq = some r.seq → q.cached = none)) ∧
  (s.responses.get r.port).length < 8

/-- The same, for a request of the claim holder (R141). -/
def State.HolderExecutes (s : State) (r : Request) (i : Fin 8) : Prop :=
  s.Executes r i ∧ s.claim = some (requestParty r)

/-- The state in which a request of the party at position `i` is executed: its sequence number is the party's last
(R138, step 5). -/
def State.begun (s : State) (r : Request) (i : Fin 8) : State :=
  (s.admitted r).updateParty i fun q => { q with lastSeq := some r.seq }

/-- The state after the answer of a request of the party at position `i`: the reply is cached and joins the tail of the
queue of the port (R138 step 5, R145). -/
def State.replied (s : State) (r : Request) (i : Fin 8) (code : BitVec 8) (status : Status) (results : List Word)
    (mark : Option RestartMark) : State :=
  let reply : Reply := { status, seq := r.seq, code, results }
  (s.updateParty i fun q => { q with cached := some reply }).withResponses r.port
    (s.responses.get r.port ++ [{ station := r.station, reply, mark }])

/-- Every record of the ACTIVE bank has good parity, so that no lookup raises a notice (R70). -/
def State.ActiveSound (s : State) : Prop := ∀ ref, s.active.parityGood ref = true

/-! ## Failed records (R70) -/

/-- What a reader sees of a stored record: one whose parity has failed is as an undefined one (R70). -/
def Stored.cleared {α : Type} (x : Stored α) : Stored α := if x.parityGood then x else .undefined

/-- What the readers of a bank see of it (R70). -/
def Bank.cleared (b : Bank) : Bank :=
  { mailboxes := b.mailboxes.map Stored.cleared, queues := b.queues.map Stored.cleared,
    captures := b.captures.map Stored.cleared, emits := b.emits.map Stored.cleared }

/-- The capture entries whose parity has failed, by ascending number (log entry 12). -/
def Bank.failedCaptures (b : Bank) : List RecordRef :=
  ((List.finRange 128).filter fun n => !b.captures[n].parityGood).map .capture

/-- The emit entries whose parity has failed, by ascending number (log entry 12). -/
def Bank.failedEmits (b : Bank) : List RecordRef :=
  ((List.finRange 128).filter fun n => !b.emits[n].parityGood).map .emit

/-- The definition of a place, when its parity has failed. -/
def Bank.failedPlace (b : Bank) (k : Place) : List RecordRef := if b.parityGood k.ref then [] else [k.ref]

/-- The notice unit after PLAN_PARITY of these ACTIVE records, in this order, in L round `r`. -/
def NoticeUnit.raiseParity (u : NoticeUnit) (r : Round) (l : List RecordRef) : NoticeUnit :=
  l.foldl (fun u ref => u.raise .planParity (.record .active ref) r) u

/-- A notice of this kind and subject stands, or the queue had no place for it and the overflow flag is set (R165). -/
def NoticeUnit.Shows (u : NoticeUnit) (k : NoticeKind) (j : Subject) : Prop :=
  u.overflow = true ∨ ∃ e ∈ u.entries, e.kind = k ∧ e.subject = j

/-! ## Captures given up (R107, R108) -/

/-- The first word of the half of a mailbox that is not current (R55, R107). -/
def spareHalf (m : MailboxRt) (base capacity : Nat) : Nat := match m.half with
  | .a => base + capacity
  | .b => base

/-- The context of P, not CUT, has its write open on mailbox `n` (R92, R107). -/
def State.WritesTo (s : State) (p : Port) (c : CaptureContext) (n : Fin 64) (base capacity : Nat)
    (spoiled : List Nat) : Prop :=
  s.contexts.get p = some c ∧ c.mark ≠ .cut ∧ c.target = .mailbox n base capacity spoiled ∧
    s.mailboxes[n].openWrite = some p

/-- Word `a` lies where the open write of P places the words of its cell (R107). -/
def State.ArrivesAt (s : State) (p : Port) (a : Nat) : Prop :=
  ∃ c n base capacity spoiled, s.WritesTo p c n base capacity spoiled ∧
    spareHalf s.mailboxes[n] base capacity ≤ a ∧ a < spareHalf s.mailboxes[n] base capacity + capacity

/-- R107: the words of `t` when the capture of P in `s` was given up: a first run of the cell's words, as far as it had
arrived, has been placed in the half that is not current, a word disturbed since its placing failed; how many, and
which, is free (log entry 5). Every other word is as before. -/
def State.ArrivedPlaced (s t : State) (p : Port) : Prop :=
  (∀ a, ¬s.ArrivesAt p a → t.wordAt a = s.wordAt a) ∧
  (∀ c n base capacity spoiled r, s.WritesTo p c n base capacity spoiled → s.rx.get p = some r →
    let start := spareHalf s.mailboxes[n] base capacity
    ∃ k, k ≤ min r.header.length capacity ∧ (∀ a, a < start ∨ start + k ≤ a → t.wordAt a = s.wordAt a) ∧
      (∀ i, i < k → start + i < 4096 → (∃ w, t.wordAt (start + i) = .good w) ∨
        start + i ∈ spoiled ∧ t.wordAt (start + i) = .failed))

/-- The mailbox records of `t` after the capture of P in `s` was given up: the open write of its context, not CUT, is
closed, and nothing else changes (R108). -/
def State.WriteAbandoned (s t : State) (p : Port) : Prop :=
  (∀ c n base capacity spoiled, s.WritesTo p c n base capacity spoiled →
    t.mailboxes = s.mailboxes.set n { s.mailboxes[n] with openWrite := none }) ∧
  ((∀ c n base capacity spoiled, ¬s.WritesTo p c n base capacity spoiled) → t.mailboxes = s.mailboxes)

/-- The capture outcomes of `t` after the context of P in `s` was closed: INVALID with the context's round, unless a swap
had marked it (R33, R103). -/
def State.ContextClosed (s t : State) (p : Port) : Prop :=
  (∀ c, s.contexts.get p = some c → c.mark = .none →
    t.captureOutcomes = s.captureOutcomes.set c.entry (some (.invalid, c.round))) ∧
  ((∀ c, s.contexts.get p = some c → c.mark ≠ .none) → t.captureOutcomes = s.captureOutcomes)

/-! ## L round starts (3.6) -/

/-- The command `c` brings about, in `s`, the start of L round `n`, after which port L is in timing state `st`: on the
local timer in UNTIED, or at the pending alignment with port L idle, or at a held alignment when the last slot ends (R42,
R46 to R48). -/
def State.StartsLRound (s : State) (c : Instr) (st : LState) (n : Round) : Prop :=
  s.resetnLow = false ∧
  (c = .lRoundStart ∧ s.lTime.running = false ∧ s.lTime.state = .untied ∧ st = .untied ∧
      (∃ m, s.lTime.round = some m ∧ n = m + 1) ∨
    (s.lTime.state = .tying ∨ s.lTime.state = .tied) ∧ st = .tied ∧
      (∃ a, s.lTime.pending = some a ∧ n = a.round ∧
        (c = .lRoundStart ∧ s.lTime.running = false ∨ c = .alignmentDue ∧ s.lTime.running = false ∧ a.held = false ∨
          c = .slotEnd .l ∧ a.held = true ∧ s.lTime.slot.isSome ∧ s.lInUse.slotCount ≤ s.lTime.lastSlot ∧
            s.tx.l = none ∧ s.rx.l = none)))

/-! ## The order of the check (R75) -/

/-- The test of Table 5-1 with this step, record (by its number in the step) and place among the record's tests fails in
the bank, with this fault: the PARITY test of a record comes first, and one read before it was disturbed passes it (R75
to R80; log entry 6). In steps 3 and 6 the mailboxes come before the queues. -/
inductive Bank.Fails (b : Bank) (f : CheckFigures) (readBefore : List RecordRef) : (step record test : Nat) →
    PlanFault → Prop where
  | mailboxParity (n : Fin 64) (bad : b.mailboxes[n].parityGood = false) (unread : .mailbox n ∉ readBefore) :
      Fails b f readBefore 1 n 0 (.parity, .mailbox n)
  | mailboxRange (n : Fin 64) (d : MailboxDef) (defined : b.mailboxes[n].fields = some d)
      (outside : 4096 < d.base + 2 * d.capacity) : Fails b f readBefore 1 n 1 (.regionRange, .mailbox n)
  | queueParity (n : Fin 8) (bad : b.queues[n].parityGood = false) (unread : .queue n ∉ readBefore) :
      Fails b f readBefore 2 n 0 (.parity, .queue n)
  | queueRange (n : Fin 8) (d : QueueDef) (defined : b.queues[n].fields = some d)
      (outside : 4096 < d.base + d.depth * d.capacity) : Fails b f readBefore 2 n 1 (.regionRange, .queue n)
  | mailboxOverlap (m n : Fin 64) (d e : MailboxDef) (earlier : m < n) (first : b.mailboxes[m].fields = some d)
      (second : b.mailboxes[n].fields = some e)
      (meet : d.base < e.base + 2 * e.capacity ∧ e.base < d.base + 2 * d.capacity) :
      Fails b f readBefore 3 n 0 (.regionOverlap, .mailbox n)
  | queueMailboxOverlap (m : Fin 64) (n : Fin 8) (d : MailboxDef) (e : QueueDef)
      (first : b.mailboxes[m].fields = some d) (second : b.queues[n].fields = some e)
      (meet : d.base < e.base + e.depth * e.capacity ∧ e.base < d.base + 2 * d.capacity) :
      Fails b f readBefore 3 (64 + n) 0 (.regionOverlap, .queue n)
  | queueOverlap (m n : Fin 8) (d e : QueueDef) (earlier : m < n) (first : b.queues[m].fields = some d)
      (second : b.queues[n].fields = some e)
      (meet : d.base < e.base + e.depth * e.capacity ∧ e.base < d.base + d.depth * d.capacity) :
      Fails b f readBefore 3 (64 + n) 0 (.regionOverlap, .queue n)
  | captureParity (n : Fin 128) (bad : b.captures[n].parityGood = false) (unread : .capture n ∉ readBefore) :
      Fails b f readBefore 4 n 0 (.parity, .capture n)
  | captureTarget (n : Fin 128) (e : CaptureEntry) (defined : b.captures[n].fields = some e)
      (undefined : b.placeDefined e.target = false) : Fails b f readBefore 4 n 1 (.noTarget, .capture n)
  | captureSlot (n : Fin 128) (e : CaptureEntry) (defined : b.captures[n].fields = some e)
      (beyond : f.slotCount e.port < e.slot) : Fails b f readBefore 4 n 2 (.slotRange, .capture n)
  | captureReserved (n : Fin 128) (e : CaptureEntry) (defined : b.captures[n].fields = some e)
      (reserved : f.reserved e.port e.slot = true) : Fails b f readBefore 4 n 3 (.reservedSlot, .capture n)
  | captureOverlap (m n : Fin 128) (d e : CaptureEntry) (lower : m < n) (first : b.captures[m].fields = some d)
      (second : b.captures[n].fields = some e) (port : d.port = e.port) (slot : d.slot = e.slot)
      (rounds : d.rounds.overlaps e.rounds = true) : Fails b f readBefore 4 n 4 (.captureOverlap, .capture n)
  | emitParity (n : Fin 128) (bad : b.emits[n].parityGood = false) (unread : .emit n ∉ readBefore) :
      Fails b f readBefore 5 n 0 (.parity, .emit n)
  | emitSource (n : Fin 128) (e : EmitEntry) (defined : b.emits[n].fields = some e)
      (undefined : b.placeDefined e.source = false) : Fails b f readBefore 5 n 1 (.noTarget, .emit n)
  | emitSlot (n : Fin 128) (e : EmitEntry) (defined : b.emits[n].fields = some e)
      (beyond : f.slotCount e.port < e.slot) : Fails b f readBefore 5 n 2 (.slotRange, .emit n)
  | emitReserved (n : Fin 128) (e : EmitEntry) (defined : b.emits[n].fields = some e)
      (reserved : f.reserved e.port e.slot = true) : Fails b f readBefore 5 n 3 (.reservedSlot, .emit n)
  | emitOverlap (m n : Fin 128) (d e : EmitEntry) (lower : m < n) (first : b.emits[m].fields = some d)
      (second : b.emits[n].fields = some e) (port : d.port = e.port) (slot : d.slot = e.slot)
      (rounds : d.rounds.overlaps e.rounds = true) : Fails b f readBefore 5 n 4 (.emitOverlap, .emit n)
  | selfSlot (m n : Fin 128) (d : CaptureEntry) (e : EmitEntry) (captured : b.captures[m].fields = some d)
      (emitted : b.emits[n].fields = some e) (port : d.port = e.port) (slot : d.slot = e.slot)
      (rounds : d.rounds.overlaps e.rounds = true) : Fails b f readBefore 5 n 5 (.selfSlot, .emit n)
  | mailboxIngress (k : Fin 64) (m n : Fin 128) (d e : CaptureEntry) (defined : b.placeDefined (.mailbox k) = true)
      (first : b.captures[m].fields = some d) (second : b.captures[n].fields = some e)
      (uplink : d.port = .u ∧ d.target = .mailbox k) (local_ : e.port = .l ∧ e.target = .mailbox k) :
      Fails b f readBefore 6 k 0 (.mixedIngress, .mailbox k)
  | queueIngress (k : Fin 8) (m n : Fin 128) (d e : CaptureEntry) (defined : b.placeDefined (.queue k) = true)
      (first : b.captures[m].fields = some d) (second : b.captures[n].fields = some e)
      (uplink : d.port = .u ∧ d.target = .queue k) (local_ : e.port = .l ∧ e.target = .queue k) :
      Fails b f readBefore 6 (64 + k) 0 (.mixedIngress, .queue k)
  | queueEgress (k : Fin 8) (m n : Fin 128) (d e : EmitEntry) (defined : b.placeDefined (.queue k) = true)
      (first : b.emits[m].fields = some d) (second : b.emits[n].fields = some e)
      (uplink : d.port = .u ∧ d.source = .queue k) (local_ : e.port = .l ∧ e.source = .queue k) :
      Fails b f readBefore 7 k 0 (.mixedEgress, .queue k)

/-- One test of Table 5-1 comes before another: by step, then by record, then by test (R75). -/
def testBefore (step record test step' record' test' : Nat) : Prop :=
  step < step' ∨ step = step' ∧ (record < record' ∨ record = record' ∧ test < test')

end Sys2Proof.Machine
end

