-- ==== Sys2Proof/Certificates/Slice0/Obligations.lean ====
section
/-! DEFINITION. The statements for the provers, one definition each. -/

open Sys2Proof Sys2Proof.Machine

/-! ## The machine -/

/-- A step executes the command at the front of the queue with the queue's rest; on an empty queue the block idles (log
entry 15). -/
def Obligations.StepExecutesFrontCommand : Prop :=
  (∀ (c : Instr) (rest : List Instr) (s : State), s.pending = c :: rest → step s = exec c { s with pending := rest }) ∧
  (∀ s : State, s.pending = [] → step s = .next s)

/-- R18, R37, R21, R41, R50, R52, R106, R115, R149, R158, R164, R169: POWER_ON gives every quantity the value its
chapter states at power-on, whatever stood before. RESETN_LOW cuts receptions and transmissions with no event taken and
deasserts ATTN; until POWER_ON no other command changes anything. -/
def Obligations.PowerOnSetsAndResetnLowHoldsThePart : Prop :=
  (∀ (strap : BitVec 6) (s : State), ∃ t, exec (.powerOn strap) s = .next t ∧
    t.resetnLow = false ∧ t.strap = strap ∧
    t.uStored = { enabled := true, station := BitVec.ofNat 8 (strap.toNat + 1), slotCount := 64, slotLength := 10,
                  responseSlot := strap.toNat + 1, lapseLimit := 4, confirmQuorum := 1, timingStations := [],
                  noticeTarget := 0 } ∧
    t.lStored = { enabled := true, station := BitVec.ofNat 8 (strap.toNat + 1), slotCount := 64, slotLength := 10,
                  beaconSlot := 1, responseSlot := 2, tieEnabled := true, tieOffset := 0, noticeTarget := 0 } ∧
    t.uInUse = t.uStored ∧ t.lInUse = t.lStored ∧
    t.uTime.state = .seek ∧ t.uTime.round = none ∧ t.uTime.slot = none ∧ t.uTime.adoptionRound = false ∧
    t.uTime.consistentSeen = false ∧ t.uTime.confirmSet = [] ∧ t.uTime.consistentTally = 0 ∧
    t.uTime.discordantTally = 0 ∧ t.uTime.missCount = 0 ∧
    t.lTime.state = .untied ∧ t.lTime.round = some 0 ∧ t.lTime.running = true ∧ t.lTime.slot = none ∧
    t.lTime.pending = none ∧
    (∀ p, t.rx.get p = none ∧ t.tx.get p = none ∧ t.counters.get p = .zero ∧ t.responses.get p = [] ∧
      t.contexts.get p = none ∧ t.emitRecords.get p = none) ∧
    (∀ n : Fin 64, t.active.mailboxes[n] = .undefined ∧ t.staged.mailboxes[n] = .undefined) ∧
    (∀ n : Fin 8, t.active.queues[n] = .undefined ∧ t.staged.queues[n] = .undefined) ∧
    (∀ n : Fin 128, t.active.captures[n] = .undefined ∧ t.staged.captures[n] = .undefined ∧
      t.active.emits[n] = .undefined ∧ t.staged.emits[n] = .undefined ∧
      t.captureOutcomes[n] = none ∧ t.emitOutcomes[n] = none) ∧
    t.generation = 0 ∧ t.checkState = .unchecked ∧
    (∀ n : Fin 64, t.mailboxes[n] = .reset) ∧ (∀ n : Fin 8, t.queues[n] = .reset) ∧ t.forwarding = .halted ∧
    (∀ i : Fin 8, t.parties[i] = none) ∧ t.claim = none ∧
    t.settings.claimTimeout = 64 ∧ t.settings.repeatInterval = 16 ∧
    t.notices.entries = [{ id := 0, kind := .started, subject := .none, count := 1, firstRound := 0, lastRound := 0,
                           countdown := 0, sentEver := false }] ∧
    t.notices.overflow = false ∧ t.attn = true ∧ t.pending = s.pending) ∧
  (∀ s : State, ∃ t, exec .resetnLow s = .next t ∧ t.resetnLow = true ∧ t.attn = false ∧
    (∀ p, t.rx.get p = none ∧ t.tx.get p = none) ∧ t.counters = s.counters ∧
    t.captureOutcomes = s.captureOutcomes ∧ t.emitOutcomes = s.emitOutcomes ∧ t.notices = s.notices ∧
    t.mailboxes = s.mailboxes ∧ t.queues = s.queues) ∧
  (∀ (c : Instr) (s : State), s.resetnLow = true → (∀ strap, c ≠ .powerOn strap) → c ≠ .resetnLow →
    exec c s = .next s)

/-- R148, R149, R17, R21, R22, R41, R50, R52, R105, R106, R115, R121, R164: a bridge restart keeps the strap value, the
stored profiles, the settings and the words of the store; every other quantity is as after a start. The words that an
open capture write, which the restart discards, had placed by then are placed (R107, R108; log entry 5). -/
def Obligations.BridgeRestartKeepsStoredProfilesAndWords : Prop :=
  ∀ s : State, s.resetnLow = false → ∃ t, exec .bridgeRestart s = .next t ∧ t.resetnLow = false ∧
    t.strap = s.strap ∧ t.uStored = s.uStored ∧ t.lStored = s.lStored ∧ t.settings = s.settings ∧
    (∀ a, ¬s.ArrivesAt .u a → ¬s.ArrivesAt .l a → t.wordAt a = s.wordAt a) ∧
    t.uInUse = s.uStored ∧ t.lInUse = s.lStored ∧
    t.uTime = { state := if s.uStored.enabled then .seek else .off, round := none, slot := none, lastSlot := 0,
                adoptionRound := false, consistentSeen := false, confirmSet := [], consistentTally := 0,
                discordantTally := 0, missCount := 0 } ∧
    t.lTime = (if s.lStored.enabled then
        { state := .untied, round := some 0, running := true, slot := none, lastSlot := 0, pending := none }
      else { state := .off, round := none, running := false, slot := none, lastSlot := 0, pending := none }) ∧
    (∀ p, t.rx.get p = none ∧ t.tx.get p = none ∧ t.counters.get p = ⟨0, 0, 0, 0, 0, 0⟩ ∧ t.responses.get p = [] ∧
      t.contexts.get p = none ∧ t.emitRecords.get p = none ∧
      t.slotFlags.get p = { accepted := false, sent := false }) ∧
    (∀ n : Fin 64, t.active.mailboxes[n] = ⟨none, true⟩ ∧ t.staged.mailboxes[n] = ⟨none, true⟩) ∧
    (∀ n : Fin 8, t.active.queues[n] = ⟨none, true⟩ ∧ t.staged.queues[n] = ⟨none, true⟩) ∧
    (∀ n : Fin 128, t.active.captures[n] = ⟨none, true⟩ ∧ t.staged.captures[n] = ⟨none, true⟩ ∧
      t.active.emits[n] = ⟨none, true⟩ ∧ t.staged.emits[n] = ⟨none, true⟩ ∧
      t.captureOutcomes[n] = none ∧ t.emitOutcomes[n] = none) ∧
    t.generation = 0 ∧ t.checkState = .unchecked ∧
    (∀ n : Fin 64, t.mailboxes[n] = { state := .empty, half := .a, openWrite := none, length := 0, source := none,
                                      round := none, age := 0, truncated := false, tag := 0 }) ∧
    (∀ n : Fin 8, t.queues[n].entries = [] ∧ t.queues[n].headInFlight = none ∧ t.queues[n].attempts = 0 ∧
      t.queues[n].drained = false) ∧
    t.forwarding = .halted ∧ (∀ i : Fin 8, t.parties[i] = none) ∧ t.claim = none ∧
    t.notices.entries = [{ id := 0, kind := .started, subject := .none, count := 1, firstRound := 0, lastRound := 0,
                           countdown := 0, sentEver := false }] ∧
    t.notices.overflow = false ∧ t.notices.nextId = 1 ∧ t.attn = true ∧ t.pending = s.pending

/-- The laws of the model hold of the state after reset. -/
def Obligations.LawsHoldAtReset : Prop :=
  State.reset.notices.Lawful ∧ State.reset.ResponsesLawful ∧ State.reset.PartiesLawful ∧ State.reset.CheckLawful ∧
  State.reset.TimingLawful ∧ State.reset.ProfilesLawful ∧ State.reset.PlanLawful ∧ State.reset.BuffersLawful

/-! ## Arrivals and payloads -/

/-- R8, R5, R7, R4: an arrival is refused by the first test it fails and counted once; one at a port that is OFF, or in a
slot whose start loaded the transmit buffer, changes nothing. -/
def Obligations.RefusedArrivalIsCountedOnce : Prop :=
  ∀ (p : Port) (header : BitVec 64) (inWindow : Bool) (s : State), s.resetnLow = false →
    let c := s.counters.get p
    (s.portOff p = true ∨ (s.slotFlags.get p).sent = true → exec (.cellArrival p header inWindow) s = .next s) ∧
    (s.portOff p = false → (s.slotFlags.get p).sent = false →
      (parseHeader header = none →
        exec (.cellArrival p header inWindow) s =
          .next { s with counters := s.counters.set p { c with malformed := satInc c.malformed } }) ∧
      (∀ h, parseHeader header = some h → ¬(p = .u ∧ h.kind = .beacon) → s.placementApplies p = true →
        (s.currentSlot p ≠ some h.slot ∨ s.currentRound p ≠ some h.round →
          exec (.cellArrival p header inWindow) s =
            .next { s with counters := s.counters.set p { c with misplaced := satInc c.misplaced } }) ∧
        (s.currentSlot p = some h.slot → s.currentRound p = some h.round →
          (inWindow = false ∨ (s.slotFlags.get p).accepted = true) →
          exec (.cellArrival p header inWindow) s =
            .next { s with counters := s.counters.set p { c with late := satInc c.late } })))

/-- R8, R10, R23, R7: a header that passes the tests that apply begins a reception, which keeps the slot, the round and
the window report of the event; a BEACON on U is tested for legality only, and so is every cell in SEEK. Cells that are
not delivered to the capture unit change nothing else. A reception still in progress is replaced uncounted: that is the
model's (log entry 22, DEDUCED; R9 lets every reception complete or be abandoned first). Cells of length 0, which complete
at once, have ZeroLengthCellCompletesAtItsHeader. -/
def Obligations.AcceptedHeaderBeginsReception : Prop :=
  ∀ (p : Port) (header : BitVec 64) (inWindow : Bool) (s : State) (h : Header), s.resetnLow = false →
    s.portOff p = false → (s.slotFlags.get p).sent = false → parseHeader header = some h → h.length ≠ 0 →
    s.contexts.get p = none →
    (p = .u ∧ h.kind = .beacon ∨ s.placementApplies p = false ∨
      s.currentSlot p = some h.slot ∧ s.currentRound p = some h.round ∧ inWindow = true ∧
        (s.slotFlags.get p).accepted = false) →
    (h.kind ≠ .data ∨ s.delivers p = false) →
    exec (.cellArrival p header inWindow) s =
      .next { s with
        rx := s.rx.set p (some { header := h, slotAt := s.currentSlot p, roundAt := s.currentRound p, inWindow,
                                 deliverable := s.delivers p })
        slotFlags := if (s.currentSlot p).isSome then s.slotFlags.set p { accepted := true, sent := false }
          else s.slotFlags }

/-- R8 to R10, R17, R61, R93 to R97, R107: what a DATA or VOID cell accepted in its slot and delivered does at its header.
A DATA cell begins a reception; a VOID cell completes at once (R6) and is counted GOOD; the slot is one in which a header
was accepted. The capture follows the lines of Table 6-2, where `e` is the one entry of the ACTIVE plan that matches;
nothing else changes. A reception still in progress is replaced uncounted: that is the model's (log entry 22). -/
def Obligations.CaptureAtHeaderFollowsTable : Prop :=
  ∀ (p : Port) (header : BitVec 64) (s : State) (h : Header), s.resetnLow = false →
    s.portOff p = false → s.slotFlags.get p = .clear → parseHeader header = some h →
    s.currentSlot p = some h.slot → s.currentRound p = some h.round → s.delivers p = true →
    s.contexts.get p = none → s.ActiveSound → s.active.OneMatch →
    (h.kind = .data ∧ h.length ≠ 0 ∨ h.kind = .void ∧ h.length = 0) →
    let c := s.counters.get p
    ∃ t, exec (.cellArrival p header true) s = .next t ∧
      t = { s with
        rx := s.rx.set p (if h.kind = .data then
          some { header := h, slotAt := some h.slot, roundAt := some h.round, inWindow := true, deliverable := true }
          else none)
        slotFlags := s.slotFlags.set p { accepted := true, sent := false }
        counters := if h.kind = .data then s.counters
          else s.counters.set p { c with good := if c.good = 65535 then 65535 else c.good + 1 }
        captureOutcomes := t.captureOutcomes
        mailboxes := t.mailboxes
        contexts := t.contexts } ∧
      ((∀ (n : Fin 128) (e : CaptureEntry), s.active.captures[n].fields = some e → e.hits p h.slot h.round = false) →
        t.captureOutcomes = s.captureOutcomes ∧ t.mailboxes = s.mailboxes ∧ t.contexts = s.contexts) ∧
      (∀ (n : Fin 128) (e : CaptureEntry), s.active.captures[n].fields = some e →
        e.hits p h.slot h.round = true →
        (s.active.placeDefined e.target = false →
          t.captureOutcomes = s.captureOutcomes.set n (some (.invalid, h.round)) ∧ t.mailboxes = s.mailboxes ∧
          t.contexts = s.contexts) ∧
        (s.active.placeDefined e.target = true →
          (e.acceptFrom ≠ 0 ∧ e.acceptFrom ≠ h.source →
            t.captureOutcomes = s.captureOutcomes.set n (some (.foreign, h.round)) ∧ t.mailboxes = s.mailboxes ∧
            t.contexts = s.contexts) ∧
          (e.acceptFrom = 0 ∨ e.acceptFrom = h.source →
            (h.kind = .void →
              t.captureOutcomes = s.captureOutcomes.set n (some (.void, h.round)) ∧ t.mailboxes = s.mailboxes ∧
              t.contexts = s.contexts) ∧
            (∀ (k : Fin 64) (d : MailboxDef), h.kind = .data → e.target = .mailbox k →
              s.active.mailboxes[k].fields = some d →
              (s.mailboxes[k].openWrite.isSome = true →
                t.captureOutcomes = s.captureOutcomes.set n (some (.invalid, h.round)) ∧ t.mailboxes = s.mailboxes ∧
                t.contexts = s.contexts) ∧
              (s.mailboxes[k].openWrite = none →
                t.captureOutcomes = s.captureOutcomes ∧
                t.mailboxes = s.mailboxes.set k { s.mailboxes[k] with openWrite := some p } ∧
                t.contexts = s.contexts.set p
                  (some ⟨n, h.round, .mailbox k d.base d.capacity [], .none⟩))) ∧
            (∀ (k : Fin 8) (d : QueueDef), h.kind = .data → e.target = .queue k →
              s.active.queues[k].fields = some d →
              t.captureOutcomes = s.captureOutcomes ∧ t.mailboxes = s.mailboxes ∧
              t.contexts = s.contexts.set p
                (some ⟨n, h.round, .queue k d.base d.capacity d.depth d.fullPolicy, .none⟩)))))

/-- R6, R9, R10, R98 to R100, R108, R116, R134: an accepted cell of length 0 completes at its header with a valid payload
and is counted GOOD. A VOID, RESPONSE, NOTICE or REQUEST cell, which has no request word (R134), and a DATA cell that is
not delivered have no other effect (a VOID cell that is delivered has CaptureAtHeaderFollowsTable). A delivered DATA cell
that no entry matches has none either; with an unavailable target it records INVALID, from a sender that is not accepted
FOREIGN. Captured into a mailbox it flips it with length 0; held for a queue it is appended with length 0, replaces the
oldest entry, or is dropped. No word of the store changes. Where the head stands in the ring is log entry 7; that a
reception still in progress is replaced uncounted is log entry 22. -/
def Obligations.ZeroLengthCellCompletesAtItsHeader : Prop :=
  ∀ (p : Port) (header : BitVec 64) (inWindow : Bool) (s : State) (h : Header), s.resetnLow = false →
    s.portOff p = false → (s.slotFlags.get p).sent = false → parseHeader header = some h → h.length = 0 →
    s.contexts.get p = none →
    (s.placementApplies p = false ∨
      s.currentSlot p = some h.slot ∧ s.currentRound p = some h.round ∧ inWindow = true ∧
        (s.slotFlags.get p).accepted = false) →
    let c := s.counters.get p
    let counted : State := { s with
      rx := s.rx.set p none
      counters := s.counters.set p { c with good := satInc c.good }
      slotFlags := if (s.currentSlot p).isSome then s.slotFlags.set p { accepted := true, sent := false }
        else s.slotFlags }
    ((h.kind ≠ .data ∧ h.kind ≠ .void ∨ s.delivers p = false) →
      exec (.cellArrival p header inWindow) s = .next counted) ∧
    (h.kind = .data → s.delivers p = true → s.currentSlot p = some h.slot → s.currentRound p = some h.round →
      s.ActiveSound → s.active.OneMatch →
      ((∀ (i : Fin 128) (e : CaptureEntry), s.active.captures[i].fields = some e → e.hits p h.slot h.round = false) →
        exec (.cellArrival p header inWindow) s = .next counted) ∧
      (∀ (i : Fin 128) (e : CaptureEntry), s.active.captures[i].fields = some e → e.hits p h.slot h.round = true →
        (s.active.placeDefined e.target = false → exec (.cellArrival p header inWindow) s = .next { counted with
          captureOutcomes := s.captureOutcomes.set i (some (.invalid, h.round)) }) ∧
        (s.active.placeDefined e.target = true → e.acceptFrom ≠ 0 → e.acceptFrom ≠ h.source →
          exec (.cellArrival p header inWindow) s = .next { counted with
            captureOutcomes := s.captureOutcomes.set i (some (.foreign, h.round)) }) ∧
        (e.acceptFrom = 0 ∨ e.acceptFrom = h.source →
          (∀ (k : Fin 64) (d : MailboxDef), e.target = .mailbox k → s.active.mailboxes[k].fields = some d →
            let m := s.mailboxes[k]
            (m.openWrite = none → exec (.cellArrival p header inWindow) s = .next { counted with
              mailboxes := s.mailboxes.set k
                { state := .fresh, half := m.half.other, openWrite := none, length := 0, source := some h.source,
                  round := some h.round, age := 0, truncated := false, tag := m.tag + 1 }
              captureOutcomes := s.captureOutcomes.set i (some (.received, h.round)) }) ∧
            (m.openWrite.isSome = true → exec (.cellArrival p header inWindow) s = .next { counted with
              captureOutcomes := s.captureOutcomes.set i (some (.invalid, h.round)) })) ∧
          (∀ (k : Fin 8) (d : QueueDef), e.target = .queue k → s.active.queues[k].fields = some d →
            let q := s.queues[k]
            let x : QueueEntry := { length := 0, source := h.source, round := h.round, truncated := false }
            let overrun := s.notices.raise .queueOverrun (.queue k) s.raiseRound
            (q.entries.length < d.depth → exec (.cellArrival p header inWindow) s = .next { counted with
              queues := s.queues.set k { q with entries := q.entries ++ [x] }
              captureOutcomes := s.captureOutcomes.set i (some (.received, h.round)) }) ∧
            (d.depth ≤ q.entries.length → (q.headInFlight.isSome = true ∨ d.fullPolicy = .dropNewest) →
              exec (.cellArrival p header inWindow) s = .next { counted with
                notices := overrun
                captureOutcomes := s.captureOutcomes.set i (some (.dropped, h.round)) }) ∧
            (d.depth ≤ q.entries.length → q.headInFlight = none → d.fullPolicy = .replaceOldest →
              exec (.cellArrival p header inWindow) s = .next { counted with
                notices := overrun
                queues := s.queues.set k { entries := q.entries.tail ++ [x], headInFlight := none, attempts := 0,
                                           drained := false, headPos := (q.headPos + 1) % d.depth }
                captureOutcomes := s.captureOutcomes.set i (some (.received, h.round)) })))))

/-- R70, R61, R62, R93, R101, R124: a lookup reads every entry of its table in the ACTIVE bank, and the definition that
the matching entry names; a record whose parity has failed is read as an undefined one, and PLAN_PARITY is raised for it,
before anything else that the event raises. So the event is that of the bank with those records undefined: a failed entry
matches nothing, a failed target gives INVALID, a failed source the on-empty policy with FAULT. A failed mailbox
definition raises PLAN_PARITY at aging; at a carry-over a failed definition of either bank raises it under its new role,
and nothing is kept of it. The order of several raises is the model's (log entries 12 and 30). -/
def Obligations.FailedRecordsReadAsUndefined : Prop :=
  (∀ (c : Instr) (p : Port) (s : State) (k : Nat) (r : Round), s.resetnLow = false → s.currentRound p = some r →
    let a := s.active
    let seenAs := fun failed : List RecordRef => ∃ t,
      exec c { s with active := a.cleared, notices := s.notices.raiseParity s.raiseRound failed } = .next t ∧
      exec c s = .next { t with active := a }
    (∀ header h, c = .cellArrival p header true → parseHeader header = some h → s.portOff p = false →
      s.slotFlags.get p = .clear → s.currentSlot p = some k → h.slot = k → h.round = r → s.delivers p = true →
      (h.kind = .data ∨ h.kind = .void) →
      ((∀ (n : Fin 128) (e : CaptureEntry), a.captures[n] = ⟨some e, true⟩ → e.hits p k r = false) →
        seenAs a.failedCaptures) ∧
      (∀ (n : Fin 128) (e : CaptureEntry), a.OneMatch → a.captures[n] = ⟨some e, true⟩ → e.hits p k r = true →
        seenAs (a.failedCaptures ++ a.failedPlace e.target))) ∧
    (c = .slotEnd p → s.slotFlags.get p = .clear → s.currentSlot p = some k → s.delivers p = true →
      s.tx.get p = none → s.rx.get p = none → (∀ x, p = .l → s.lTime.pending = some x → x.held = false) →
      seenAs a.failedCaptures) ∧
    (c = .slotStart p → s.currentSlot p = none → s.lastSlot p + 1 = k → k ≤ s.slotCount p →
      s.forwarding = .forwarding → k ≠ s.responseSlot p →
      (p = .u ∧ s.uTime.state = .locked ∨ p = .l ∧ s.lTime.running = true ∧ s.lTime.state ≠ .off ∧
        k ≠ s.lInUse.beaconSlot) →
      ((∀ (n : Fin 128) (e : EmitEntry), a.emits[n] = ⟨some e, true⟩ → e.hits p k r = false) → seenAs a.failedEmits) ∧
      (∀ (n : Fin 128) (e : EmitEntry), a.OneMatch → a.emits[n] = ⟨some e, true⟩ → e.hits p k r = true →
        seenAs (a.failedEmits ++ a.failedPlace e.source)))) ∧
  (∀ (s : State) (c : Instr) (st : LState) (n : Round), s.StartsLRound c st n → ∃ t, exec c s = .next t ∧
    (s.checkState ≠ .commitPending → ∀ k : Fin 64, s.active.mailboxes[k].parityGood = false →
      t.notices.Shows .planParity (.record .active (.mailbox k)) ∧ t.mailboxes[k] = s.mailboxes[k]) ∧
    (s.checkState = .commitPending →
      (∀ k : Fin 64,
        (s.active.mailboxes[k].parityGood = false → t.notices.Shows .planParity (.record .staged (.mailbox k)) ∧
          t.mailboxes[k] = .reset) ∧
        (s.staged.mailboxes[k].parityGood = false → t.notices.Shows .planParity (.record .active (.mailbox k)) ∧
          t.mailboxes[k] = .reset)) ∧
      (∀ k : Fin 8,
        (s.active.queues[k].parityGood = false → t.notices.Shows .planParity (.record .staged (.queue k)) ∧
          t.queues[k] = .reset) ∧
        (s.staged.queues[k].parityGood = false → t.notices.Shows .planParity (.record .active (.queue k)) ∧
          t.queues[k] = .reset))))

/-- R6, R9, R10, R87, R134: a payload-complete event frees the receive buffer and counts the cell GOOD or MALFORMED; a
cell that is delivered nowhere has no other effect, and one whose context a swap has marked CUT closes that context and
has no other. That PAYLOAD_COMPLETE posed without a reception changes nothing is the model's choice (log entry 13). -/
def Obligations.CompletedCellIsCounted : Prop :=
  ∀ (p : Port) (payload : List Word) (check : BitVec 16) (s : State), s.resetnLow = false →
    ((s.portOff p = true ∨ s.rx.get p = none) → exec (.payloadComplete p payload check) s = .next s) ∧
    (∀ r, s.portOff p = false → s.rx.get p = some r → r.header.length ≠ 0 → payload.length = r.header.length →
      let valid := payloadValid r.header payload check
      let c := s.counters.get p
      let counted : State := { s with
        rx := s.rx.set p none
        counters := s.counters.set p
          (if valid then { c with good := satInc c.good } else { c with malformed := satInc c.malformed }) }
      ((r.header.kind = .data ∧ s.contexts.get p = none ∨ r.header.kind = .response ∨ r.header.kind = .notice ∨
        r.header.kind = .beacon ∧ (p = .l ∨ valid = false) ∨
        r.header.kind = .request ∧ (valid = false ∨ r.deliverable = false ∨ s.delivers p = false ∨
          r.header.dest ≠ s.address p)) →
        exec (.payloadComplete p payload check) s = .next counted) ∧
      (∀ x, r.header.kind = .data → s.contexts.get p = some x → x.mark = .cut →
        exec (.payloadComplete p payload check) s = .next { counted with contexts := s.contexts.set p none }))

/-- R98, R100, R105, R107, R108, R87, R9: the payload of a cell captured into a mailbox, which is counted. A valid payload
flips the mailbox to the half written, a bad one closes the write and leaves every other field; no outcome is recorded for
a CARRIED capture. The words, up to the capacity, are placed in the half that was not current, where those disturbed since
their placing are failed; no other word changes. That the words of a bad payload are placed with the others at this event
is the model's (log entry 5). -/
def Obligations.MailboxCaptureClosesItsWrite : Prop :=
  ∀ (p : Port) (payload : List Word) (check : BitVec 16) (s : State) (r : Reception) (c : CaptureContext) (n : Fin 64)
    (base capacity : Nat) (spoiled : List Nat), s.resetnLow = false → s.portOff p = false → s.rx.get p = some r →
    r.header.kind = .data → r.header.length ≠ 0 → payload.length = r.header.length →
    s.contexts.get p = some c → c.target = .mailbox n base capacity spoiled → c.mark ≠ .cut →
    s.mailboxes[n].openWrite = some p →
    let m := s.mailboxes[n]
    let h := r.header
    let start := match m.half with
      | .a => base + capacity
      | .b => base
    let k := min h.length capacity
    let g := s.counters.get p
    ∃ t, exec (.payloadComplete p payload check) s = .next t ∧
      t.counters = s.counters.set p
        (if payloadValid h payload check then { g with good := satInc g.good }
          else { g with malformed := satInc g.malformed }) ∧
      t.rx.get p = none ∧ t.contexts = s.contexts.set p none ∧ t.queues = s.queues ∧ t.notices = s.notices ∧
      (∀ a, a < start ∨ start + k ≤ a → t.wordAt a = s.wordAt a) ∧
      (∀ i, i < k → start + i < 4096 →
        t.wordAt (start + i) = if start + i ∈ spoiled then .failed else .good (payload.getD i 0)) ∧
      (payloadValid h payload check = true →
        t.mailboxes = s.mailboxes.set n
          { state := .fresh, half := m.half.other, openWrite := none, length := k, source := some h.source,
            round := some c.round, age := 0, truncated := capacity < h.length, tag := m.tag + 1 } ∧
        t.captureOutcomes = if c.mark = .none then
            s.captureOutcomes.set c.entry (some (if capacity < h.length then .truncated else .received, c.round))
          else s.captureOutcomes) ∧
      (payloadValid h payload check = false →
        t.mailboxes = s.mailboxes.set n { m with openWrite := none } ∧
        t.captureOutcomes = if c.mark = .none then s.captureOutcomes.set c.entry (some (.invalid, c.round))
          else s.captureOutcomes)

/-- R99, R100, R105, R116, R87, R9: the payload of a cell held for a queue, which is counted. A bad payload appends
nothing; a valid one is appended, replaces the oldest entry, or is dropped, by the depth, the head in flight and the full
policy kept. The words of the entry are stored at the next free position of the ring, up to the entry capacity, and no
other word changes; which position that is follows from the model's head position (log entry 7). -/
def Obligations.QueueCaptureAppendsOrDrops : Prop :=
  ∀ (p : Port) (payload : List Word) (check : BitVec 16) (s : State) (r : Reception) (c : CaptureContext) (n : Fin 8)
    (base capacity depth : Nat) (policy : FullPolicy), s.resetnLow = false → s.portOff p = false →
    s.rx.get p = some r → r.header.kind = .data → r.header.length ≠ 0 → payload.length = r.header.length →
    s.contexts.get p = some c → c.target = .queue n base capacity depth policy → c.mark ≠ .cut →
    let q := s.queues[n]
    let h := r.header
    let k := min h.length capacity
    let e : QueueEntry := { length := k, source := h.source, round := c.round, truncated := capacity < h.length }
    let stored := if capacity < h.length then CaptureOutcome.truncated else CaptureOutcome.received
    let recorded := fun o => if c.mark = .none then s.captureOutcomes.set c.entry (some (o, c.round))
      else s.captureOutcomes
    let written := fun (t : State) (start : Nat) =>
      (∀ i, i < k → start + i < 4096 → t.wordAt (start + i) = .good (payload.getD i 0)) ∧
      (∀ a, a < start ∨ start + k ≤ a → t.wordAt a = s.wordAt a)
    let g := s.counters.get p
    ∃ t, exec (.payloadComplete p payload check) s = .next t ∧
      t.counters = s.counters.set p
        (if payloadValid h payload check then { g with good := satInc g.good }
          else { g with malformed := satInc g.malformed }) ∧
      t.rx.get p = none ∧ t.contexts = s.contexts.set p none ∧ t.mailboxes = s.mailboxes ∧
      (payloadValid h payload check = false →
        t.queues = s.queues ∧ t.store = s.store ∧ t.notices = s.notices ∧ t.captureOutcomes = recorded .invalid) ∧
      (payloadValid h payload check = true → q.entries.length < depth →
        t.queues = s.queues.set n { q with entries := q.entries ++ [e] } ∧ t.notices = s.notices ∧
        written t (base + (q.headPos + q.entries.length) % depth * capacity) ∧ t.captureOutcomes = recorded stored) ∧
      (payloadValid h payload check = true → depth ≤ q.entries.length →
        t.notices = s.notices.raise .queueOverrun (.queue n) s.raiseRound ∧
        (q.headInFlight.isSome = true ∨ policy = .dropNewest →
          t.queues = s.queues ∧ t.store = s.store ∧ t.captureOutcomes = recorded .dropped) ∧
        (q.headInFlight = none → policy = .replaceOldest →
          t.queues = s.queues.set n { entries := q.entries.tail ++ [e], headInFlight := none, attempts := 0,
                                      drained := false, headPos := (q.headPos + 1) % depth } ∧
          written t (base + ((q.headPos + 1) % depth + (q.entries.length - 1)) % depth * capacity) ∧
          t.captureOutcomes = recorded stored))

/-- R10, R134, R139, R150, R171: a valid REQUEST cell addressed to the bridge is counted GOOD and taken as the request its
first word and operands spell; one whose code is no request's (0 or above 28) is answered UNKNOWN with its code echoed,
under the same steps of R138. That the cell is counted before its request is executed is the model's choice (log entry
28). -/
def Obligations.RequestCellIsTakenAsItsRequest : Prop :=
  ∀ (p : Port) (w : Word) (operands : List Word) (check : BitVec 16) (s : State) (r : Reception),
    s.resetnLow = false → s.portOff p = false → s.rx.get p = some r → r.header.kind = .request →
    r.header.length = operands.length + 1 → payloadValid r.header (w :: operands) check = true →
    r.deliverable = true → s.delivers p = true → r.header.dest = s.address p →
    let c := s.counters.get p
    let counted : State :=
      { s with rx := s.rx.set p none, counters := s.counters.set p { c with good := satInc c.good } }
    let code := w.extractLsb' 24 8
    let spelt : Request := { port := p, station := r.header.source, seq := w.extractLsb' 16 8,
                             selector := w.extractLsb' 0 16, operands }
    (∀ q : Req, q.code = code →
      exec (.payloadComplete p (w :: operands) check) s = exec (q.command spelt) counted) ∧
    (code = 0 ∨ 28 < code.toNat → ∀ i, counted.Executes spelt i →
      exec (.payloadComplete p (w :: operands) check) s =
        .next ((counted.begun spelt i).replied spelt i code .unknown [] none))

/-! ## The uplink timing -/

/-- R23 to R25, R27 to R29, R9, R21: what a valid beacon on U does. In SEEK one whose source qualifies is adopted when it
announces the expected slot count and its slot does not exceed it. In ALIGN, CONFIRM and LOCKED a counting beacon is
consistent when its slot and round are those of its header-accepted event, it arrived in window and it announces the
expected slot count, and discordant otherwise, and acts by its class and the state. Every other beacon is counted GOOD and
changes no timing. That the adopted slot counts as one in which a header was accepted is the model's (log entry 23). -/
def Obligations.BeaconsAreAdoptedOrClassified : Prop :=
  ∀ (w : Word) (check : BitVec 16) (s : State) (r : Reception), s.resetnLow = false → s.rx.u = some r →
    r.header.kind = .beacon → r.header.length = 1 → payloadValid r.header [w] check = true →
    let g := s.counters.u
    let u := s.uTime
    let listed := s.uInUse.timingStations = [] ∨ r.header.source ∈ s.uInUse.timingStations
    let fits := (w.extractLsb' 0 16).toNat = s.uInUse.slotCount ∧ r.header.slot ≤ s.uInUse.slotCount
    let consistent := r.slotAt = some r.header.slot ∧ r.roundAt = some r.header.round ∧ r.inWindow = true ∧
      (w.extractLsb' 0 16).toNat = s.uInUse.slotCount
    let counted : State := { s with
      rx := { s.rx with u := none }
      counters := { s.counters with u := { g with good := satInc g.good } } }
    (u.state = .seek →
      (listed ∧ fits → exec (.payloadComplete .u [w] check) s =
        .next { counted with
          slotFlags := { s.slotFlags with u := { accepted := true, sent := false } }
          uTime := { u with
            state := .align, round := some r.header.round, slot := some r.header.slot, lastSlot := r.header.slot,
            adoptionRound := true, consistentSeen := false } }) ∧
      (¬(listed ∧ fits) → exec (.payloadComplete .u [w] check) s = .next counted)) ∧
    (u.state = .align ∨ u.state = .confirm ∨ u.state = .locked →
      ∃ t, exec (.payloadComplete .u [w] check) s = .next t ∧ t.rx.u = none ∧
        t.counters.u.good = satInc s.counters.u.good ∧ t.lTime = s.lTime ∧ t.notices = s.notices ∧
        t.responses = s.responses ∧ t.contexts = s.contexts ∧
        (¬listed → t.uTime = u) ∧
        (listed → consistent → u.state = .align → t.uTime = { u with consistentSeen := true }) ∧
        (listed → consistent → u.state = .confirm →
          (r.header.source ∈ u.confirmSet ∨ 4 ≤ u.confirmSet.length → t.uTime = u) ∧
          (r.header.source ∉ u.confirmSet → u.confirmSet.length < 4 →
            t.uTime = { u with confirmSet := u.confirmSet ++ [r.header.source] })) ∧
        (listed → consistent → u.state = .locked → t.uTime = { u with consistentTally := satInc u.consistentTally }) ∧
        (listed → ¬consistent → u.state = .locked →
          t.uTime = { u with discordantTally := satInc u.discordantTally }) ∧
        (listed → ¬consistent → u.state = .align ∨ u.state = .confirm →
          t.uTime.state = .seek ∧ t.uTime.round = none ∧ t.uTime.slot = none ∧ t.uTime.adoptionRound = false ∧
          t.uTime.consistentSeen = false ∧ t.uTime.confirmSet = []))

/-- R27, R28, R26: a U round start, after the last slot, in ALIGN and in CONFIRM with the quorum not met. Nothing changes
but the uplink timing, and the slot marks of U on the return to SEEK, which is the model's (log entry 23). -/
def Obligations.URoundStartBeforeLock : Prop :=
  ∀ s : State, s.resetnLow = false → s.uTime.slot = none → s.uInUse.slotCount ≤ s.uTime.lastSlot →
    ∀ n : Round, s.uTime.round = some n →
    let u := s.uTime
    let sought := fun t : State => t.uTime.state = .seek ∧ t.uTime.round = none ∧ t.uTime.slot = none ∧
      t.slotFlags = s.slotFlags.set .u { accepted := false, sent := false }
    (u.state = .align ∨ u.state = .confirm ∧ u.confirmSet.length < s.uInUse.confirmQuorum) →
    ∃ t, exec .uRoundStart s = .next t ∧ t = { s with uTime := t.uTime, slotFlags := t.slotFlags } ∧
      (u.state = .align → u.consistentSeen = true → t.slotFlags = s.slotFlags ∧
        t.uTime.state = .confirm ∧ t.uTime.round = some (n + 1) ∧ t.uTime.slot = none ∧ t.uTime.confirmSet = []) ∧
      (u.state = .align → u.consistentSeen = false → u.adoptionRound = true → t.slotFlags = s.slotFlags ∧
        t.uTime = { u with adoptionRound := false, round := some (n + 1), slot := none, lastSlot := 0 }) ∧
      (u.state = .align → u.consistentSeen = false → u.adoptionRound = false → sought t) ∧
      (u.state = .confirm → sought t)

/-- R28, R29, R30, R44, R45: a U round start that leaves port U LOCKED, from CONFIRM with the quorum met (LOCK_GAINED is
raised) or in LOCKED without a lapse, judges the round it closes and is delivered to the local timing, which records the
alignment. -/
def Obligations.LockedURoundIsDelivered : Prop :=
  ∀ s : State, s.resetnLow = false → s.uTime.slot = none → s.uInUse.slotCount ≤ s.uTime.lastSlot →
    ∀ n : Round, s.uTime.round = some n →
    let u := s.uTime
    let missed := u.consistentTally = 0 ∨ u.consistentTally < u.discordantTally
    let tying := s.lTime.state = .tying ∨ s.lTime.state = .tied ∨
      s.lTime.state = .untied ∧ s.lInUse.tieEnabled = true ∧
        s.lInUse.tieOffset < s.uInUse.slotCount * s.uInUse.slotLength ∧
        s.lInUse.slotCount * s.lInUse.slotLength ≤ s.uInUse.slotCount * s.uInUse.slotLength
    (u.state = .confirm ∧ s.uInUse.confirmQuorum ≤ u.confirmSet.length ∨
      u.state = .locked ∧ 1 ≤ s.uInUse.lapseLimit ∧ (missed → u.missCount + 1 < s.uInUse.lapseLimit)) →
    ∃ t, exec .uRoundStart s = .next t ∧ t.uTime.state = .locked ∧ t.uTime.round = some (n + 1) ∧
      t.uTime.slot = none ∧ t.uTime.consistentTally = 0 ∧ t.uTime.discordantTally = 0 ∧
      t.responses = s.responses ∧ t.mailboxes = s.mailboxes ∧ t.parties = s.parties ∧
      (u.state = .confirm → t.uTime.missCount = 0 ∧ t.notices = s.notices.raise .lockGained .none s.raiseRound) ∧
      (u.state = .locked → t.notices = s.notices ∧ (missed → t.uTime.missCount = u.missCount + 1) ∧
        (¬missed → t.uTime.missCount = 0)) ∧
      (tying → t.lTime.pending = some { round := n + 1, offset := s.lInUse.tieOffset, held := false } ∧
        t.lTime.state = (if s.lTime.state = .tied then .tied else .tying) ∧ t.lTime.round = s.lTime.round ∧
        t.lTime.running = s.lTime.running ∧ t.lTime.slot = s.lTime.slot) ∧
      (¬tying → t.lTime = s.lTime)

/-- R29, R32, R33, R34, R48, R16, R148: the U round start at which the miss count reaches the lapse limit ends lock;
LOCK_LAPSE and U_ROUND_START both stand for it (log entry 21). A transmission in flight on U ends ABORTED, the capture
context of U is closed and its open write abandoned (what had arrived of it was placed, log entry 5), the U queue is
flushed, port L unties. An RESTART mark in the queue makes it a bridge restart, a mark of U a link start of U as well.
That an idle port L is left without a round, which it then starts on the local timer, is log entry 18, and that both
notices carry the round it last ended is log entry 31. -/
def Obligations.LockLapseLeavesLocked : Prop :=
  ∀ s : State, s.resetnLow = false → s.uTime.state = .locked → s.uTime.slot = none →
    s.uInUse.slotCount ≤ s.uTime.lastSlot → (s.uTime.consistentTally = 0 ∨
      s.uTime.consistentTally < s.uTime.discordantTally) → s.uInUse.lapseLimit ≤ s.uTime.missCount + 1 →
    let marked := fun m : RestartMark => ∃ x, x ∈ s.responses.u ∧ x.mark = some m
    exec .lockLapse s = exec .uRoundStart s ∧
    (marked .bridge → exec .lockLapse s = exec .bridgeRestart s) ∧
    (¬marked .bridge → ∃ e t, exec (.transmissionEnd .u .aborted) s = .next e ∧ exec .lockLapse s = .next t ∧
      t.tx = e.tx ∧ t.emitRecords = e.emitRecords ∧ t.emitOutcomes = e.emitOutcomes ∧ t.queues = e.queues ∧
      t.responses.u = [] ∧ t.responses.l = s.responses.l ∧ t.contexts.u = none ∧ t.contexts.l = s.contexts.l ∧
      t.parties = s.parties ∧ t.counters = s.counters ∧ t.uTime.round = none ∧ t.uTime.slot = none ∧
      (¬marked (.link .u) → t.uTime.state = .seek ∧ t.rx = s.rx ∧ t.uInUse = s.uInUse) ∧
      (marked (.link .u) → t.uTime.state = (if s.uStored.enabled then .seek else .off) ∧ t.rx.u = none ∧
        t.rx.l = s.rx.l ∧ t.uInUse = s.uStored) ∧
      (s.lTime.state = .tied ∨ s.lTime.state = .tying →
        t.lTime = { s.lTime with state := .untied, pending := none }) ∧
      (s.lTime.state = .untied ∨ s.lTime.state = .off → t.lTime = s.lTime) ∧
      (s.lTime.state ≠ .tied → t.notices = s.notices.raise .lockLost .none s.raiseRound) ∧
      (s.lTime.state = .tied →
        t.notices = (s.notices.raise .lockLost .none s.raiseRound).raise .tieLost .none s.raiseRound ∨
        t.notices = (s.notices.raise .tieLost .none s.raiseRound).raise .lockLost .none s.raiseRound) ∧
      s.ContextClosed t .u ∧ s.WriteAbandoned t .u ∧ s.ArrivedPlaced t .u)

/-- R46, R47: the pending alignment falls due. An idle port L begins the round it names, TIED; a held alignment waits
for the end of the last slot and begins the round there; in TYING an earlier slot passes it over. That an alignment
falling due between two slots finds an earlier slot current is the model's (log entry 24, DEDUCED). What else the round
start does stands in LRoundStartAgesAndCounts, ClaimTimeoutFreesTheClaim and CommitSwapExchangesTheBanks. -/
def Obligations.AlignmentDueIsTakenHeldOrPassedOver : Prop :=
  (∀ (s : State) (a : Sys2Proof.Machine.Alignment), s.resetnLow = false → s.lTime.pending = some a → a.held = false →
    (s.lTime.state = .tying ∨ s.lTime.state = .tied) →
    (s.lTime.running = false →
      ∃ t, exec .alignmentDue s = .next t ∧ t.lTime.state = .tied ∧ t.lTime.round = some a.round ∧
        t.lTime.running = true ∧ t.lTime.slot = none ∧ t.lTime.lastSlot = 0 ∧ t.lTime.pending = none ∧
        t.uTime = s.uTime ∧
        (s.lTime.state = .tying → s.ActiveSound → (∀ n : Fin 64, s.mailboxes[n].state ≠ .fresh) → s.claim = none →
          s.checkState ≠ .commitPending →
          t.notices.entries = (s.notices.raise .tieGained .none a.round).entries.map fun e =>
            { e with countdown := satDec e.countdown })) ∧
    (s.lTime.running = true → (s.lTime.state = .tied ∨ s.lTime.slot = some s.lInUse.slotCount) →
      exec .alignmentDue s = .next { s with lTime := { s.lTime with pending := some { a with held := true } } }) ∧
    (s.lTime.running = true → s.lTime.state = .tying → s.lTime.slot ≠ some s.lInUse.slotCount →
      exec .alignmentDue s = .next { s with lTime := { s.lTime with pending := none } })) ∧
  (∀ (s : State) (k : Nat) (a : Sys2Proof.Machine.Alignment), s.resetnLow = false → s.lTime.slot = some k →
    s.lInUse.slotCount ≤ s.lTime.lastSlot → s.tx.l = none → s.rx.l = none → s.lTime.pending = some a → a.held = true →
    (s.lTime.state = .tying ∨ s.lTime.state = .tied) →
    ∃ t, exec (.slotEnd .l) s = .next t ∧
      t.lTime = { state := .tied, round := some a.round, running := true, slot := none, lastSlot := 0,
                  pending := none } ∧
      t.uTime = s.uTime ∧ t.counters = s.counters ∧
      (s.checkState ≠ .commitPending → t.store = s.store))

/-! ## Rounds of port L and the check -/

/-- R42, R46, R47, R49, R110, R136, R166: an L round start, on the local timer or at an alignment, with no commit pending
and no claim that expires: the round begins, the mailboxes of the ACTIVE plan age, the parties' idle rounds rise, the
countdowns run; from TYING, TIE_GAINED is raised. -/
def Obligations.LRoundStartAgesAndCounts : Prop :=
  ∀ (s : State) (c : Instr) (st : LState) (n : Round), s.StartsLRound c st n → s.checkState ≠ .commitPending →
    (∀ (i : Fin 8) (q : Party), s.parties[i] = some q → s.claim = some q.id →
      satInc q.idle < s.settings.claimTimeout) →
    ∃ t, exec c s = .next t ∧
      t.lTime = { state := st, round := some n, running := true, slot := none, lastSlot := 0, pending := none } ∧
      (∀ (k : Fin 64) (d : MailboxDef), s.active.mailboxes[k].fields = some d →
        s.active.mailboxes[k].parityGood = true →
        (s.mailboxes[k].state = .fresh ∨ s.mailboxes[k].state = .stale ∨ s.mailboxes[k].state = .spent) →
        t.mailboxes[k] = { s.mailboxes[k] with
          age := satInc s.mailboxes[k].age
          state := if s.mailboxes[k].state = .fresh ∧ d.staleLimit ≠ 0 ∧ d.staleLimit ≤ satInc s.mailboxes[k].age then
              .stale else s.mailboxes[k].state }) ∧
      (∀ k : Fin 64, (s.active.mailboxes[k].fields = none ∨ s.active.mailboxes[k].parityGood = false ∨
        s.mailboxes[k].state = .empty ∨ s.mailboxes[k].state = .faulted) → t.mailboxes[k] = s.mailboxes[k]) ∧
      (∀ i : Fin 8, t.parties[i] = s.parties[i].map fun q => { q with idle := satInc q.idle }) ∧
      (∀ e, e ∈ s.notices.entries → ∃ e' ∈ t.notices.entries, e'.id = e.id ∧ e'.kind = e.kind ∧
        e'.subject = e.subject ∧ e'.countdown = satDec e.countdown) ∧
      (s.lTime.state = .tying → t.notices.Shows .tieGained .none) ∧
      t.uTime = s.uTime ∧ t.active = s.active ∧ t.staged = s.staged ∧ t.generation = s.generation ∧
      t.checkState = s.checkState ∧ t.claim = s.claim ∧ t.queues = s.queues ∧ t.store = s.store ∧
      t.responses = s.responses ∧ t.contexts = s.contexts ∧ t.emitRecords = s.emitRecords ∧
      t.emitOutcomes = s.emitOutcomes ∧ (c ≠ .slotEnd .l → t.captureOutcomes = s.captureOutcomes) ∧
      t.counters = s.counters

/-- R136, R142, R81, R144: the L round start, on the local timer or at an alignment, at which the holder's idle rounds
reach the claim timeout frees the claim and raises CLAIM_EXPIRED. A check in progress is abandoned: the answer ABANDONED
is queued when there is room and the port runs, cached when the check is still the last request, and no longer
outstanding. CLAIM_TIMEOUT stands for that round start (log entry 21), and changes nothing where it is not due. The notices
are exact where no other raise comes with it: no definition has failed and no mailbox is FRESH. -/
def Obligations.ClaimTimeoutFreesTheClaim : Prop :=
  ∀ (s : State) (c : Instr) (st : LState) (n : Round) (i : Fin 8) (q : Party), s.StartsLRound c st n →
    s.checkState ≠ .commitPending → s.PartiesLawful → s.parties[i] = some q → s.claim = some q.id →
    let run := fun u : NoticeUnit => u.entries.map fun e => { e with countdown := satDec e.countdown }
    (s.settings.claimTimeout ≤ satInc q.idle →
      (c = .lRoundStart → exec .claimTimeout s = exec c s) ∧
      ∃ t, exec c s = .next t ∧ t.claim = none ∧ t.notices.Shows .claimExpired .none ∧
        (s.ActiveSound → (∀ k : Fin 64, s.mailboxes[k].state ≠ .fresh) →
          (s.lTime.state ≠ .tying → t.notices.entries = run (s.notices.raise .claimExpired .none n)) ∧
          (s.lTime.state = .tying →
            t.notices.entries = run ((s.notices.raise .claimExpired .none n).raise .tieGained .none n) ∨
            t.notices.entries = run ((s.notices.raise .tieGained .none n).raise .claimExpired .none n))) ∧
        ((∀ p f rb, s.checkState ≠ .checking p f rb) → t.checkState = s.checkState ∧ t.responses = s.responses ∧
          t.parties[i] = some { q with idle := satInc q.idle }) ∧
        (∀ p f rb m, s.checkState = .checking p f rb → s.CheckLawful → q.outstanding = some m →
          let reply : Reply := { status := .abandoned, seq := m, code := 20, results := [] }
          t.checkState = .unchecked ∧
          t.parties[i] = some { q with
            idle := satInc q.idle, outstanding := none
            cached := if q.lastSeq = some m then some reply else q.cached } ∧
          (s.portRunning q.id.port = true → (s.responses.get q.id.port).length < 8 →
            t.responses = s.responses.set q.id.port
              (s.responses.get q.id.port ++ [{ station := q.id.station, reply, mark := none }])) ∧
          (s.portRunning q.id.port = false ∨ 8 ≤ (s.responses.get q.id.port).length → t.responses = s.responses))) ∧
    (satInc q.idle < s.settings.claimTimeout → (c = .lRoundStart → exec .claimTimeout s = .next s) ∧
      ∃ t, exec c s = .next t ∧ t.claim = s.claim)

/-- R52, R54, R63, R86 to R90, R107, R49, R110, R111, R136, R142, R166: the L round start that performs a pending commit,
on the local timer or at an alignment; COMMIT_SWAP stands for it, and CLAIM_TIMEOUT where the claim expires there (log
entry 21). The banks exchange roles, the generation goes on by one, the outcomes are reset, COMMIT_DONE is raised, the
mailboxes and queues that both plans define alike are kept and the others reset, and contexts and transmissions that span
the swap are marked by whether their place is kept; one CUT stays CUT. The kept mailboxes age once, all under the old
definitions or all under the new; idle rounds rise, the claim is judged, countdowns run, and from TYING, TIE_GAINED is
raised. Of the store only words that a write cut by the swap had placed can change (log entry 5). -/
def Obligations.CommitSwapExchangesTheBanks : Prop :=
  ∀ (s : State) (c : Instr) (st : LState) (n : Round), s.StartsLRound c st n → s.checkState = .commitPending →
    let kept := fun k : Fin 64 => ∃ a b, s.active.mailboxes[k] = ⟨some a, true⟩ ∧ s.staged.mailboxes[k] = ⟨some b, true⟩ ∧
      a.base = b.base ∧ a.capacity = b.capacity
    let keptQueue := fun k : Fin 8 => ∃ a b, s.active.queues[k] = ⟨some a, true⟩ ∧ s.staged.queues[k] = ⟨some b, true⟩ ∧
      a.base = b.base ∧ a.capacity = b.capacity ∧ a.depth = b.depth
    let aged := fun (m : MailboxRt) (d : MailboxDef) => { m with
      age := satInc m.age
      state := if m.state = .fresh ∧ d.staleLimit ≠ 0 ∧ d.staleLimit ≤ satInc m.age then .stale else m.state }
    let live := fun k : Fin 64 => s.mailboxes[k].state = .fresh ∨ s.mailboxes[k].state = .stale ∨
      s.mailboxes[k].state = .spent
    let agedBy := fun (t : State) (b : Bank) => ∀ (k : Fin 64) (d : MailboxDef), kept k → live k →
      b.mailboxes[k].fields = some d → t.mailboxes[k] = aged s.mailboxes[k] d
    (c = .lRoundStart → exec .commitSwap s = exec c s) ∧
    ∃ t, exec c s = .next t ∧ t.active = s.staged ∧ t.staged = s.active ∧ t.generation = s.generation + 1 ∧
      t.checkState = .unchecked ∧ (∀ n : Fin 128, t.captureOutcomes[n] = none ∧ t.emitOutcomes[n] = none) ∧
      t.notices.Shows .commitDone .none ∧
      t.lTime = { state := st, round := some n, running := true, slot := none, lastSlot := 0, pending := none } ∧
      (∀ k, ¬kept k → t.mailboxes[k] = .reset) ∧
      (agedBy t s.active ∨ agedBy t s.staged) ∧
      (∀ k, kept k → s.mailboxes[k].state = .empty ∨ s.mailboxes[k].state = .faulted →
        t.mailboxes[k] = s.mailboxes[k]) ∧
      (∀ k, keptQueue k → t.queues[k] = s.queues[k]) ∧ (∀ k, ¬keptQueue k → t.queues[k] = .reset) ∧
      (∀ p, s.contexts.get p = none → t.contexts.get p = none) ∧
      (∀ p x, s.contexts.get p = some x → ∃ m, t.contexts.get p = some { x with mark := m } ∧
        (x.mark = .cut → m = .cut) ∧
        (∀ k base capacity spoiled, x.mark ≠ .cut → x.target = .mailbox k base capacity spoiled →
          (kept k → m = .carried) ∧ (¬kept k → m = .cut)) ∧
        (∀ k base capacity depth policy, x.mark ≠ .cut → x.target = .queue k base capacity depth policy →
          (keptQueue k → m = .carried) ∧ (¬keptQueue k → m = .cut))) ∧
      (∀ p, s.emitRecords.get p = none → t.emitRecords.get p = none) ∧
      (∀ p x, s.emitRecords.get p = some x → ∃ m, t.emitRecords.get p = some { x with mark := m } ∧
        (x.mark = .cut ∨ x.effect = .none → m = .cut) ∧
        (∀ k tag mode, x.mark ≠ .cut → x.effect = .mailbox k tag mode → (kept k → m = .carried) ∧ (¬kept k → m = .cut)) ∧
        (∀ k depth limit, x.mark ≠ .cut → x.effect = .queue k depth limit →
          (keptQueue k → m = .carried) ∧ (¬keptQueue k → m = .cut))) ∧
      (∀ i : Fin 8, t.parties[i] = s.parties[i].map fun q => { q with idle := satInc q.idle }) ∧
      t.responses = s.responses ∧
      (∀ e, e ∈ s.notices.entries → ∃ e' ∈ t.notices.entries, e'.id = e.id ∧ e'.kind = e.kind ∧
        e'.subject = e.subject ∧ e'.countdown = satDec e.countdown) ∧
      (s.lTime.state = .tying → t.notices.Shows .tieGained .none) ∧
      ((∀ (i : Fin 8) (q : Party), s.parties[i] = some q → s.claim = some q.id →
        satInc q.idle < s.settings.claimTimeout) → t.claim = s.claim) ∧
      (∀ (i : Fin 8) (q : Party), s.PartiesLawful → s.parties[i] = some q → s.claim = some q.id →
        s.settings.claimTimeout ≤ satInc q.idle → t.claim = none ∧ t.notices.Shows .claimExpired .none ∧
          (c = .lRoundStart → exec .claimTimeout s = exec c s)) ∧
      t.tx = s.tx ∧ t.rx = s.rx ∧
      (∀ a, t.wordAt a = s.wordAt a ∨ ∃ p x k base capacity spoiled, s.WritesTo p x k base capacity spoiled ∧ ¬kept k ∧
        spareHalf s.mailboxes[k] base capacity ≤ a ∧ a < spareHalf s.mailboxes[k] base capacity + capacity) ∧
      t.forwarding = s.forwarding ∧ t.counters = s.counters ∧ t.uTime = s.uTime

/-- R110, R165, R166: MAILBOX_BECOMES_STALE and NOTICE_DUE stand for the L round start, on the local timer or at the
pending alignment, at which the age reaches the limit, or the countdown reaches 0 (log entry 21). The mailbox is then
STALE where no pending commit swaps the plans at that round start. -/
def Obligations.StaleAndDueComeAtAnLRoundStart : Prop :=
  ∀ (s : State) (st : LState) (n : Round), s.StartsLRound .lRoundStart st n →
    (∀ (k : Fin 64) (d : MailboxDef), s.active.mailboxes[k] = ⟨some d, true⟩ → s.mailboxes[k].state = .fresh →
      d.staleLimit ≠ 0 →
      (d.staleLimit ≤ satInc s.mailboxes[k].age →
        exec (.mailboxBecomesStale k) s = exec .lRoundStart s ∧
        ∃ t, exec (.mailboxBecomesStale k) s = .next t ∧ (s.checkState ≠ .commitPending →
          t.mailboxes[k] = { s.mailboxes[k] with state := .stale, age := satInc s.mailboxes[k].age } ∧
          (d.notifyStale = true → t.notices.Shows .mailboxStale (.mailbox k)))) ∧
      (satInc s.mailboxes[k].age < d.staleLimit → exec (.mailboxBecomesStale k) s = .next s)) ∧
    (∀ e, e ∈ s.notices.entries → e.countdown = 1 →
      exec (.noticeDue e.id) s = exec .lRoundStart s ∧
      ∃ t, exec (.noticeDue e.id) s = .next t ∧ ∃ e' ∈ t.notices.entries, e'.id = e.id ∧ e'.countdown = 0)

/-- R71, R74, R75, R143, R144, R70: the end of a check: the state becomes PASSED or FAILED with the first fault, and the
deferred answer is queued when there is room and the port runs, cached when it is still the last request, and no longer
outstanding. A fault word carries the code and the record reference; the two bits above the reference are open (log
entry 11). -/
def Obligations.CheckCompleteGivesTheResult : Prop :=
  ∀ (s : State) (p : PartyId) (f : CheckFigures) (rb : List RecordRef) (i : Fin 8) (q : Party) (n : Seq),
    s.resetnLow = false → s.checkState = .checking p f rb → s.PartiesLawful → s.CheckLawful →
    s.parties[i] = some q → q.outstanding = some n →
    ∃ (t : State) (reply : Reply), exec .checkComplete s = .next t ∧ reply.seq = n ∧ reply.code = 20 ∧
      (s.staged.check f rb = none → t.checkState = .passed ∧ reply.status = .ok ∧ reply.results = [0] ∧
        t.notices = s.notices) ∧
      (∀ c ref, s.staged.check f rb = some (c, ref) → t.checkState = .failed c ref ∧ reply.status = .failed ∧
        (∃ w : Word, reply.results = [w] ∧ (w.extractLsb' 24 8).toNat = c.code ∧
          (w.extractLsb' 0 14).toNat = refBits ref) ∧
        t.notices = if c = .parity then s.notices.raise .planParity (.record .staged ref) s.raiseRound
          else s.notices) ∧
      t.parties = s.parties.set i (some { q with
        outstanding := none, cached := if q.lastSeq = some n then some reply else q.cached }) ∧
      (s.portRunning q.id.port = true → (s.responses.get q.id.port).length < 8 →
        t.responses = s.responses.set q.id.port
          (s.responses.get q.id.port ++ [{ station := q.id.station, reply, mark := none }])) ∧
      (s.portRunning q.id.port = false ∨ 8 ≤ (s.responses.get q.id.port).length → t.responses = s.responses) ∧
      t.staged = s.staged ∧ t.active = s.active ∧ t.claim = s.claim ∧ t.counters = s.counters

/-- R75 to R80: a bank passes the check exactly when every record reads well and none of the tests of Table 5-1 fails:
regions within the store and pairwise disjoint, targets and sources defined, slots in range and not reserved, no overlap
of capture entries, of emit entries, or of an emit entry with a capture entry, and no mixed ingress or egress. The fault
of a bank that does not pass is that of the failing test that comes first in the order of Table 5-1, with the record
reference of that test; a record read before it was disturbed reads well (log entry 6). -/
def Obligations.PassingBankMeetsEveryTest : Prop :=
  (∀ (b : Bank) (f : CheckFigures), b.InRange →
    (b.check f [] = none ↔
      (∀ ref, b.parityGood ref = true) ∧
      (∀ (n : Fin 64) (d : MailboxDef), b.mailboxes[n].fields = some d → d.base + 2 * d.capacity ≤ 4096) ∧
      (∀ (n : Fin 8) (d : QueueDef), b.queues[n].fields = some d → d.base + d.depth * d.capacity ≤ 4096) ∧
      (∀ (m n : Fin 64) (d e : MailboxDef), b.mailboxes[m].fields = some d → b.mailboxes[n].fields = some e → m ≠ n →
        d.base + 2 * d.capacity ≤ e.base ∨ e.base + 2 * e.capacity ≤ d.base) ∧
      (∀ (m n : Fin 8) (d e : QueueDef), b.queues[m].fields = some d → b.queues[n].fields = some e → m ≠ n →
        d.base + d.depth * d.capacity ≤ e.base ∨ e.base + e.depth * e.capacity ≤ d.base) ∧
      (∀ (m : Fin 64) (n : Fin 8) (d : MailboxDef) (e : QueueDef), b.mailboxes[m].fields = some d →
        b.queues[n].fields = some e → d.base + 2 * d.capacity ≤ e.base ∨ e.base + e.depth * e.capacity ≤ d.base) ∧
      (∀ (n : Fin 128) (e : CaptureEntry), b.captures[n].fields = some e → b.placeDefined e.target = true ∧
        e.slot ≤ f.slotCount e.port ∧ f.reserved e.port e.slot = false) ∧
      (∀ (n : Fin 128) (e : EmitEntry), b.emits[n].fields = some e → b.placeDefined e.source = true ∧
        e.slot ≤ f.slotCount e.port ∧ f.reserved e.port e.slot = false) ∧
      (∀ (m n : Fin 128) (d e : CaptureEntry), b.captures[m].fields = some d → b.captures[n].fields = some e → m ≠ n →
        d.port = e.port → d.slot = e.slot → d.rounds.overlaps e.rounds = false) ∧
      (∀ (m n : Fin 128) (d e : EmitEntry), b.emits[m].fields = some d → b.emits[n].fields = some e → m ≠ n →
        d.port = e.port → d.slot = e.slot → d.rounds.overlaps e.rounds = false) ∧
      (∀ (m n : Fin 128) (d : CaptureEntry) (e : EmitEntry), b.captures[m].fields = some d →
        b.emits[n].fields = some e → d.port = e.port → d.slot = e.slot → d.rounds.overlaps e.rounds = false) ∧
      (∀ (m n : Fin 128) (d e : CaptureEntry), b.captures[m].fields = some d → b.captures[n].fields = some e →
        d.target = e.target → d.port = e.port) ∧
      (∀ (m n : Fin 128) (d e : EmitEntry) (k : Fin 8), b.emits[m].fields = some d → b.emits[n].fields = some e →
        d.source = .queue k → e.source = .queue k → d.port = e.port))) ∧
  (∀ (b : Bank) (f : CheckFigures) (readBefore : List RecordRef) (x : PlanFault),
    b.check f readBefore = some x ↔ ∃ step record test, b.Fails f readBefore step record test x ∧
      ∀ step' record' test' y, b.Fails f readBefore step' record' test' y →
        ¬testBefore step' record' test' step record test)

/-! ## Link starts and disturbances -/

/-- R22, R32, R33, R103, R147, R148, R17, R12, R16, R48: a link start of U as a RESTART_LINK brings it about (log entry
21): the stored profile is adopted, the timing record starts afresh, the reception is abandoned, its context closed and
its open write abandoned (what had arrived of it was placed, log entry 5), a transmission in flight ends ABORTED, the U
queue is flushed. From LOCKED port L unties and LOCK_LOST is raised; that an idle port L is left without a round, which it
then starts on the local timer, is log entry 18, and that both notices carry the round it last ended is log entry 31. A
RESTART mark in the queue makes it a bridge restart; a mark of U brings a second link start, which changes nothing more.
The counters and the party table stand. -/
def Obligations.LinkStartUAdoptsAndSeeks : Prop :=
  ∀ s : State, s.resetnLow = false →
    let marked := fun m : RestartMark => ∃ x, x ∈ s.responses.u ∧ x.mark = some m
    (marked .bridge → exec .linkStartU s = exec .bridgeRestart s) ∧
    (¬marked .bridge → ∃ e t, exec (.transmissionEnd .u .aborted) s = .next e ∧ exec .linkStartU s = .next t ∧
      t.tx = e.tx ∧ t.emitRecords = e.emitRecords ∧ t.emitOutcomes = e.emitOutcomes ∧ t.queues = e.queues ∧
      t.uInUse = s.uStored ∧ t.uStored = s.uStored ∧
      t.uTime = { state := if s.uStored.enabled then .seek else .off, round := none, slot := none, lastSlot := 0,
                  adoptionRound := false, consistentSeen := false, confirmSet := [], consistentTally := 0,
                  discordantTally := 0, missCount := 0 } ∧
      t.rx.u = none ∧ t.rx.l = s.rx.l ∧ t.contexts.u = none ∧ t.contexts.l = s.contexts.l ∧ t.responses.u = [] ∧
      t.responses.l = s.responses.l ∧ t.counters = s.counters ∧ t.parties = s.parties ∧ t.claim = s.claim ∧
      t.checkState = s.checkState ∧ t.generation = s.generation ∧ t.forwarding = s.forwarding ∧
      t.lInUse = s.lInUse ∧
      (s.uTime.state ≠ .locked → t.lTime = s.lTime ∧ t.notices = s.notices) ∧
      (s.uTime.state = .locked →
        (s.lTime.state = .tied ∨ s.lTime.state = .tying →
          t.lTime = { s.lTime with state := .untied, pending := none }) ∧
        (s.lTime.state = .untied ∨ s.lTime.state = .off → t.lTime = s.lTime) ∧
        (s.lTime.state ≠ .tied → t.notices = s.notices.raise .lockLost .none s.raiseRound) ∧
        (s.lTime.state = .tied →
          t.notices = (s.notices.raise .lockLost .none s.raiseRound).raise .tieLost .none s.raiseRound ∨
          t.notices = (s.notices.raise .tieLost .none s.raiseRound).raise .lockLost .none s.raiseRound)) ∧
      s.ContextClosed t .u ∧ s.WriteAbandoned t .u ∧ s.ArrivedPlaced t .u)

/-- R50, R44, R85, R103, R147, R148, R17, R12, R16, R142, R81: a link start of L as a RESTART_LINK brings it about (log
entry 21): the profile is adopted, the reception abandoned, its context closed and its open write abandoned (log entry 5),
a transmission in flight ends ABORTED, the L queue is flushed; from TIED, TIE_LOST is raised (log entry 19). A disabled
profile puts port L OFF; an enabled one starts round 0, TYING when port U is LOCKED and the tying conditions hold, UNTIED
otherwise. That round start counts idle rounds, may expire the claim, and performs a pending commit. A RESTART mark in the
queue makes it a bridge restart; a mark of L brings a second link start, whose flush finds the queue empty and which
starts round 0 once more. -/
def Obligations.LinkStartLStartsRoundZero : Prop :=
  ∀ s : State, s.resetnLow = false →
    let l := s.lStored
    let u := s.uInUse
    let marked := fun m : RestartMark => s.responses.l.any fun x => x.mark = some m
    let passed := fun k : BitVec 8 => if marked (.link .l) then satInc (satInc k) else satInc k
    let tying := s.uTime.state = .locked ∧ l.tieEnabled = true ∧ l.tieOffset < u.slotCount * u.slotLength ∧
      l.slotCount * l.slotLength ≤ u.slotCount * u.slotLength
    (marked .bridge → exec .linkStartL s = exec .bridgeRestart s) ∧
    (¬marked .bridge → ∃ e t, exec (.transmissionEnd .l .aborted) s = .next e ∧ exec .linkStartL s = .next t ∧
      t.lInUse = l ∧ t.rx.l = none ∧ t.rx.u = s.rx.u ∧ t.tx = e.tx ∧ t.contexts.l = none ∧
      t.counters = s.counters ∧ t.uTime = s.uTime ∧ t.lTime.pending = none ∧ t.lTime.slot = none ∧
      (s.lTime.state = .tied → t.notices.Shows .tieLost .none) ∧
      (l.enabled = false →
        t.lTime.state = .off ∧ t.lTime.round = none ∧ t.lTime.running = false ∧ t.parties = s.parties ∧
        t.responses.l = [] ∧ t.responses.u = s.responses.u ∧ t.claim = s.claim ∧ t.checkState = s.checkState ∧
        t.contexts.u = s.contexts.u ∧ t.emitRecords = e.emitRecords ∧ t.emitOutcomes = e.emitOutcomes ∧
        t.queues = e.queues ∧ s.ContextClosed t .l ∧ s.WriteAbandoned t .l ∧ s.ArrivedPlaced t .l ∧
        (s.lTime.state ≠ .tied → t.notices = s.notices)) ∧
      (l.enabled = true → t.lTime.round = some 0 ∧ t.lTime.running = true ∧
        (tying → t.lTime.state = .tying) ∧ (¬tying → t.lTime.state = .untied) ∧
        ((∀ (i : Fin 8) (q : Party), s.parties[i] = some q → s.claim = some q.id →
            passed q.idle < s.settings.claimTimeout) →
          t.claim = s.claim ∧ t.responses.l = [] ∧ t.responses.u = s.responses.u ∧
          (∀ i : Fin 8, t.parties[i] = s.parties[i].map fun q => { q with idle := passed q.idle }) ∧
          (s.checkState ≠ .commitPending → t.checkState = s.checkState)) ∧
        (∀ (i : Fin 8) (q : Party), s.PartiesLawful → s.parties[i] = some q → s.claim = some q.id →
          s.settings.claimTimeout ≤ passed q.idle → t.claim = none ∧ t.notices.Shows .claimExpired .none ∧
          (∀ p f rb m, s.checkState = .checking p f rb → s.CheckLawful → q.outstanding = some m →
            let abandoned : Response :=
              { station := q.id.station, reply := { status := .abandoned, seq := m, code := 20, results := [] },
                mark := none }
            t.checkState = .unchecked ∧
            (q.id.port = .l → t.responses.l = [abandoned] ∧ t.responses.u = s.responses.u) ∧
            (q.id.port = .u → t.responses.l = [] ∧ t.responses.u =
              if s.uTime.state = .locked ∧ s.responses.u.length < 8 then s.responses.u ++ [abandoned]
              else s.responses.u))) ∧
        (s.checkState ≠ .commitPending → t.active = s.active ∧ t.staged = s.staged ∧ t.generation = s.generation ∧
          t.contexts.u = s.contexts.u ∧ t.emitRecords = e.emitRecords ∧ t.emitOutcomes = e.emitOutcomes ∧
          t.queues = e.queues ∧ s.ContextClosed t .l ∧ s.ArrivedPlaced t .l ∧
          (∀ c n base capacity spoiled, s.WritesTo .l c n base capacity spoiled → t.mailboxes[n].openWrite = none)) ∧
        (s.checkState = .commitPending → t.active = s.staged ∧ t.staged = s.active ∧
          t.generation = s.generation + 1 ∧ t.checkState = .unchecked ∧ t.notices.Shows .commitDone .none ∧
          (∀ n : Fin 128, t.captureOutcomes[n] = none ∧ t.emitOutcomes[n] = none) ∧
          (∀ a, ¬s.ArrivesAt .u a → ¬s.ArrivesAt .l a → t.wordAt a = s.wordAt a))))

/-- R69, R105: a disturbance makes the parity condition of the record, or of the word, failed, and changes no field, no
other record and no other word; nothing is raised until it is read. -/
def Obligations.DisturbanceFailsParityAlone : Prop :=
  (∀ (role : BankRole) (ref : RecordRef) (alreadyRead : Bool) (s : State), s.resetnLow = false →
    ∃ t, exec (.planRecordDisturbed role ref alreadyRead) s = .next t ∧ (t.bank role).parityGood ref = false ∧
      (∀ role' ref', (role', ref') ≠ (role, ref) →
        (t.bank role').parityGood ref' = (s.bank role').parityGood ref') ∧
      (∀ role' (n : Fin 64), (t.bank role').mailboxes[n].fields = (s.bank role').mailboxes[n].fields) ∧
      (∀ role' (n : Fin 8), (t.bank role').queues[n].fields = (s.bank role').queues[n].fields) ∧
      (∀ role' (n : Fin 128), (t.bank role').captures[n].fields = (s.bank role').captures[n].fields ∧
        (t.bank role').emits[n].fields = (s.bank role').emits[n].fields) ∧
      t.notices = s.notices ∧ t.mailboxes = s.mailboxes ∧ t.queues = s.queues) ∧
  (∀ (word : BitVec 12) (placed : Bool) (s : State), s.resetnLow = false →
    ∃ t, exec (.storeWordDisturbed word placed) s = .next t ∧ t.wordAt word.toNat = .failed ∧
      (∀ a, a ≠ word.toNat → t.wordAt a = s.wordAt a) ∧ t.notices = s.notices ∧ t.mailboxes = s.mailboxes ∧
      t.queues = s.queues ∧ t.active = s.active ∧ t.staged = s.staged)

/-! ## Slots and transmissions -/

/-- R2, R13, R14, R43, R62, R121, R170: slot starts that no response slot and no emit entry serves. The L beacon slot
sends a BEACON with the tied flag and the slot count, whatever the forwarding state. On U out of lock, in a data slot
while HALTED and in a data slot that no entry of the ACTIVE plan matches nothing is sent: the slot becomes current, and
nothing else changes. -/
def Obligations.BeaconSlotsSendAndQuietSlotsListen : Prop :=
  (∀ (s : State) (n : Round), s.resetnLow = false → s.lTime.running = true → s.lTime.state ≠ .off →
    s.lTime.slot = none → s.lTime.round = some n → s.lTime.lastSlot + 1 = s.lInUse.beaconSlot →
    s.lInUse.beaconSlot ≤ s.lInUse.slotCount → s.lInUse.slotCount ≤ 1023 →
    ∃ w : Word, w.getLsbD 31 = decide (s.lTime.state = .tied) ∧ bitsAt w 30 16 = 0 ∧
      bitsAt w 15 0 = s.lInUse.slotCount ∧
      exec (.slotStart .l) s = .next { s with
        lTime := { s.lTime with slot := some s.lInUse.beaconSlot, lastSlot := s.lInUse.beaconSlot }
        slotFlags := { s.slotFlags with l := { accepted := false, sent := true } }
        tx := { s.tx with l := some {
          header := { kind := .beacon, stale := false, round := n, slot := s.lInUse.beaconSlot,
                      source := s.lInUse.station, dest := 0, length := 1 }
          payload := [w] } } }) ∧
  (∀ (s : State) (n : Round), s.resetnLow = false → s.uTime.round = some n → s.uTime.slot = none →
    s.uTime.lastSlot < s.uInUse.slotCount →
    let k := s.uTime.lastSlot + 1
    (s.uTime.state = .align ∨ s.uTime.state = .confirm ∨
      s.uTime.state = .locked ∧ k ≠ s.uInUse.responseSlot ∧ (s.forwarding = .halted ∨ s.ActiveSound ∧
        ∀ (i : Fin 128) (e : EmitEntry), s.active.emits[i].fields = some e → e.hits .u k n = false)) →
    exec (.slotStart .u) s = .next { s with
      uTime := { s.uTime with slot := some k, lastSlot := k }
      slotFlags := { s.slotFlags with u := { accepted := false, sent := false } } }) ∧
  (∀ (s : State) (n : Round), s.resetnLow = false → s.lTime.round = some n → s.lTime.slot = none →
    s.lTime.running = true → s.lTime.state ≠ .off → s.lTime.lastSlot < s.lInUse.slotCount →
    let k := s.lTime.lastSlot + 1
    k ≠ s.lInUse.beaconSlot → k ≠ s.lInUse.responseSlot → (s.forwarding = .halted ∨ s.ActiveSound ∧
      ∀ (i : Fin 128) (e : EmitEntry), s.active.emits[i].fields = some e → e.hits .l k n = false) →
    exec (.slotStart .l) s = .next { s with
      lTime := { s.lTime with slot := some k, lastSlot := k }
      slotFlags := { s.slotFlags with l := { accepted := false, sent := false } } })

/-- R123, R146, R167, R166, R139, R151: a response slot sends the response at the head of the queue, which stays there;
with an empty queue and a notice target, the oldest due notice, whose countdown and sent-ever flag are set; otherwise
nothing. Bits 15 and 14 of a subject that names no record are the model's (log entry 33). -/
def Obligations.ResponseSlotServesInOrder : Prop :=
  ∀ (p : Port) (s : State) (n : Round), s.resetnLow = false → s.currentRound p = some n → s.currentSlot p = none →
    s.lastSlot p + 1 = s.responseSlot p → s.responseSlot p ≤ s.slotCount p →
    (p = .u ∧ s.uTime.state = .locked ∨
      p = .l ∧ s.lTime.running = true ∧ s.lTime.state ≠ .off ∧ s.lInUse.beaconSlot ≠ s.lInUse.responseSlot) →
    s.notices.Lawful →
    let k := s.responseSlot p
    let entered := s.enterSlot p k
    let sends := fun (kind : CellKind) (dest : Station) (payload : List Word) (u : NoticeUnit) =>
      { entered with
        tx := s.tx.set p (some {
          header := { kind, stale := false, round := n, slot := k, source := s.address p, dest,
                      length := payload.length }
          payload })
        slotFlags := s.slotFlags.set p { accepted := false, sent := true }
        notices := u }
    (∀ x rest, s.responses.get p = x :: rest → ∃ w : Word,
      (w.extractLsb' 24 8).toNat = x.reply.status.code ∧ w.extractLsb' 16 8 = x.reply.seq ∧
      w.extractLsb' 8 8 = x.reply.code ∧ w.extractLsb' 0 8 = 0 ∧
      exec (.slotStart p) s = .next (sends .response x.station (w :: x.reply.results) s.notices)) ∧
    (∀ a e b, s.responses.get p = [] → s.noticeTarget p ≠ 0 → s.notices.entries = a ++ e :: b →
      (∀ x, x ∈ a → x.countdown ≠ 0) → e.countdown = 0 → ∃ v w : Word,
      v.extractLsb' 24 8 = e.id ∧ (v.extractLsb' 16 8).toNat = e.kind.code ∧ v.extractLsb' 8 8 = e.count ∧
      v.extractLsb' 0 8 = 0 ∧ (w.extractLsb' 24 8).toNat = e.firstRound.toNat ∧
      (w.extractLsb' 16 8).toNat = e.lastRound.toNat ∧ (w.extractLsb' 0 16).toNat = e.subject.bits ∧
      exec (.slotStart p) s = .next (sends .notice (s.noticeTarget p) [v, w] { s.notices with
        entries := a ++ { e with countdown := s.settings.repeatInterval, sentEver := true } :: b })) ∧
    (s.responses.get p = [] → (s.noticeTarget p = 0 ∨ ∀ x, x ∈ s.notices.entries → x.countdown ≠ 0) →
      exec (.slotStart p) s = .next entered)

/-- R62, R112, R124, R125, R127 to R130: a data slot whose entry has an available mailbox as source, by the lines of
Table 8-2. `start` is the first word of the current half. -/
def Obligations.EmitMailboxFollowsTable : Prop :=
  ∀ (p : Port) (s : State) (r : Round) (n : Fin 128) (e : EmitEntry) (k : Fin 64) (d : MailboxDef),
    s.resetnLow = false → s.currentRound p = some r → s.currentSlot p = none → s.lastSlot p < s.slotCount p →
    let slot := s.lastSlot p + 1
    (p = .u ∧ s.uTime.state = .locked ∨ p = .l ∧ s.lTime.running = true ∧ s.lTime.state ≠ .off ∧
      slot ≠ s.lInUse.beaconSlot) →
    slot ≠ s.responseSlot p → s.forwarding = .forwarding → s.ActiveSound → s.active.OneMatch →
    s.active.emits[n].fields = some e → e.hits p slot r = true → e.source = .mailbox k →
    s.active.mailboxes[k].fields = some d →
    let m := s.mailboxes[k]
    let entered := s.enterSlot p slot
    let start := match m.half with
      | .a => d.base
      | .b => d.base + d.capacity
    let header := fun (kind : CellKind) (stale : Bool) (source : Station) (length : Nat) =>
      ({ kind, stale, round := r, slot, source, dest := 0, length } : Header)
    let sends := fun (t : State) (c : Cell) (x : EmitRecord) =>
      { t with
        tx := s.tx.set p (some c)
        slotFlags := s.slotFlags.set p { accepted := false, sent := true }
        emitRecords := s.emitRecords.set p (some x) }
    let onEmpty := fun (t : State) (sentAs quietAs : EmitOutcome) => match e.onEmpty with
      | .void => sends t ⟨header .void false (s.address p) 0, []⟩ ⟨n, r, true, .none, sentAs, .none⟩
      | .silent => { t with emitOutcomes := s.emitOutcomes.set n (some (quietAs, r)) }
    let origin := match e.origin with
      | .preserve => m.source.getD 0
      | .self => s.address p
    let asked := m.state = .fresh ∨ m.state = .stale ∧ e.onStale = .sendMarked
    (∀ ws : List Word, asked → ws.length = m.length →
      (∀ i, i < m.length → s.wordAt (start + i) = .good (ws.getD i 0)) →
      exec (.slotStart p) s = .next (sends entered ⟨header .data (decide (m.state = .stale)) origin m.length, ws⟩
        ⟨n, r, false, .mailbox k m.tag d.readMode, if m.state = .stale then .sentStale else .sent, .none⟩)) ∧
    (asked → (∃ i, i < m.length ∧ s.wordAt (start + i) = .failed) →
      exec (.slotStart p) s = .next (onEmpty { entered with
        mailboxes := s.mailboxes.set k { m with state := .faulted }
        notices := s.notices.raise .storeParity (.mailbox k) s.raiseRound } .fault .fault)) ∧
    (m.state = .stale → e.onStale = .void →
      exec (.slotStart p) s =
        .next (sends entered ⟨header .void false (s.address p) 0, []⟩ ⟨n, r, true, .none, .voidSent, .none⟩)) ∧
    (m.state = .stale → e.onStale = .silent →
      exec (.slotStart p) s = .next { entered with emitOutcomes := s.emitOutcomes.set n (some (.silent, r)) }) ∧
    (m.state = .empty ∨ m.state = .spent → exec (.slotStart p) s = .next (onEmpty entered .voidSent .silent)) ∧
    (m.state = .faulted → exec (.slotStart p) s = .next (onEmpty entered .fault .fault))

/-- R62, R117, R124, R126 to R130: a data slot whose entry has a queue, or an undefined place, as source. `start` is the
first word of the head entry; where an entry stands in the ring is the model's choice (log entry 7). -/
def Obligations.EmitQueueFollowsTable : Prop :=
  ∀ (p : Port) (s : State) (r : Round) (n : Fin 128) (e : EmitEntry),
    s.resetnLow = false → s.currentRound p = some r → s.currentSlot p = none → s.lastSlot p < s.slotCount p →
    let slot := s.lastSlot p + 1
    (p = .u ∧ s.uTime.state = .locked ∨ p = .l ∧ s.lTime.running = true ∧ s.lTime.state ≠ .off ∧
      slot ≠ s.lInUse.beaconSlot) →
    slot ≠ s.responseSlot p → s.forwarding = .forwarding → s.ActiveSound → s.active.OneMatch →
    s.active.emits[n].fields = some e → e.hits p slot r = true →
    let entered := s.enterSlot p slot
    let header := fun (kind : CellKind) (source : Station) (length : Nat) =>
      ({ kind, stale := false, round := r, slot, source, dest := 0, length } : Header)
    let sends := fun (t : State) (c : Cell) (x : EmitRecord) =>
      { t with
        tx := s.tx.set p (some c)
        slotFlags := s.slotFlags.set p { accepted := false, sent := true }
        emitRecords := s.emitRecords.set p (some x) }
    let onEmpty := fun (t : State) (sentAs quietAs : EmitOutcome) => match e.onEmpty with
      | .void => sends t ⟨header .void (s.address p) 0, []⟩ ⟨n, r, true, .none, sentAs, .none⟩
      | .silent => { t with emitOutcomes := s.emitOutcomes.set n (some (quietAs, r)) }
    (s.active.placeDefined e.source = false → exec (.slotStart p) s = .next (onEmpty entered .fault .fault)) ∧
    (∀ (k : Fin 8) (d : QueueDef), e.source = .queue k → s.active.queues[k].fields = some d →
      let q := s.queues[k]
      let start := d.base + q.headPos % d.depth * d.capacity
      (q.entries = [] ∨ q.headInFlight.isSome = true →
        exec (.slotStart p) s = .next (onEmpty entered .voidSent .silent)) ∧
      (∀ x rest, q.entries = x :: rest → q.headInFlight = none →
        (∀ ws : List Word, ws.length = x.length →
          (∀ i, i < x.length → s.wordAt (start + i) = .good (ws.getD i 0)) →
          exec (.slotStart p) s = .next (sends
            { entered with queues := s.queues.set k { q with headInFlight := some p } }
            ⟨header .data (match e.origin with | .preserve => x.source | .self => s.address p) x.length, ws⟩
            ⟨n, r, false, .queue k d.depth d.retryLimit, .sent, .none⟩)) ∧
        ((∃ i, i < x.length ∧ s.wordAt (start + i) = .failed) →
          exec (.slotStart p) s = .next (onEmpty { entered with
            queues := s.queues.set k { entries := rest, headInFlight := none, attempts := 0, drained := false,
                                       headPos := (q.headPos + 1) % d.depth }
            notices := s.notices.raise .storeParity (.queue k) s.raiseRound } .fault .fault))))

/-- R2, R11, R31, R42, R101: at a slot end with nothing received or sent, the capture entry that matches records EMPTY,
on U only while LOCKED; a slot in which a header was accepted or a cell sent records nothing. The end of the last slot of
an L round, with no alignment held, leaves port L with no round running; in UNTIED the next round start follows at once
(R42), which the model takes at the L_ROUND_START that follows (log entry 18). -/
def Obligations.SlotEndRecordsEmpty : Prop :=
  ∀ (p : Port) (s : State) (k : Nat) (r : Round), s.resetnLow = false → s.currentSlot p = some k →
    s.currentRound p = some r → s.tx.get p = none → s.rx.get p = none → s.ActiveSound → s.active.OneMatch →
    (∀ a, p = .l → s.lTime.pending = some a → a.held = false) →
    let ended := fun t : State => match p with
      | .u => { t with uTime := { s.uTime with slot := none }, slotFlags := s.slotFlags.set .u .clear }
      | .l => { t with
          lTime := { s.lTime with slot := none, running := s.lTime.running && s.lTime.lastSlot < s.lInUse.slotCount }
          slotFlags := s.slotFlags.set .l .clear }
    (((s.slotFlags.get p).accepted = true ∨ (s.slotFlags.get p).sent = true ∨ p = .u ∧ s.uTime.state ≠ .locked) →
      exec (.slotEnd p) s = .next (ended s)) ∧
    (s.slotFlags.get p = .clear → (p = .u → s.uTime.state = .locked) →
      ((∀ (i : Fin 128) (e : CaptureEntry), s.active.captures[i].fields = some e → e.hits p k r = false) →
        exec (.slotEnd p) s = .next (ended s)) ∧
      (∀ (i : Fin 128) (e : CaptureEntry), s.active.captures[i].fields = some e → e.hits p k r = true →
        exec (.slotEnd p) s =
          .next (ended { s with captureOutcomes := s.captureOutcomes.set i (some (.empty, r)) })))

/-- R15, R90, R113, R118, R124, R131: the end of a DATA or VOID transmission: the outcome recorded, the effect on the
source, the notices and the DISTURBED counter; with a CARRIED mark the source effect alone, with a CUT mark none. Where
the head of a queue stands in its ring after a removal is the model's choice (log entry 7). -/
def Obligations.EmitTransmissionEndFollowsTable : Prop :=
  ∀ (p : Port) (e : TxEnd) (s : State) (c : Cell) (x : EmitRecord), s.resetnLow = false → s.tx.get p = some c →
    (c.header.kind = .data ∨ c.header.kind = .void) → s.emitRecords.get p = some x →
    let counter := s.counters.get p
    let discards := ∃ (k : Fin 8) (depth limit : Nat), x.effect = .queue k depth limit ∧ x.mark ≠ .cut ∧
      e = .disturbed ∧ s.queues[k].headInFlight = some p ∧
      (s.queues[k].drained = true ∨ limit < s.queues[k].attempts + 1)
    ∃ t, exec (.transmissionEnd p e) s = .next t ∧ t.tx = s.tx.set p none ∧
      t.emitRecords = s.emitRecords.set p none ∧
      t.counters = s.counters.set p
        (if e = .disturbed then { counter with disturbed := satInc counter.disturbed } else counter) ∧
      t.responses = s.responses ∧ t.store = s.store ∧ t.captureOutcomes = s.captureOutcomes ∧ t.uTime = s.uTime ∧
      t.lTime = s.lTime ∧ t.parties = s.parties ∧
      (x.mark = .none → t.emitOutcomes = s.emitOutcomes.set x.entry (some (match e with
        | .clean => x.intended
        | .disturbed => .disturbed
        | .aborted => .aborted, x.round))) ∧
      (x.mark ≠ .none → t.emitOutcomes = s.emitOutcomes) ∧
      (∀ (k : Fin 64) (tag : BitVec 8) (mode : ReadMode), x.effect = .mailbox k tag mode →
        t.queues = s.queues ∧
        (e = .clean → mode = .take → x.mark ≠ .cut → s.mailboxes[k].tag = tag →
          s.mailboxes[k].state = .fresh ∨ s.mailboxes[k].state = .stale →
          t.mailboxes = s.mailboxes.set k { s.mailboxes[k] with state := .spent }) ∧
        (e ≠ .clean ∨ mode = .keep ∨ x.mark = .cut ∨ s.mailboxes[k].tag ≠ tag ∨
          (s.mailboxes[k].state ≠ .fresh ∧ s.mailboxes[k].state ≠ .stale) → t.mailboxes = s.mailboxes)) ∧
      (∀ (k : Fin 8) (depth limit : Nat), x.effect = .queue k depth limit →
        t.mailboxes = s.mailboxes ∧
        (x.mark = .cut ∨ s.queues[k].headInFlight ≠ some p → t.queues = s.queues) ∧
        (x.mark ≠ .cut → s.queues[k].headInFlight = some p →
          ((e = .clean ∨ s.queues[k].drained = true ∨ e = .disturbed ∧ limit < s.queues[k].attempts + 1) →
            t.queues = s.queues.set k { entries := s.queues[k].entries.tail, headInFlight := none, attempts := 0,
                                        drained := false, headPos := (s.queues[k].headPos + 1) % depth }) ∧
          (s.queues[k].drained = false →
            (e = .aborted → t.queues = s.queues.set k { s.queues[k] with headInFlight := none }) ∧
            (e = .disturbed → s.queues[k].attempts + 1 ≤ limit →
              t.queues = s.queues.set k
                { s.queues[k] with headInFlight := none, attempts := s.queues[k].attempts + 1 })))) ∧
      (x.effect = .none → t.mailboxes = s.mailboxes ∧ t.queues = s.queues) ∧
      (x.mark = .none → e = .disturbed → ¬discards →
        t.notices = s.notices.raise .collision (.emit x.entry) s.raiseRound) ∧
      (e ≠ .disturbed ∨ x.mark ≠ .none → ¬discards → t.notices = s.notices) ∧
      (∀ (k : Fin 8) (depth limit : Nat), x.effect = .queue k depth limit → discards →
        (x.mark = .carried → t.notices = s.notices.raise .queueDiscard (.queue k) s.raiseRound) ∧
        (x.mark = .none →
          t.notices = (s.notices.raise .collision (.emit x.entry) s.raiseRound).raise .queueDiscard (.queue k)
            s.raiseRound ∨
          t.notices = (s.notices.raise .queueDiscard (.queue k) s.raiseRound).raise .collision (.emit x.entry)
            s.raiseRound))

/-- R15, R146, R148, R167: a BEACON or NOTICE end frees the buffer and counts a DISTURBED end; a RESPONSE end, CLEAN or
DISTURBED, also takes the response from its queue, and its restart mark then acts: a bridge restart, or a link start of
the port. -/
def Obligations.ResponseLeavesAtTransmissionEnd : Prop :=
  ∀ (p : Port) (e : TxEnd) (s : State) (c : Cell), s.resetnLow = false → s.tx.get p = some c →
    let counter := s.counters.get p
    let freed : State := { s with
      tx := s.tx.set p none
      counters := s.counters.set p
        (if e = .disturbed then { counter with disturbed := satInc counter.disturbed } else counter) }
    (c.header.kind = .beacon ∨ c.header.kind = .notice → exec (.transmissionEnd p e) s = .next freed) ∧
    (∀ x rest, c.header.kind = .response → s.responses.get p = x :: rest → e ≠ .aborted →
      let left : State := { freed with responses := s.responses.set p rest }
      (x.mark = none → exec (.transmissionEnd p e) s = .next left) ∧
      (x.mark = some .bridge → exec (.transmissionEnd p e) s = exec .bridgeRestart left) ∧
      (x.mark = some (.link .u) → exec (.transmissionEnd p e) s = exec .linkStartU left) ∧
      (x.mark = some (.link .l) → exec (.transmissionEnd p e) s = exec .linkStartL left))

/-! ## Requests

`s.Executes r i` says that the request `r` is taken and reaches step 5 of R138 for the party at position `i`; `s.begun r i`
is the state in which it is executed, and `replied` adds the answer to the party's cache and to the port's queue. -/

/-- R152, R154, R157, R158, R159, R17, R173: PING, READ_PROFILE, READ_SETTINGS, READ_COUNTERS and READ_NOTICES: the result
words, RANGE for a selector that names no port, and nothing else changed. The words of a profile are those of
RecordAndProfileWordsFollowTheirTables. READ_NOTICES gives the count, the overflow flag and the four oldest entries with
their countdowns and sent-ever flags; that the flag bits of entries not returned are 0, and bits 15 and 14 of a subject
that names no record, is the model's choice (log entries 29 and 33). -/
def Obligations.PingAndPlainReadsReport : Prop :=
  ∀ (r : Request) (s : State) (i : Fin 8), s.Executes r i →
    let b := s.begun r i
    (r.operands.length ≤ 11 → exec (.ping r) s = .next (b.replied r i 1 .ok r.operands none)) ∧
    (r.operands = [] →
      (∃ w : Word, bitsAt w 31 24 = s.settings.claimTimeout.toNat ∧ bitsAt w 23 16 = s.settings.repeatInterval.toNat ∧
        bitsAt w 15 0 = 0 ∧ exec (.readSettings r) s = .next (b.replied r i 6 .ok [w] none)) ∧
      (selectsPort r.selector .u → ∃ w : Word, bitsAt w 31 1 = 0 ∧
        w.getLsbD 0 = decide ({ s.uStored with noticeTarget := 0 } ≠ { s.uInUse with noticeTarget := 0 }) ∧
        exec (.readProfile r) s = .next (b.replied r i 5 .ok (s.uStored.words ++ s.uInUse.words ++ [w]) none)) ∧
      (selectsPort r.selector .l → ∃ w : Word, bitsAt w 31 1 = 0 ∧
        w.getLsbD 0 = decide ({ s.lStored with noticeTarget := 0 } ≠ { s.lInUse with noticeTarget := 0 }) ∧
        exec (.readProfile r) s = .next (b.replied r i 5 .ok (s.lStored.words ++ s.lInUse.words ++ [w]) none)) ∧
      (∀ p, selectsPort r.selector p → ∃ w0 w1 w2 : Word,
        bitsAt w0 31 16 = (s.counters.get p).good.toNat ∧ bitsAt w0 15 0 = (s.counters.get p).malformed.toNat ∧
        bitsAt w1 31 16 = (s.counters.get p).misplaced.toNat ∧ bitsAt w1 15 0 = (s.counters.get p).late.toNat ∧
        bitsAt w2 31 16 = (s.counters.get p).disturbed.toNat ∧
        bitsAt w2 15 0 = (s.counters.get p).droppedRequests.toNat ∧
        exec (.readCounters r) s = .next (b.replied r i 7 .ok [w0, w1, w2] none)) ∧
      (s.notices.Lawful → ∃ (v : Word) (ws : List Word),
        let u := s.notices
        bitsAt v 31 24 = u.entries.length ∧ v.getLsbD 23 = u.overflow ∧ bitsAt v 22 4 = 0 ∧
        ws.length = 2 * min 4 u.entries.length ∧
        (∀ k, 4 ≤ k ∨ u.entries.length ≤ k → k < 4 → v.getLsbD k = false) ∧
        (∀ k e, k < 4 → u.entries[k]? = some e → v.getLsbD k = e.sentEver ∧ ∃ x y : Word,
          ws[2 * k]? = some x ∧ ws[2 * k + 1]? = some y ∧ bitsAt x 31 24 = e.id.toNat ∧ bitsAt x 23 16 = e.kind.code ∧
          bitsAt x 15 8 = e.count.toNat ∧ bitsAt x 7 0 = e.countdown.toNat ∧ bitsAt y 31 24 = e.firstRound.toNat ∧
          bitsAt y 23 16 = e.lastRound.toNat ∧ bitsAt y 15 0 = e.subject.bits) ∧
        exec (.readNotices r) s = .next (b.replied r i 11 .ok (v :: ws) none)) ∧
      ((∀ p, ¬selectsPort r.selector p) →
        exec (.readProfile r) s = .next (b.replied r i 5 .range [] none) ∧
        exec (.readCounters r) s = .next (b.replied r i 7 .range [] none)))

/-- R153, R121, R54, R71, R164, R19, R38, R173: READ_STATUS answers OK with the five words of Table 12-8, and changes
nothing else. -/
def Obligations.ReadStatusReportsTheState : Prop :=
  ∀ (r : Request) (s : State) (i : Fin 8), s.Executes r i → r.operands = [] → s.notices.Lawful →
    ∃ w0 w1 w2 w3 w4 : Word, exec (.readStatus r) s = .next ((s.begun r i).replied r i 4 .ok [w0, w1, w2, w3, w4] none) ∧
      bitsAt w0 31 16 = 2412 ∧ bitsAt w0 15 8 = 1 ∧ bitsAt w0 7 0 = s.strap.toNat ∧
      bitsAt w1 31 24 = (match s.uTime.state with
        | .off => 0
        | .seek => 1
        | .align => 2
        | .confirm => 3
        | .locked => 4) ∧
      (s.uTime.state = .off ∨ s.uTime.state = .seek → bitsAt w1 23 16 = 255) ∧
      (∀ n : Round, s.uTime.state = .align ∨ s.uTime.state = .confirm ∨ s.uTime.state = .locked →
        s.uTime.round = some n → bitsAt w1 23 16 = n.toNat) ∧
      bitsAt w1 15 8 = (match s.lTime.state with
        | .off => 0
        | .untied => 1
        | .tying => 2
        | .tied => 3) ∧
      (s.lTime.state = .off → bitsAt w1 7 0 = 255) ∧
      (∀ n : Round, s.lTime.state ≠ .off → s.lTime.round = some n → bitsAt w1 7 0 = n.toNat) ∧
      bitsAt w2 31 16 = s.generation.toNat ∧
      bitsAt w2 15 8 = (match s.checkState with
        | .unchecked => 0
        | .checking _ _ _ => 1
        | .passed => 2
        | .failed _ _ => 3
        | .commitPending => 4) ∧
      w2.getLsbD 3 = decide ({ s.lStored with noticeTarget := 0 } ≠ { s.lInUse with noticeTarget := 0 }) ∧
      w2.getLsbD 2 = decide ({ s.uStored with noticeTarget := 0 } ≠ { s.uInUse with noticeTarget := 0 }) ∧
      w2.getLsbD 0 = decide (s.forwarding = .forwarding) ∧ bitsAt w2 7 4 = 0 ∧ bitsAt w2 1 1 = 0 ∧
      (∀ c ref, s.checkState = .failed c ref → bitsAt w3 31 24 = c.code ∧ bitsAt w3 13 0 = refBits ref) ∧
      ((∀ c ref, s.checkState ≠ .failed c ref) → w3 = 0) ∧
      (s.claim = none → bitsAt w4 31 16 = 0) ∧
      (∀ id, s.claim = some id → bitsAt w4 31 30 = portCode id.port ∧ bitsAt w4 23 16 = id.station.toNat) ∧
      bitsAt w4 15 8 = s.notices.entries.length ∧ w4.getLsbD 0 = s.notices.overflow

/-- R155, R63, R70: READ_RECORD of either bank: FAILED with PLAN_PARITY for a failed record, UNDEFINED for an undefined
one, otherwise the generation, the outcome of an ACTIVE entry and the words of the record. -/
def Obligations.ReadRecordReportsTheRecord : Prop :=
  ∀ (r : Request) (s : State) (i : Fin 8), s.Executes r i → r.operands = [] →
    let b := s.begun r i
    (∀ role ref, selectsBank r.selector role → selectsRecord r.selector ref →
      ((s.bank role).parityGood ref = false →
        exec (.readRecord r) s = .next ({ b with
          notices := s.notices.raise .planParity (.record role ref) s.raiseRound }.replied r i 8 .failed [] none)) ∧
      ((s.bank role).parityGood ref = true →
        (∀ n : Fin 64, ref = .mailbox n → (s.bank role).mailboxes[n].fields = none →
          exec (.readRecord r) s = .next (b.replied r i 8 .undefined [] none)) ∧
        (∀ n : Fin 8, ref = .queue n → (s.bank role).queues[n].fields = none →
          exec (.readRecord r) s = .next (b.replied r i 8 .undefined [] none)) ∧
        (∀ n : Fin 128, ref = .capture n → (s.bank role).captures[n].fields = none →
          exec (.readRecord r) s = .next (b.replied r i 8 .undefined [] none)) ∧
        (∀ n : Fin 128, ref = .emit n → (s.bank role).emits[n].fields = none →
          exec (.readRecord r) s = .next (b.replied r i 8 .undefined [] none)) ∧
        (∀ (n : Fin 64) (d : MailboxDef), ref = .mailbox n → (s.bank role).mailboxes[n].fields = some d → ∃ w : Word,
          bitsAt w 31 16 = s.generation.toNat ∧ bitsAt w 15 0 = 0 ∧
          exec (.readRecord r) s = .next (b.replied r i 8 .ok (w :: d.words) none)) ∧
        (∀ (n : Fin 8) (d : QueueDef), ref = .queue n → (s.bank role).queues[n].fields = some d → ∃ w : Word,
          bitsAt w 31 16 = s.generation.toNat ∧ bitsAt w 15 0 = 0 ∧
          exec (.readRecord r) s = .next (b.replied r i 8 .ok (w :: d.words) none)) ∧
        (∀ (n : Fin 128) (e : CaptureEntry), ref = .capture n → (s.bank role).captures[n].fields = some e →
          ∃ w : Word, bitsAt w 31 16 = s.generation.toNat ∧ (role = .staged → bitsAt w 15 0 = 0) ∧
          (role = .active → s.captureOutcomes[n] = none → bitsAt w 15 8 = 0 ∧ bitsAt w 7 0 = 255) ∧
          (∀ o m, role = .active → s.captureOutcomes[n] = some (o, m) →
            bitsAt w 15 8 = o.code ∧ bitsAt w 7 0 = m.toNat) ∧
          exec (.readRecord r) s = .next (b.replied r i 8 .ok (w :: e.words) none)) ∧
        (∀ (n : Fin 128) (e : EmitEntry), ref = .emit n → (s.bank role).emits[n].fields = some e →
          ∃ w : Word, bitsAt w 31 16 = s.generation.toNat ∧ (role = .staged → bitsAt w 15 0 = 0) ∧
          (role = .active → s.emitOutcomes[n] = none → bitsAt w 15 8 = 0 ∧ bitsAt w 7 0 = 255) ∧
          (∀ o m, role = .active → s.emitOutcomes[n] = some (o, m) →
            bitsAt w 15 8 = o.code ∧ bitsAt w 7 0 = m.toNat) ∧
          exec (.readRecord r) s = .next (b.replied r i 8 .ok (w :: e.words) none)))) ∧
    ((∀ role, ¬selectsBank r.selector role) ∨ (∀ ref, ¬selectsRecord r.selector ref) →
      exec (.readRecord r) s = .next (b.replied r i 8 .range [] none))

/-- R156, R114, R105, R106: READ_MAILBOX: RANGE, UNDEFINED or FAILED, otherwise the runtime record and up to 9 payload
words from the offset on; a failed payload word makes the mailbox FAULTED and raises STORE_PARITY. -/
def Obligations.ReadMailboxReportsTheMailbox : Prop :=
  ∀ (r : Request) (s : State) (i : Fin 8) (offset : Word), s.Executes r i → r.operands = [offset] →
    let b := s.begun r i
    ((∀ n : Fin 64, ¬selectsNumber r.selector n) ∨ 11 < offset.toNat →
      exec (.readMailbox r) s = .next (b.replied r i 9 .range [] none)) ∧
    (∀ n : Fin 64, selectsNumber r.selector n → offset.toNat ≤ 11 →
      let m := s.mailboxes[n]
      let x := s.active.mailboxes[n]
      (x.parityGood = true → x.fields = none →
        exec (.readMailbox r) s = .next (b.replied r i 9 .undefined [] none)) ∧
      (x.parityGood = false →
        exec (.readMailbox r) s = .next ({ b with
          notices := s.notices.raise .planParity (.record .active (.mailbox n)) s.raiseRound }.replied r i 9 .undefined
            [] none)) ∧
      (∀ d : MailboxDef, x.parityGood = true → x.fields = some d →
        let start := match m.half with
          | .a => d.base
          | .b => d.base + d.capacity
        (m.state = .faulted → exec (.readMailbox r) s = .next (b.replied r i 9 .failed [] none)) ∧
        (m.state ≠ .faulted → (∃ j, j < m.length ∧ s.wordAt (start + j) = .failed) →
          exec (.readMailbox r) s = .next ({ b with
            mailboxes := s.mailboxes.set n { m with state := .faulted }
            notices := s.notices.raise .storeParity (.mailbox n) s.raiseRound }.replied r i 9 .failed [] none)) ∧
        (∀ ws : List Word, m.state ≠ .faulted → ws.length = m.length → m.length ≤ 12 →
          (∀ j, j < m.length → s.wordAt (start + j) = .good (ws.getD j 0)) → ∃ v w : Word,
          bitsAt v 31 24 = m.state.code ∧ bitsAt v 23 23 = m.half.code ∧
          (m.openWrite = none → bitsAt v 22 21 = 0) ∧
          (∀ p, m.openWrite = some p → bitsAt v 22 21 = portCode p) ∧ v.getLsbD 20 = m.truncated ∧
          bitsAt v 19 16 = m.length ∧ (m.source = none → bitsAt v 15 8 = 0) ∧
          (∀ a, m.source = some a → bitsAt v 15 8 = a.toNat) ∧ (m.round = none → bitsAt v 7 0 = 255) ∧
          (∀ k, m.round = some k → bitsAt v 7 0 = k.toNat) ∧
          bitsAt w 31 24 = m.age.toNat ∧ bitsAt w 23 16 = m.tag.toNat ∧ bitsAt w 15 0 = 0 ∧
          exec (.readMailbox r) s =
            .next (b.replied r i 9 .ok (v :: w :: (ws.drop offset.toNat).take 9) none))))

/-- R120, R70, R173: READ_QUEUE answers RANGE, UNDEFINED, or the number of entries, the head state and the oldest entry.
It reads no word of the store, a cell held for append is not among the entries, and nothing else changes. -/
def Obligations.ReadQueueReportsTheQueue : Prop :=
  ∀ (r : Request) (s : State) (i : Fin 8), s.Executes r i → r.operands = [] →
    let b := s.begun r i
    ((∀ n : Fin 8, ¬selectsNumber r.selector n) → exec (.readQueue r) s = .next (b.replied r i 10 .range [] none)) ∧
    (∀ n : Fin 8, selectsNumber r.selector n →
      let q := s.queues[n]
      let x := s.active.queues[n]
      (x.parityGood = true → x.fields = none →
        exec (.readQueue r) s = .next (b.replied r i 10 .undefined [] none)) ∧
      (x.parityGood = false →
        exec (.readQueue r) s = .next ({ b with
          notices := s.notices.raise .planParity (.record .active (.queue n)) s.raiseRound }.replied r i 10 .undefined
            [] none)) ∧
      (∀ d : QueueDef, x.parityGood = true → x.fields = some d → q.entries.length ≤ 32 → q.attempts ≤ 7 →
        (∀ e, e ∈ q.entries → e.length ≤ 12) → ∃ (v : Word) (rest : List Word),
        bitsAt v 31 24 = q.entries.length ∧ (q.headInFlight = none → bitsAt v 23 22 = 0) ∧
        (∀ p, q.headInFlight = some p → bitsAt v 23 22 = portCode p) ∧ bitsAt v 21 19 = q.attempts ∧
        v.getLsbD 18 = q.drained ∧ bitsAt v 17 0 = 0 ∧ (q.entries = [] → rest = []) ∧
        (∀ e tail, q.entries = e :: tail → ∃ w : Word, rest = [w] ∧ bitsAt w 31 24 = e.length ∧
          bitsAt w 23 16 = e.source.toNat ∧ bitsAt w 15 8 = e.round.toNat ∧ w.getLsbD 0 = e.truncated) ∧
        exec (.readQueue r) s = .next (b.replied r i 10 .ok (v :: rest) none)))

/-- R140, R141, R81, R144: CLAIM and RELEASE by the claim's state. A RELEASE that ends a check in progress is answered
OK, then ABANDONED while room remains. -/
def Obligations.ClaimAndReleaseFollowTable : Prop :=
  ∀ (r : Request) (s : State) (i : Fin 8), s.Executes r i → r.operands = [] →
    let b := s.begun r i
    let own := ({ port := r.port, station := r.station } : PartyId)
    (s.claim = none → exec (.claim r) s = .next ({ b with claim := some own }.replied r i 2 .ok [] none)) ∧
    (s.claim = some own → exec (.claim r) s = .next (b.replied r i 2 .ok [] none)) ∧
    (∀ other, s.claim = some other → other ≠ own → ∃ w : Word, bitsAt w 31 30 = portCode other.port ∧
      bitsAt w 29 24 = 0 ∧ bitsAt w 23 16 = other.station.toNat ∧ bitsAt w 15 0 = 0 ∧
      exec (.claim r) s = .next (b.replied r i 2 .held [w] none)) ∧
    (s.claim ≠ some own → exec (.release r) s = .next (b.replied r i 3 .unclaimed [] none)) ∧
    (s.claim = some own → (∀ p f rb, s.checkState ≠ .checking p f rb) →
      exec (.release r) s = .next ({ b with claim := none }.replied r i 3 .ok [] none)) ∧
    (∀ p f rb q n, s.claim = some own → s.checkState = .checking p f rb → s.PartiesLawful → s.CheckLawful →
      s.parties[i] = some q → q.outstanding = some n → ∃ t, exec (.release r) s = .next t ∧ t.claim = none ∧
        t.checkState = .unchecked ∧ t.notices = s.notices ∧
        t.parties = s.parties.set i (some { q with
          idle := 0, lastSeq := some r.seq, cached := some { status := .ok, seq := r.seq, code := 3, results := [] },
          outstanding := none }) ∧
        t.responses = s.responses.set r.port
          (s.responses.get r.port ++
            [{ station := r.station, reply := { status := .ok, seq := r.seq, code := 3, results := [] }, mark := none }] ++
            if (s.responses.get r.port).length + 1 < 8 then
              [{ station := r.station, reply := { status := .abandoned, seq := n, code := 20, results := [] },
                 mark := none }]
            else []))

/-- R159, R19, R20, R38 to R40: WRITE_PROFILE of a profile `u` or `l` read from the operands by Table 12-8: RANGE, then
STATE, then the stored profile is replaced and the in-use notice target with it. -/
def Obligations.WriteProfileIsJudgedWhole : Prop :=
  ∀ (r : Request) (s : State) (i : Fin 8), s.HolderExecutes r i →
    let b := s.begun r i
    (∀ w0 w1 w2 w3, selectsPort r.selector .u → r.operands = [w0, w1, w2, w3] →
      let u := parseUProfile w0 w1 w2 w3
      let good := u.station ≠ 0 ∧ u.station ≠ 255 ∧ 8 ≤ u.slotCount ∧ u.slotCount ≤ 1023 ∧ 6 ≤ u.slotLength ∧
        1 ≤ u.responseSlot ∧ u.responseSlot ≤ u.slotCount ∧ 1 ≤ u.lapseLimit ∧ 1 ≤ u.confirmQuorum ∧
        u.confirmQuorum ≤ 4 ∧ u.timingStations.length ≤ 4 ∧ (∀ a, a ∈ u.timingStations → a ≠ 0 ∧ a ≠ 255) ∧
        u.timingStations.Nodup ∧ u.noticeTarget ≠ 255 ∧ s.lStored.tieOffset < u.slotCount * u.slotLength ∧
        (s.lStored.tieEnabled = true →
          s.lStored.slotCount * s.lStored.slotLength ≤ u.slotCount * u.slotLength)
      (¬good → exec (.writeProfile r) s = .next (b.replied r i 12 .range [] none)) ∧
      (good → u.enabled = false → r.port = .u →
        exec (.writeProfile r) s = .next (b.replied r i 12 .state [] none)) ∧
      (good → u.enabled = true ∨ r.port = .l →
        exec (.writeProfile r) s = .next ({ b with
          uStored := u, uInUse := { s.uInUse with noticeTarget := u.noticeTarget } }.replied r i 12 .ok [] none))) ∧
    (∀ w0 w1 w2, selectsPort r.selector .l → r.operands = [w0, w1, w2] →
      let l := parseLProfile w0 w1 w2
      let good := l.station ≠ 0 ∧ l.station ≠ 255 ∧ 8 ≤ l.slotCount ∧ l.slotCount ≤ 1023 ∧ 6 ≤ l.slotLength ∧
        1 ≤ l.beaconSlot ∧ l.beaconSlot ≤ l.slotCount ∧ 1 ≤ l.responseSlot ∧ l.responseSlot ≤ l.slotCount ∧
        l.beaconSlot ≠ l.responseSlot ∧ l.noticeTarget ≠ 255 ∧ l.tieOffset < s.uStored.slotCount * s.uStored.slotLength ∧
        (l.tieEnabled = true → l.slotCount * l.slotLength ≤ s.uStored.slotCount * s.uStored.slotLength)
      (¬good → exec (.writeProfile r) s = .next (b.replied r i 12 .range [] none)) ∧
      (good → l.enabled = false → (r.port = .l ∨ s.checkState = .commitPending) →
        exec (.writeProfile r) s = .next (b.replied r i 12 .state [] none)) ∧
      (good → (l.enabled = true ∨ r.port = .u ∧ s.checkState ≠ .commitPending) →
        exec (.writeProfile r) s = .next ({ b with
          lStored := l, lInUse := { s.lInUse with noticeTarget := l.noticeTarget } }.replied r i 12 .ok [] none))) ∧
    ((∀ p, ¬selectsPort r.selector p) → r.operands.length = 3 ∨ r.operands.length = 4 →
      exec (.writeProfile r) s = .next (b.replied r i 12 .range [] none))

/-- R158, R160, R17, R122: WRITE_SETTINGS replaces both settings or neither; CLEAR_COUNTERS clears one port's counters;
START and HALT set the forwarding state. Nothing else changes. -/
def Obligations.SettingsCountersAndForwardingAreSet : Prop :=
  ∀ (r : Request) (s : State) (i : Fin 8), s.HolderExecutes r i →
    let b := s.begun r i
    (∀ w : Word, r.operands = [w] →
      let t : Settings := { claimTimeout := w.extractLsb' 24 8, repeatInterval := w.extractLsb' 16 8 }
      (8 ≤ t.claimTimeout.toNat → 4 ≤ t.repeatInterval.toNat →
        exec (.writeSettings r) s = .next ({ b with settings := t }.replied r i 13 .ok [] none)) ∧
      (t.claimTimeout.toNat < 8 ∨ t.repeatInterval.toNat < 4 →
        exec (.writeSettings r) s = .next (b.replied r i 13 .range [] none))) ∧
    (r.operands = [] →
      (∀ p, selectsPort r.selector p →
        exec (.clearCounters r) s = .next ({ b with
          counters := s.counters.set p ⟨0, 0, 0, 0, 0, 0⟩ }.replied r i 15 .ok [] none)) ∧
      ((∀ p, ¬selectsPort r.selector p) →
        exec (.clearCounters r) s = .next (b.replied r i 15 .range [] none)) ∧
      exec (.start r) s = .next ({ b with forwarding := .forwarding }.replied r i 23 .ok [] none) ∧
      exec (.halt r) s = .next ({ b with forwarding := .halted }.replied r i 24 .ok [] none))

/-- R148, R160, R35, R51: RESTART, and RESTART_LINK of the port of arrival, are answered OK with a restart mark and do
nothing more; RESTART_LINK of the other port is its link start and then the answer. Where the flush of that link start
removes a RESTART mark, the bridge restarts and there is no answer (log entry 20). -/
def Obligations.RestartsFollowTheirAnswer : Prop :=
  ∀ (r : Request) (s : State) (i : Fin 8), s.HolderExecutes r i → r.operands = [] →
    let b := s.begun r i
    let linkStart := fun p : Port => match p with
      | .u => exec .linkStartU b
      | .l => exec .linkStartL b
    exec (.restart r) s = .next (b.replied r i 28 .ok [] (some .bridge)) ∧
    (selectsPort r.selector r.port →
      exec (.restartLink r) s = .next (b.replied r i 14 .ok [] (some (.link r.port)))) ∧
    (∀ p, selectsPort r.selector p → p ≠ r.port → 8 ≤ s.settings.claimTimeout →
      ((∀ x, x ∈ s.responses.get p → x.mark ≠ some .bridge) → ∃ t, linkStart p = .next t ∧
        exec (.restartLink r) s = .next (t.replied r i 14 .ok [] none)) ∧
      ((∃ x, x ∈ s.responses.get p ∧ x.mark = some .bridge) → exec (.restartLink r) s = linkStart p)) ∧
    ((∀ p, ¬selectsPort r.selector p) → exec (.restartLink r) s = .next (b.replied r i 14 .range [] none))

/-- R64 to R68, R161, R172: the four edits are answered BUSY while the STAGED bank is frozen; otherwise the bank is
changed as the request says, the check state becomes UNCHECKED and nothing else changes. -/
def Obligations.EditsChangeTheStagedBankAlone : Prop :=
  ∀ (r : Request) (s : State) (i : Fin 8), s.HolderExecutes r i →
    let b := s.begun r i
    let edited := fun (bank : Bank) (code : BitVec 8) =>
      { b with staged := bank, checkState := .unchecked }.replied r i code .ok [] none
    let g := s.staged
    let w0 := r.operands.getD 0 0
    let w1 := r.operands.getD 1 0
    (r.operands = [] →
      (s.StagedFrozen →
        exec (.stageClear r) s = .next (b.replied r i 16 .busy [] none) ∧
        exec (.stageCopy r) s = .next (b.replied r i 17 .busy [] none) ∧
        exec (.eraseRecord r) s = .next (b.replied r i 19 .busy [] none)) ∧
      (¬s.StagedFrozen →
        exec (.stageClear r) s = .next (edited .empty 16) ∧
        exec (.stageCopy r) s = .next (edited s.active 17) ∧
        ((∀ ref, ¬selectsRecord r.selector ref) →
          exec (.eraseRecord r) s = .next (b.replied r i 19 .range [] none)) ∧
        (∀ n : Fin 64, selectsRecord r.selector (.mailbox n) →
          exec (.eraseRecord r) s = .next (edited { g with mailboxes := g.mailboxes.set n ⟨none, true⟩ } 19)) ∧
        (∀ n : Fin 8, selectsRecord r.selector (.queue n) →
          exec (.eraseRecord r) s = .next (edited { g with queues := g.queues.set n ⟨none, true⟩ } 19)) ∧
        (∀ n : Fin 128, selectsRecord r.selector (.capture n) →
          exec (.eraseRecord r) s = .next (edited { g with captures := g.captures.set n ⟨none, true⟩ } 19)) ∧
        (∀ n : Fin 128, selectsRecord r.selector (.emit n) →
          exec (.eraseRecord r) s = .next (edited { g with emits := g.emits.set n ⟨none, true⟩ } 19)))) ∧
    ((r.selector.extractLsb' 11 3 = 1 ∨ r.selector.extractLsb' 11 3 = 2) ∧ r.operands.length = 1 ∨
      (r.selector.extractLsb' 11 3 = 3 ∨ r.selector.extractLsb' 11 3 = 4) ∧ r.operands.length = 2 ∨
      (r.selector.extractLsb' 11 3 = 0 ∨ 5 ≤ r.selector.extractLsb' 11 3) ∧
        (r.operands.length = 1 ∨ r.operands.length = 2) →
      let range := exec (.writeRecord r) s = .next (b.replied r i 18 .range [] none)
      (s.StagedFrozen → exec (.writeRecord r) s = .next (b.replied r i 18 .busy [] none)) ∧
      (¬s.StagedFrozen →
        ((∀ ref, ¬selectsRecord r.selector ref) → range) ∧
        (∀ n : Fin 64, selectsRecord r.selector (.mailbox n) → (parseMailboxDef w0 = none → range) ∧
          ∀ d, parseMailboxDef w0 = some d → exec (.writeRecord r) s =
            .next (edited { g with mailboxes := g.mailboxes.set n ⟨some d, true⟩ } 18)) ∧
        (∀ n : Fin 8, selectsRecord r.selector (.queue n) → (parseQueueDef w0 = none → range) ∧
          ∀ d, parseQueueDef w0 = some d → exec (.writeRecord r) s =
            .next (edited { g with queues := g.queues.set n ⟨some d, true⟩ } 18)) ∧
        (∀ n : Fin 128, selectsRecord r.selector (.capture n) → (parseCaptureEntry w0 w1 = none → range) ∧
          ∀ e, parseCaptureEntry w0 w1 = some e → exec (.writeRecord r) s =
            .next (edited { g with captures := g.captures.set n ⟨some e, true⟩ } 18)) ∧
        (∀ n : Fin 128, selectsRecord r.selector (.emit n) → (parseEmitEntry w0 w1 = none → range) ∧
          ∀ e, parseEmitEntry w0 w1 = some e → exec (.writeRecord r) s =
            .next (edited { g with emits := g.emits.set n ⟨some e, true⟩ } 18))))

/-- R72, R143: a CHECK is answered BUSY while the STAGED bank is frozen; otherwise the state becomes CHECKING with the
five figures of the stored profiles, the sequence number is outstanding, the cached response is absent, and nothing is
queued. -/
def Obligations.CheckTakenIsOutstanding : Prop :=
  ∀ (r : Request) (s : State) (i : Fin 8), s.HolderExecutes r i → r.operands = [] →
    let b := s.begun r i
    (s.StagedFrozen → exec (.check r) s = .next (b.replied r i 20 .busy [] none)) ∧
    (¬s.StagedFrozen → ∃ q, b.parties[i] = some q ∧ q.id = { port := r.port, station := r.station } ∧ q.idle = 0 ∧
      exec (.check r) s = .next { b with
        checkState := .checking { port := r.port, station := r.station }
          { uSlotCount := s.uStored.slotCount, uResponseSlot := s.uStored.responseSlot,
            lSlotCount := s.lStored.slotCount, lBeaconSlot := s.lStored.beaconSlot,
            lResponseSlot := s.lStored.responseSlot } []
        parties := b.parties.set i (some { q with lastSeq := some r.seq, outstanding := some r.seq, cached := none }) })

/-- R83, R84, R139, R141: COMMIT and CANCEL_COMMIT by the staged check state, with the refusals that come before it, and
what the next L round start then does: after a COMMIT it swaps (a new generation, UNCHECKED, COMMIT_DONE), none comes while
port L is OFF; after a CANCEL_COMMIT it does not swap. That L_ROUND_START posed while port L is OFF or while a round runs
changes nothing is the model's choice (log entry 13). -/
def Obligations.CommitAndCancelFollowTheCheckState : Prop :=
  ∀ (r : Request) (s : State) (i : Fin 8), s.Executes r i →
    let b := s.begun r i
    (r.operands ≠ [] → exec (.commit r) s = .next (b.replied r i 21 .unknown [] none) ∧
      exec (.cancelCommit r) s = .next (b.replied r i 22 .unknown [] none)) ∧
    (r.operands = [] → s.claim ≠ some { port := r.port, station := r.station } →
      exec (.commit r) s = .next (b.replied r i 21 .unclaimed [] none) ∧
      exec (.cancelCommit r) s = .next (b.replied r i 22 .unclaimed [] none)) ∧
    (r.operands = [] → s.claim = some { port := r.port, station := r.station } →
      (s.checkState = .passed →
        exec (.commit r) s = .next ({ b with checkState := .commitPending }.replied r i 21 .pending [] none)) ∧
      (s.checkState = .unchecked ∨ (∃ c ref, s.checkState = .failed c ref) →
        exec (.commit r) s = .next (b.replied r i 21 .notChecked [] none)) ∧
      ((∃ p f rb, s.checkState = .checking p f rb) →
        exec (.commit r) s = .next (b.replied r i 21 .busy [] none)) ∧
      (s.checkState = .commitPending →
        exec (.commit r) s = .next (b.replied r i 21 .state [] none) ∧
        exec (.cancelCommit r) s = .next ({ b with checkState := .passed }.replied r i 22 .ok [] none)) ∧
      (s.checkState ≠ .commitPending → exec (.cancelCommit r) s = .next (b.replied r i 22 .state [] none)) ∧
      (∀ t, s.checkState = .passed → exec (.commit r) s = .next t →
        (s.lTime.state = .off → exec .lRoundStart t = .next t) ∧
        (s.lTime.state = .untied → s.lTime.running = false → ∃ t', exec .lRoundStart t = .next t' ∧
          t'.generation = s.generation + 1 ∧ t'.checkState = .unchecked ∧ t'.active = s.staged ∧
          (t'.notices.overflow = true ∨ ∃ e ∈ t'.notices.entries, e.kind = .commitDone))) ∧
      (∀ t, s.checkState = .commitPending → exec (.cancelCommit r) s = .next t →
        ∃ t', exec .lRoundStart t = .next t' ∧ t'.generation = s.generation ∧ t'.checkState = .passed ∧
          t'.active = s.active ∧ t'.staged = s.staged))

/-- R109, R162, R108, R119: INJECT: RANGE, UNDEFINED and BUSY, otherwise the payload is written into the half that is not
current and the mailbox flips. DRAIN_QUEUE removes every entry not in flight, marks a head in flight as drained, and
answers how many were removed. `headPos`, the ring position of the next head, is the model's own (log entry 7). -/
def Obligations.InjectFlipsAndDrainEmpties : Prop :=
  ∀ (r : Request) (s : State) (i : Fin 8), s.HolderExecutes r i →
    let b := s.begun r i
    (r.operands.length ≤ 11 →
      ((∀ n : Fin 64, ¬selectsNumber r.selector n) → exec (.inject r) s = .next (b.replied r i 25 .range [] none)) ∧
      (∀ n : Fin 64, selectsNumber r.selector n →
        let m := s.mailboxes[n]
        let x := s.active.mailboxes[n]
        let k := r.operands.length
        (x = ⟨none, true⟩ → exec (.inject r) s = .next (b.replied r i 25 .undefined [] none)) ∧
        (x.parityGood = false →
          exec (.inject r) s = .next ({ b with
            notices := s.notices.raise .planParity (.record .active (.mailbox n)) s.raiseRound }.replied r i 25
              .undefined [] none)) ∧
        (∀ d : MailboxDef, x = ⟨some d, true⟩ →
          let start := match m.half with
            | .a => d.base + d.capacity
            | .b => d.base
          (d.capacity < k → exec (.inject r) s = .next (b.replied r i 25 .range [] none)) ∧
          (k ≤ d.capacity → m.openWrite.isSome = true →
            exec (.inject r) s = .next (b.replied r i 25 .busy [] none)) ∧
          (k ≤ d.capacity → m.openWrite = none → d.base + 2 * d.capacity ≤ 4096 → ∃ st : Store,
            let t : State := { b with
              store := st
              mailboxes := s.mailboxes.set n
                { state := .fresh, half := m.half.other, openWrite := none, length := k, source := some r.station,
                  round := some (if s.lTime.state = .off then 0 else s.lTime.round.getD 0), age := 0,
                  truncated := false, tag := m.tag + 1 } }
            (∀ j, j < k → t.wordAt (start + j) = .good (r.operands.getD j 0)) ∧
            (∀ a, a < start ∨ start + k ≤ a → t.wordAt a = s.wordAt a) ∧
            exec (.inject r) s = .next (t.replied r i 25 .ok [] none))))) ∧
    (r.operands = [] →
      ((∀ n : Fin 8, ¬selectsNumber r.selector n) →
        exec (.drainQueue r) s = .next (b.replied r i 26 .range [] none)) ∧
      (∀ n : Fin 8, selectsNumber r.selector n →
        let q := s.queues[n]
        let x := s.active.queues[n]
        (x = ⟨none, true⟩ → exec (.drainQueue r) s = .next (b.replied r i 26 .undefined [] none)) ∧
        (x.parityGood = false →
          exec (.drainQueue r) s = .next ({ b with
            notices := s.notices.raise .planParity (.record .active (.queue n)) s.raiseRound }.replied r i 26
              .undefined [] none)) ∧
        (∀ d : QueueDef, x = ⟨some d, true⟩ → q.entries.length ≤ 32 → ∃ w : Word, bitsAt w 31 8 = 0 ∧
          (q.headInFlight = none → bitsAt w 7 0 = q.entries.length ∧ ∃ h : Nat,
            exec (.drainQueue r) s = .next ({ b with
              queues := s.queues.set n { entries := [], headInFlight := none, attempts := 0, drained := false,
                                         headPos := h } }.replied r i 26 .ok [w] none)) ∧
          (∀ e rest, q.headInFlight.isSome = true → q.entries = e :: rest → bitsAt w 7 0 = rest.length ∧
            exec (.drainQueue r) s = .next ({ b with
              queues := s.queues.set n { q with entries := [e], drained := true } }.replied r i 26 .ok [w] none)))))

/-- R165, R41, R163, R168, R169, R171: a raise of a kind and subject that stand changes only the count, which stops at 255,
and the last round of their entry. Otherwise, with fewer than 16 entries, a new one joins the tail with the first id, from
the next-id value on, that no standing entry holds, and the next-id value goes one past it; with 16 the notice is lost and
the overflow flag set. The round of a raise is the current L round, 0 while port L is OFF. ACK_NOTICE needs no claim: the
entry with the id in bits 7 to 0 of the selector is removed, the others keep their order and the overflow flag is cleared;
UNDEFINED, and nothing changed, when no entry has the id. ATTN follows the emptiness of the queue. -/
def Obligations.NoticesAreRaisedAndAcknowledged : Prop :=
  (∀ (u : NoticeUnit) (k : NoticeKind) (j : Subject) (n : Round), u.Lawful →
    let same := fun e : Notice => e.kind = k ∧ e.subject = j
    (∀ x e y, u.entries = x ++ e :: y → same e →
      u.raise k j n = { u with
        entries := x ++ { e with count := if e.count = 255 then 255 else e.count + 1, lastRound := n } :: y }) ∧
    ((∀ e, e ∈ u.entries → ¬same e) → u.entries.length < 16 → ∃ m : Nat, m ≤ u.entries.length ∧
      let id := u.nextId + BitVec.ofNat 8 m
      (∀ e, e ∈ u.entries → e.id ≠ id) ∧ (∀ l, l < m → ∃ e ∈ u.entries, e.id = u.nextId + BitVec.ofNat 8 l) ∧
      u.raise k j n = { u with
        entries := u.entries ++ [{ id, kind := k, subject := j, count := 1, firstRound := n, lastRound := n,
                                   countdown := 0, sentEver := false }]
        nextId := id + 1 }) ∧
    ((∀ e, e ∈ u.entries → ¬same e) → u.entries.length = 16 → u.raise k j n = { u with overflow := true })) ∧
  (∀ (s : State) (k : NoticeKind) (j : Subject),
    (s.lTime.state = .off → s.raise k j = { s with notices := s.notices.raise k j 0 }) ∧
    (∀ n, s.lTime.state ≠ .off → s.lTime.round = some n →
      s.raise k j = { s with notices := s.notices.raise k j n })) ∧
  (∀ (r : Request) (s : State) (i : Fin 8), s.Executes r i → r.operands = [] → s.notices.Lawful →
    let b := s.begun r i
    (∀ x e y, s.notices.entries = x ++ e :: y → e.id = r.selector.extractLsb' 0 8 →
      let t : State := { b with notices := { s.notices with entries := x ++ y, overflow := false } }
      exec (.ackNotice r) s = .next (t.replied r i 27 .ok [] none) ∧
      ((t.replied r i 27 .ok [] none).attn = false ↔ x = [] ∧ y = [])) ∧
    ((∀ e, e ∈ s.notices.entries → e.id ≠ r.selector.extractLsb' 0 8) →
      exec (.ackNotice r) s = .next (b.replied r i 27 .undefined [] none)))

/-- R139, R141, R150, R151: a request with a wrong number of operand words is answered UNKNOWN, whoever sends it; one
that needs the claim and comes from a party without it is answered UNCLAIMED. Neither changes anything else. -/
def Obligations.WrongCountAndMissingClaimAreRefused : Prop :=
  ∀ (q : Req) (r : Request) (s : State) (i : Fin 8), s.Executes r i →
    let k := r.operands.length
    let kind := r.selector.extractLsb' 11 3
    let port := r.selector.extractLsb' 14 2
    let countFits : Prop := match q with
      | .ping | .inject => k ≤ 11
      | .readMailbox | .writeSettings => k = 1
      | .writeProfile => port = 1 ∧ k = 4 ∨ port = 2 ∧ k = 3 ∨ (port = 0 ∨ port = 3) ∧ (k = 3 ∨ k = 4)
      | .writeRecord => (kind = 1 ∨ kind = 2) ∧ k = 1 ∨ (kind = 3 ∨ kind = 4) ∧ k = 2 ∨
          (kind = 0 ∨ 5 ≤ kind) ∧ (k = 1 ∨ k = 2)
      | _ => k = 0
    let open_ : Prop := q = .ping ∨ q = .claim ∨ q = .readStatus ∨ q = .readProfile ∨ q = .readSettings ∨
      q = .readCounters ∨ q = .readRecord ∨ q = .readMailbox ∨ q = .readQueue ∨ q = .readNotices ∨ q = .ackNotice
    (¬countFits → exec (q.command r) s = .next ((s.begun r i).replied r i q.code .unknown [] none)) ∧
    (countFits → ¬open_ → s.claim ≠ some { port := r.port, station := r.station } →
      exec (q.command r) s = .next ((s.begun r i).replied r i q.code .unclaimed [] none))

/-- R134, R136, R138, R145, R148: for every request of a party found or admitted: a repeat of the outstanding sequence is
ignored; a repeat of the last sequence has its cached response queued again without a mark, or is counted as dropped when
the queue is full; another request that meets a full queue is dropped and counted; none of these executes anything. A
request on a port that is not running is not taken. -/
def Obligations.RepeatsAreAnsweredFromTheCache : Prop :=
  ∀ (q : Req) (r : Request) (s : State),
    (s.portRunning r.port = false → exec (q.command r) s = .next s) ∧
    (∀ (i : Fin 8) (party : Party), s.Takes r → (s.admitParty (requestParty r)).2 = some i →
      (s.admitted r).parties[i] = some party →
      let t := s.admitted r
      let c := s.counters.get r.port
      let dropped : State :=
        { t with counters := s.counters.set r.port { c with droppedRequests := satInc c.droppedRequests } }
      party.id = { port := r.port, station := r.station } ∧ party.idle = 0 ∧
      (party.outstanding = some r.seq → exec (q.command r) s = .next t) ∧
      (∀ reply, party.outstanding ≠ some r.seq → party.lastSeq = some r.seq → party.cached = some reply →
        ((s.responses.get r.port).length < 8 → exec (q.command r) s = .next { t with
          responses := s.responses.set r.port
            (s.responses.get r.port ++ [{ station := r.station, reply, mark := none }]) }) ∧
        (8 ≤ (s.responses.get r.port).length → exec (q.command r) s = .next dropped)) ∧
      (party.outstanding ≠ some r.seq → (party.lastSeq ≠ some r.seq ∨ party.cached = none) →
        8 ≤ (s.responses.get r.port).length → exec (q.command r) s = .next dropped))

/-- R135, R136, R137: a party in the table keeps its position and record, with idle rounds 0; a new one takes the lowest
free position, or else that of the most idle party that neither holds the claim nor has an outstanding sequence, the
lowest among equals. A position is always found, and nothing else changes. -/
def Obligations.PartiesAreFoundOrAdmitted : Prop :=
  ∀ (r : Request) (s : State), s.PartiesLawful → s.CheckLawful →
    let own := ({ port := r.port, station := r.station } : PartyId)
    let placed := fun (i : Fin 8) (q : Party) =>
      s.admitted r = { s with parties := s.parties.set i (some q) } ∧ (s.admitParty own).2 = some i
    let new : Party := { id := own, lastSeq := none, cached := none, outstanding := none, idle := 0 }
    let absent := ∀ (j : Fin 8) (q : Party), s.parties[j] = some q → q.id ≠ own
    let victim := fun (i : Fin 8) (q : Party) =>
      s.parties[i] = some q ∧ s.claim ≠ some q.id ∧ q.outstanding = none
    (∀ i q, s.parties[i] = some q → q.id = own → placed i { q with idle := 0 }) ∧
    (∀ i, absent → s.parties[i] = none → (∀ j : Fin 8, j < i → s.parties[j] ≠ none) → placed i new) ∧
    (∀ i q, absent → (∀ j : Fin 8, s.parties[j] ≠ none) → victim i q →
      (∀ j x, victim j x → x.idle ≤ q.idle ∧ (x.idle = q.idle → i ≤ j)) → placed i new) ∧
    (∃ i, (s.admitParty own).2 = some i)

/-! ## Round sets and encodings -/

/-- R60: two round sets overlap when some round number is matched by both, which holds exactly when their phases leave the
same remainder on division by the smaller period; then the set of larger period lies within the other. Entries of
different ports or slots never conflict. -/
def Obligations.RoundSetsOverlapByTheSmallerPeriod : Prop :=
  ∀ t v : RoundSet, t.ok = true → v.ok = true →
    let shared := ∃ n : Round, t.hits n = true ∧ v.hits n = true
    let m := min t.period v.period
    (t.overlaps v = true ↔ shared) ∧ (shared ↔ t.phase % m = v.phase % m) ∧ max t.period v.period % m = 0 ∧
    (shared → t.period ≤ v.period → ∀ n : Round, v.hits n = true → t.hits n = true) ∧
    (t.period = v.period → (shared ↔ t.phase = v.phase)) ∧ (t.period = 1 → shared) ∧
    (∀ (p q : Port) (slot slot' : Nat), clash p q slot slot' t v = true ↔ p = q ∧ slot = slot' ∧ shared)

/-- R5, R14, R170, R174: a header is read by Table 12-1 when its check covers its bits and its fields are legal, and is
malformed otherwise, whatever its reserved bits hold; the header the bridge sends is read back as it was, with reserved
bits 0. A cell the bridge sends stands on the line as the bytes of its header, then of its words, most significant byte
first, then of its payload check, high byte first; a cell of length 0 is its header alone. Each check is that of its
generator preset to all ones: the bits it covers, followed by its own, leave the register 0. -/
def Obligations.CellsFollowTheirTable : Prop :=
  let legal := fun h : Header => 1 ≤ h.slot ∧ h.slot ≤ 1023 ∧ h.source ≠ 0 ∧ h.source ≠ 255 ∧ h.dest ≠ 255 ∧
    h.length ≤ 12 ∧ (h.kind = .data ∨ h.kind = .void ∨ h.kind = .beacon → h.dest = 0) ∧
    (h.kind = .void → h.length = 0) ∧ (h.kind = .beacon → h.length = 1)
  (∀ (x : BitVec 64) (h : Header), parseHeader x = some h ↔
    headerCheck (x.extractLsb' 8 56) = x.extractLsb' 0 8 ∧ (x.extractLsb' 61 3).toNat = h.kind.code ∧
    x.getLsbD 60 = h.stale ∧ (x.extractLsb' 48 8).toNat = h.round.toNat ∧ (x.extractLsb' 32 10).toNat = h.slot ∧
    x.extractLsb' 24 8 = h.source ∧ x.extractLsb' 16 8 = h.dest ∧ (x.extractLsb' 8 8).toNat = h.length ∧ legal h) ∧
  (∀ h : Header, legal h → parseHeader h.wire = some h ∧ h.wire.extractLsb' 56 4 = 0 ∧ h.wire.extractLsb' 42 6 = 0) ∧
  (∀ (s : State) (p : Port) (c : Cell), s.tx.get p = some c → c.payload.length = c.header.length →
    ∃ (bytes : List Byte) (check : BitVec 16), s.onLine p = some bytes ∧ payloadCheck c.payload = check ∧
      bytes.length = (if c.header.length = 0 then 8 else 8 + 4 * c.header.length + 2) ∧
      (∀ i, i < 8 → bytes[i]? = some (c.header.wire.extractLsb' (8 * (7 - i)) 8)) ∧
      (∀ i w k, c.payload[i]? = some w → k < 4 → bytes[8 + 4 * i + k]? = some (w.extractLsb' (8 * (3 - k)) 8)) ∧
      (c.header.length ≠ 0 → bytes[8 + 4 * c.header.length]? = some (check.extractLsb' 8 8) ∧
        bytes[8 + 4 * c.header.length + 1]? = some (check.extractLsb' 0 8) ∧
        (c.header.kind ≠ .beacon → payloadValid c.header c.payload check = true))) ∧
  (∀ bytes : BitVec 56, (bitsOf bytes ++ bitsOf (headerCheck bytes)).foldl (crcStep 0x2F#8) 0xFF#8 = 0) ∧
  (∀ words : List Word,
    (words.flatMap bitsOf ++ bitsOf (payloadCheck words)).foldl (crcStep 0x4975#16) 0xFFFF#16 = 0)

/-- R174: the codes of Tables 12-2, 12-4, 12-5, 12-6, 12-7 and 12-8, of the faults (12.3), of the notices (12.5), and of
ports, banks, records and subjects in selector layout (12.2). That bits 15 and 14 of a subject that names a mailbox, a
queue or an emit entry are 0 is the model's choice (log entry 33). -/
def Obligations.CodesAreThoseOfTheTables : Prop :=
  [CellKind.data, .void, .beacon, .request, .response, .notice].map CellKind.code = [1, 2, 3, 4, 5, 6] ∧
  [Req.ping, .claim, .release, .readStatus, .readProfile, .readSettings, .readCounters, .readRecord, .readMailbox,
    .readQueue, .readNotices, .writeProfile, .writeSettings, .restartLink, .clearCounters, .stageClear, .stageCopy,
    .writeRecord, .eraseRecord, .check, .commit, .cancelCommit, .start, .halt, .inject, .drainQueue, .ackNotice,
    .restart].map (fun q => (Req.code q).toNat) = (List.range 28).map (· + 1) ∧
  (∀ (q : Req) (c : BitVec 8), reqOfCode c = some q ↔ c = q.code) ∧
  [Status.ok, .pending, .held, .unclaimed, .busy, .notChecked, .range, .undefined, .state, .unknown, .abandoned,
    .failed].map Status.code = [0, 1, 2, 3, 4, 5, 6, 7, 8, 9, 10, 11] ∧
  [CaptureOutcome.received, .truncated, .void, .invalid, .empty, .foreign, .dropped].map CaptureOutcome.code =
    [1, 2, 3, 4, 5, 6, 7] ∧
  [EmitOutcome.sent, .sentStale, .voidSent, .silent, .fault, .disturbed, .aborted].map EmitOutcome.code =
    [1, 2, 3, 4, 5, 6, 7] ∧
  [FaultCode.parity, .regionRange, .regionOverlap, .noTarget, .slotRange, .reservedSlot, .captureOverlap, .emitOverlap,
    .selfSlot, .mixedIngress, .mixedEgress].map FaultCode.code = [1, 2, 3, 4, 5, 6, 7, 8, 9, 10, 11] ∧
  [NoticeKind.started, .lockGained, .lockLost, .tieGained, .tieLost, .commitDone, .claimExpired, .queueOverrun,
    .queueDiscard, .collision, .storeParity, .planParity, .mailboxStale].map NoticeKind.code =
    [1, 2, 3, 4, 5, 6, 7, 8, 9, 10, 11, 12, 13] ∧
  [OnEmpty.void, .silent].map OnEmpty.code = [1, 2] ∧ [OnStale.sendMarked, .void, .silent].map OnStale.code = [1, 2, 3] ∧
  [Origin.preserve, .self].map Origin.code = [1, 2] ∧
  [MailboxState.empty, .fresh, .stale, .spent, .faulted].map MailboxState.code = [0, 1, 2, 3, 4] ∧
  [Half.a, .b].map Half.code = [0, 1] ∧ [UState.off, .seek, .align, .confirm, .locked].map UState.code = [0, 1, 2, 3, 4] ∧
  [LState.off, .untied, .tying, .tied].map LState.code = [0, 1, 2, 3] ∧
  (∀ p f rb c ref, [CheckState.unchecked, .checking p f rb, .passed, .failed c ref, .commitPending].map CheckState.code =
    [0, 1, 2, 3, 4]) ∧
  [Port.u, .l].map portCode = [1, 2] ∧ [BankRole.active, .staged].map bankCode = [1, 2] ∧
  (∀ n : Fin 64, refBits (.mailbox n) = 1 * 2 ^ 11 + n) ∧ (∀ n : Fin 8, refBits (.queue n) = 2 * 2 ^ 11 + n) ∧
  (∀ n : Fin 128, refBits (.capture n) = 3 * 2 ^ 11 + n ∧ refBits (.emit n) = 4 * 2 ^ 11 + n) ∧
  Subject.bits .none = 0 ∧ (∀ n : Fin 64, Subject.bits (.mailbox n) = refBits (.mailbox n)) ∧
  (∀ n : Fin 8, Subject.bits (.queue n) = refBits (.queue n)) ∧
  (∀ n : Fin 128, Subject.bits (.emit n) = refBits (.emit n)) ∧
  (∀ role ref, Subject.bits (.record role ref) = bankCode role * 2 ^ 14 + refBits ref)

/-- R65, R172, Tables 12-6 and 12-8: the words of a plan record are read field by field, none when a field is out of its
range or a code has no meaning; a record in range is written as words that are read back as it, with reserved bits 0. The
words of a profile are read field by field, the station bytes beyond the list length ignored; a profile in range is
written as words that are read back as it, with reserved bits and unused station bytes 0. -/
def Obligations.RecordAndProfileWordsFollowTheirTables : Prop :=
  let roundsOk := fun t : RoundSet => t.period ∈ [1, 2, 4, 8, 16, 32, 64, 128] ∧ t.phase < t.period
  let entryWord0 := fun (w : Word) (p : Port) (slot : Nat) (t : RoundSet) =>
    bitsAt w 31 30 = portCode p ∧ bitsAt w 25 16 = slot ∧ bitsAt w 15 8 = t.period ∧ bitsAt w 7 0 = t.phase ∧
      1 ≤ slot ∧ roundsOk t
  let place := fun (w : Word) (k : Place) => match k with
    | .mailbox n => bitsAt w 31 30 = 1 ∧ bitsAt w 23 16 = n.val
    | .queue n => bitsAt w 31 30 = 2 ∧ bitsAt w 23 16 = n.val
  (∀ (w : Word) (d : MailboxDef), parseMailboxDef w = some d ↔
    bitsAt w 31 20 = d.base ∧ bitsAt w 19 16 = d.capacity ∧ (w.getLsbD 15 = true ↔ d.readMode = .take) ∧
    w.getLsbD 14 = d.notifyStale ∧ w.extractLsb' 0 8 = d.staleLimit ∧ 1 ≤ d.capacity ∧ d.capacity ≤ 12) ∧
  (∀ (w : Word) (d : QueueDef), parseQueueDef w = some d ↔
    bitsAt w 31 20 = d.base ∧ bitsAt w 19 16 = d.capacity ∧ bitsAt w 15 10 = d.depth ∧
    (w.getLsbD 9 = true ↔ d.fullPolicy = .replaceOldest) ∧ bitsAt w 8 6 = d.retryLimit ∧
    1 ≤ d.capacity ∧ d.capacity ≤ 12 ∧ 1 ≤ d.depth ∧ d.depth ≤ 32) ∧
  (∀ (w0 w1 : Word) (e : CaptureEntry), parseCaptureEntry w0 w1 = some e ↔
    entryWord0 w0 e.port e.slot e.rounds ∧ place w1 e.target ∧ w1.extractLsb' 0 8 = e.acceptFrom ∧
    e.acceptFrom ≠ 255) ∧
  (∀ (w0 w1 : Word) (e : EmitEntry), parseEmitEntry w0 w1 = some e ↔
    entryWord0 w0 e.port e.slot e.rounds ∧ place w1 e.source ∧ bitsAt w1 15 14 = e.onEmpty.code ∧
    bitsAt w1 13 12 = e.onStale.code ∧ bitsAt w1 11 10 = e.origin.code) ∧
  (∀ d : MailboxDef, d.ok = true → ∃ w, d.words = [w] ∧ parseMailboxDef w = some d ∧ bitsAt w 13 8 = 0) ∧
  (∀ d : QueueDef, d.ok = true → ∃ w, d.words = [w] ∧ parseQueueDef w = some d ∧ bitsAt w 5 0 = 0) ∧
  (∀ e : CaptureEntry, e.ok = true → ∃ w0 w1, e.words = [w0, w1] ∧ parseCaptureEntry w0 w1 = some e ∧
    bitsAt w0 29 26 = 0 ∧ bitsAt w1 29 24 = 0 ∧ bitsAt w1 15 8 = 0) ∧
  (∀ e : EmitEntry, e.ok = true → ∃ w0 w1, e.words = [w0, w1] ∧ parseEmitEntry w0 w1 = some e ∧
    bitsAt w0 29 26 = 0 ∧ bitsAt w1 29 24 = 0 ∧ bitsAt w1 9 0 = 0) ∧
  (∀ w0 w1 w2 w3 : Word,
    let u := parseUProfile w0 w1 w2 w3
    u.enabled = w0.getLsbD 31 ∧ u.station = w0.extractLsb' 16 8 ∧ u.slotCount = bitsAt w0 15 0 ∧
    u.responseSlot = bitsAt w1 31 16 ∧ u.slotLength = bitsAt w1 15 8 ∧ u.lapseLimit = bitsAt w1 7 4 ∧
    u.confirmQuorum = bitsAt w1 3 0 ∧ u.noticeTarget = w2.extractLsb' 24 8 ∧
    u.timingStations.length = bitsAt w2 23 16 ∧
    (∀ k, k < bitsAt w2 23 16 → k < 4 → u.timingStations[k]? = some (w3.extractLsb' (24 - 8 * k) 8))) ∧
  (∀ w0 w1 w2 : Word,
    let l := parseLProfile w0 w1 w2
    l.enabled = w0.getLsbD 31 ∧ l.tieEnabled = w0.getLsbD 30 ∧ l.station = w0.extractLsb' 16 8 ∧
    l.slotCount = bitsAt w0 15 0 ∧ l.beaconSlot = bitsAt w1 31 16 ∧ l.responseSlot = bitsAt w1 15 0 ∧
    l.tieOffset = bitsAt w2 31 16 ∧ l.slotLength = bitsAt w2 15 8 ∧ l.noticeTarget = w2.extractLsb' 0 8) ∧
  (∀ u : UProfile, u.ok = true → ∃ w0 w1 w2 w3, u.words = [w0, w1, w2, w3] ∧ parseUProfile w0 w1 w2 w3 = u ∧
    bitsAt w0 30 24 = 0 ∧ bitsAt w2 15 0 = 0 ∧
    (∀ k, u.timingStations.length ≤ k → k < 4 → w3.extractLsb' (24 - 8 * k) 8 = 0)) ∧
  (∀ l : LProfile, l.ok = true → ∃ w0 w1 w2, l.words = [w0, w1, w2] ∧ parseLProfile w0 w1 w2 = l ∧
    bitsAt w0 29 24 = 0)

/-! ## Invariants of every step -/

/-- R115, R106, R105, R92, R107, R118: every step, from a state whose ACTIVE records are in range (R65; a law of
EveryStepKeepsThePlanLaw), keeps the canonical form of the store, the laws of every mailbox and queue, the figures that
capture and emit keep within their ranges, and the write of an uncut mailbox context open. -/
def Obligations.EveryStepKeepsTheBufferStoreLaw : Prop :=
  ∀ s t : State, step s = .next t → s.active.InRange → s.BuffersLawful → t.BuffersLawful

/-- R164, R165: every step keeps at most 16 notices, no two with the same kind and subject, every id unique. -/
def Obligations.EveryStepKeepsTheNoticeQueueLaw : Prop :=
  ∀ s t : State, step s = .next t → s.notices.Lawful → t.notices.Lawful

/-- R135, R140, R143, R145: every step keeps at most 8 responses in a queue, no party twice, the claim holder in the table,
a check in progress with the holder, and an outstanding sequence with the party of that check. -/
def Obligations.EveryStepKeepsTheManagementLaw : Prop :=
  ∀ s t : State, step s = .next t → s.ResponsesLawful → s.PartiesLawful → s.CheckLawful →
    t.ResponsesLawful ∧ t.PartiesLawful ∧ t.CheckLawful

/-- R53, R65, R91: every step keeps both banks in range, at most one capture and one emit entry of the ACTIVE bank for a
slot and round, and the same of a STAGED bank that has passed its check. -/
def Obligations.EveryStepKeepsThePlanLaw : Prop :=
  ∀ s t : State, step s = .next t → s.PlanLawful → t.PlanLawful

/-- R21, R26, R41, R44, R48: every step keeps the two timing records consistent: a round is known exactly in the states
that have one, a slot is current only in a round that runs, an alignment is pending only in TYING or TIED, and port L is
TYING or TIED only while port U is LOCKED. It keeps the profiles and the settings in their ranges (R20, R39, R158). -/
def Obligations.EveryStepKeepsTheTimingLaw : Prop :=
  ∀ s t : State, step s = .next t → (s.TimingLawful → t.TimingLawful) ∧ (s.ProfilesLawful → t.ProfilesLawful)
end

