-- ==== Sys2Proof/Laws/State.lean ====
section
/-! SUPPORT. One lemma per field of State per update of it, and the laws of PerPort. -/

namespace Sys2Proof.Machine

variable (s : State)

/-! ## PerPort -/

@[simp] theorem PerPort.get_set_self {α : Type} (x : PerPort α) (p : Port) (v : α) : (x.set p v).get p = v := by
  cases p <;> rfl

theorem PerPort.get_set {α : Type} (x : PerPort α) (p q : Port) (v : α) :
    (x.set p v).get q = if p = q then v else x.get q := by
  cases p <;> cases q <;> rfl

@[simp] theorem PerPort.get_set_u_l {α : Type} (x : PerPort α) (v : α) : (x.set .u v).get .l = x.get .l := rfl

@[simp] theorem PerPort.get_set_l_u {α : Type} (x : PerPort α) (v : α) : (x.set .l v).get .u = x.get .u := rfl

@[simp] theorem PerPort.set_get {α : Type} (x : PerPort α) (p : Port) : x.set p (x.get p) = x := by
  cases p <;> rfl

@[simp] theorem PerPort.set_set {α : Type} (x : PerPort α) (p : Port) (v w : α) : (x.set p v).set p w = x.set p w := by
  cases p <;> rfl

@[simp] theorem PerPort.get_mk_u {α : Type} (a b : α) : PerPort.get ⟨a, b⟩ .u = a := rfl

@[simp] theorem PerPort.get_mk_l {α : Type} (a b : α) : PerPort.get ⟨a, b⟩ .l = b := rfl

/-! ## withRx -/

@[simp] theorem State.withRx_resetnLow (p : Port) (v : Option Reception) : (s.withRx p v).resetnLow = s.resetnLow := rfl

@[simp] theorem State.withRx_strap (p : Port) (v : Option Reception) : (s.withRx p v).strap = s.strap := rfl

@[simp] theorem State.withRx_uStored (p : Port) (v : Option Reception) : (s.withRx p v).uStored = s.uStored := rfl

@[simp] theorem State.withRx_uInUse (p : Port) (v : Option Reception) : (s.withRx p v).uInUse = s.uInUse := rfl

@[simp] theorem State.withRx_lStored (p : Port) (v : Option Reception) : (s.withRx p v).lStored = s.lStored := rfl

@[simp] theorem State.withRx_lInUse (p : Port) (v : Option Reception) : (s.withRx p v).lInUse = s.lInUse := rfl

@[simp] theorem State.withRx_uTime (p : Port) (v : Option Reception) : (s.withRx p v).uTime = s.uTime := rfl

@[simp] theorem State.withRx_lTime (p : Port) (v : Option Reception) : (s.withRx p v).lTime = s.lTime := rfl

@[simp] theorem State.withRx_rx (p : Port) (v : Option Reception) : (s.withRx p v).rx = s.rx.set p v := rfl

@[simp] theorem State.withRx_tx (p : Port) (v : Option Reception) : (s.withRx p v).tx = s.tx := rfl

@[simp] theorem State.withRx_slotFlags (p : Port) (v : Option Reception) : (s.withRx p v).slotFlags = s.slotFlags := rfl

@[simp] theorem State.withRx_counters (p : Port) (v : Option Reception) : (s.withRx p v).counters = s.counters := rfl

@[simp] theorem State.withRx_responses (p : Port) (v : Option Reception) : (s.withRx p v).responses = s.responses := rfl

@[simp] theorem State.withRx_contexts (p : Port) (v : Option Reception) : (s.withRx p v).contexts = s.contexts := rfl

@[simp] theorem State.withRx_emitRecords (p : Port) (v : Option Reception) : (s.withRx p v).emitRecords = s.emitRecords := rfl

@[simp] theorem State.withRx_active (p : Port) (v : Option Reception) : (s.withRx p v).active = s.active := rfl

@[simp] theorem State.withRx_staged (p : Port) (v : Option Reception) : (s.withRx p v).staged = s.staged := rfl

@[simp] theorem State.withRx_captureOutcomes (p : Port) (v : Option Reception) : (s.withRx p v).captureOutcomes = s.captureOutcomes := rfl

@[simp] theorem State.withRx_emitOutcomes (p : Port) (v : Option Reception) : (s.withRx p v).emitOutcomes = s.emitOutcomes := rfl

@[simp] theorem State.withRx_generation (p : Port) (v : Option Reception) : (s.withRx p v).generation = s.generation := rfl

@[simp] theorem State.withRx_checkState (p : Port) (v : Option Reception) : (s.withRx p v).checkState = s.checkState := rfl

@[simp] theorem State.withRx_store (p : Port) (v : Option Reception) : (s.withRx p v).store = s.store := rfl

@[simp] theorem State.withRx_storeEpoch (p : Port) (v : Option Reception) : (s.withRx p v).storeEpoch = s.storeEpoch := rfl

@[simp] theorem State.withRx_mailboxes (p : Port) (v : Option Reception) : (s.withRx p v).mailboxes = s.mailboxes := rfl

@[simp] theorem State.withRx_queues (p : Port) (v : Option Reception) : (s.withRx p v).queues = s.queues := rfl

@[simp] theorem State.withRx_forwarding (p : Port) (v : Option Reception) : (s.withRx p v).forwarding = s.forwarding := rfl

@[simp] theorem State.withRx_parties (p : Port) (v : Option Reception) : (s.withRx p v).parties = s.parties := rfl

@[simp] theorem State.withRx_claim (p : Port) (v : Option Reception) : (s.withRx p v).claim = s.claim := rfl

@[simp] theorem State.withRx_settings (p : Port) (v : Option Reception) : (s.withRx p v).settings = s.settings := rfl

@[simp] theorem State.withRx_notices (p : Port) (v : Option Reception) : (s.withRx p v).notices = s.notices := rfl

@[simp] theorem State.withRx_choice (p : Port) (v : Option Reception) : (s.withRx p v).choice = s.choice := rfl

@[simp] theorem State.withRx_pending (p : Port) (v : Option Reception) : (s.withRx p v).pending = s.pending := rfl

/-! ## withTx -/

@[simp] theorem State.withTx_resetnLow (p : Port) (v : Option Cell) : (s.withTx p v).resetnLow = s.resetnLow := rfl

@[simp] theorem State.withTx_strap (p : Port) (v : Option Cell) : (s.withTx p v).strap = s.strap := rfl

@[simp] theorem State.withTx_uStored (p : Port) (v : Option Cell) : (s.withTx p v).uStored = s.uStored := rfl

@[simp] theorem State.withTx_uInUse (p : Port) (v : Option Cell) : (s.withTx p v).uInUse = s.uInUse := rfl

@[simp] theorem State.withTx_lStored (p : Port) (v : Option Cell) : (s.withTx p v).lStored = s.lStored := rfl

@[simp] theorem State.withTx_lInUse (p : Port) (v : Option Cell) : (s.withTx p v).lInUse = s.lInUse := rfl

@[simp] theorem State.withTx_uTime (p : Port) (v : Option Cell) : (s.withTx p v).uTime = s.uTime := rfl

@[simp] theorem State.withTx_lTime (p : Port) (v : Option Cell) : (s.withTx p v).lTime = s.lTime := rfl

@[simp] theorem State.withTx_rx (p : Port) (v : Option Cell) : (s.withTx p v).rx = s.rx := rfl

@[simp] theorem State.withTx_tx (p : Port) (v : Option Cell) : (s.withTx p v).tx = s.tx.set p v := rfl

@[simp] theorem State.withTx_slotFlags (p : Port) (v : Option Cell) : (s.withTx p v).slotFlags = s.slotFlags := rfl

@[simp] theorem State.withTx_counters (p : Port) (v : Option Cell) : (s.withTx p v).counters = s.counters := rfl

@[simp] theorem State.withTx_responses (p : Port) (v : Option Cell) : (s.withTx p v).responses = s.responses := rfl

@[simp] theorem State.withTx_contexts (p : Port) (v : Option Cell) : (s.withTx p v).contexts = s.contexts := rfl

@[simp] theorem State.withTx_emitRecords (p : Port) (v : Option Cell) : (s.withTx p v).emitRecords = s.emitRecords := rfl

@[simp] theorem State.withTx_active (p : Port) (v : Option Cell) : (s.withTx p v).active = s.active := rfl

@[simp] theorem State.withTx_staged (p : Port) (v : Option Cell) : (s.withTx p v).staged = s.staged := rfl

@[simp] theorem State.withTx_captureOutcomes (p : Port) (v : Option Cell) : (s.withTx p v).captureOutcomes = s.captureOutcomes := rfl

@[simp] theorem State.withTx_emitOutcomes (p : Port) (v : Option Cell) : (s.withTx p v).emitOutcomes = s.emitOutcomes := rfl

@[simp] theorem State.withTx_generation (p : Port) (v : Option Cell) : (s.withTx p v).generation = s.generation := rfl

@[simp] theorem State.withTx_checkState (p : Port) (v : Option Cell) : (s.withTx p v).checkState = s.checkState := rfl

@[simp] theorem State.withTx_store (p : Port) (v : Option Cell) : (s.withTx p v).store = s.store := rfl

@[simp] theorem State.withTx_storeEpoch (p : Port) (v : Option Cell) : (s.withTx p v).storeEpoch = s.storeEpoch := rfl

@[simp] theorem State.withTx_mailboxes (p : Port) (v : Option Cell) : (s.withTx p v).mailboxes = s.mailboxes := rfl

@[simp] theorem State.withTx_queues (p : Port) (v : Option Cell) : (s.withTx p v).queues = s.queues := rfl

@[simp] theorem State.withTx_forwarding (p : Port) (v : Option Cell) : (s.withTx p v).forwarding = s.forwarding := rfl

@[simp] theorem State.withTx_parties (p : Port) (v : Option Cell) : (s.withTx p v).parties = s.parties := rfl

@[simp] theorem State.withTx_claim (p : Port) (v : Option Cell) : (s.withTx p v).claim = s.claim := rfl

@[simp] theorem State.withTx_settings (p : Port) (v : Option Cell) : (s.withTx p v).settings = s.settings := rfl

@[simp] theorem State.withTx_notices (p : Port) (v : Option Cell) : (s.withTx p v).notices = s.notices := rfl

@[simp] theorem State.withTx_choice (p : Port) (v : Option Cell) : (s.withTx p v).choice = s.choice := rfl

@[simp] theorem State.withTx_pending (p : Port) (v : Option Cell) : (s.withTx p v).pending = s.pending := rfl

/-! ## withFlags -/

@[simp] theorem State.withFlags_resetnLow (p : Port) (v : SlotFlags) : (s.withFlags p v).resetnLow = s.resetnLow := rfl

@[simp] theorem State.withFlags_strap (p : Port) (v : SlotFlags) : (s.withFlags p v).strap = s.strap := rfl

@[simp] theorem State.withFlags_uStored (p : Port) (v : SlotFlags) : (s.withFlags p v).uStored = s.uStored := rfl

@[simp] theorem State.withFlags_uInUse (p : Port) (v : SlotFlags) : (s.withFlags p v).uInUse = s.uInUse := rfl

@[simp] theorem State.withFlags_lStored (p : Port) (v : SlotFlags) : (s.withFlags p v).lStored = s.lStored := rfl

@[simp] theorem State.withFlags_lInUse (p : Port) (v : SlotFlags) : (s.withFlags p v).lInUse = s.lInUse := rfl

@[simp] theorem State.withFlags_uTime (p : Port) (v : SlotFlags) : (s.withFlags p v).uTime = s.uTime := rfl

@[simp] theorem State.withFlags_lTime (p : Port) (v : SlotFlags) : (s.withFlags p v).lTime = s.lTime := rfl

@[simp] theorem State.withFlags_rx (p : Port) (v : SlotFlags) : (s.withFlags p v).rx = s.rx := rfl

@[simp] theorem State.withFlags_tx (p : Port) (v : SlotFlags) : (s.withFlags p v).tx = s.tx := rfl

@[simp] theorem State.withFlags_slotFlags (p : Port) (v : SlotFlags) : (s.withFlags p v).slotFlags = s.slotFlags.set p v := rfl

@[simp] theorem State.withFlags_counters (p : Port) (v : SlotFlags) : (s.withFlags p v).counters = s.counters := rfl

@[simp] theorem State.withFlags_responses (p : Port) (v : SlotFlags) : (s.withFlags p v).responses = s.responses := rfl

@[simp] theorem State.withFlags_contexts (p : Port) (v : SlotFlags) : (s.withFlags p v).contexts = s.contexts := rfl

@[simp] theorem State.withFlags_emitRecords (p : Port) (v : SlotFlags) : (s.withFlags p v).emitRecords = s.emitRecords := rfl

@[simp] theorem State.withFlags_active (p : Port) (v : SlotFlags) : (s.withFlags p v).active = s.active := rfl

@[simp] theorem State.withFlags_staged (p : Port) (v : SlotFlags) : (s.withFlags p v).staged = s.staged := rfl

@[simp] theorem State.withFlags_captureOutcomes (p : Port) (v : SlotFlags) : (s.withFlags p v).captureOutcomes = s.captureOutcomes := rfl

@[simp] theorem State.withFlags_emitOutcomes (p : Port) (v : SlotFlags) : (s.withFlags p v).emitOutcomes = s.emitOutcomes := rfl

@[simp] theorem State.withFlags_generation (p : Port) (v : SlotFlags) : (s.withFlags p v).generation = s.generation := rfl

@[simp] theorem State.withFlags_checkState (p : Port) (v : SlotFlags) : (s.withFlags p v).checkState = s.checkState := rfl

@[simp] theorem State.withFlags_store (p : Port) (v : SlotFlags) : (s.withFlags p v).store = s.store := rfl

@[simp] theorem State.withFlags_storeEpoch (p : Port) (v : SlotFlags) : (s.withFlags p v).storeEpoch = s.storeEpoch := rfl

@[simp] theorem State.withFlags_mailboxes (p : Port) (v : SlotFlags) : (s.withFlags p v).mailboxes = s.mailboxes := rfl

@[simp] theorem State.withFlags_queues (p : Port) (v : SlotFlags) : (s.withFlags p v).queues = s.queues := rfl

@[simp] theorem State.withFlags_forwarding (p : Port) (v : SlotFlags) : (s.withFlags p v).forwarding = s.forwarding := rfl

@[simp] theorem State.withFlags_parties (p : Port) (v : SlotFlags) : (s.withFlags p v).parties = s.parties := rfl

@[simp] theorem State.withFlags_claim (p : Port) (v : SlotFlags) : (s.withFlags p v).claim = s.claim := rfl

@[simp] theorem State.withFlags_settings (p : Port) (v : SlotFlags) : (s.withFlags p v).settings = s.settings := rfl

@[simp] theorem State.withFlags_notices (p : Port) (v : SlotFlags) : (s.withFlags p v).notices = s.notices := rfl

@[simp] theorem State.withFlags_choice (p : Port) (v : SlotFlags) : (s.withFlags p v).choice = s.choice := rfl

@[simp] theorem State.withFlags_pending (p : Port) (v : SlotFlags) : (s.withFlags p v).pending = s.pending := rfl

/-! ## withCounters -/

@[simp] theorem State.withCounters_resetnLow (p : Port) (v : Counters) : (s.withCounters p v).resetnLow = s.resetnLow := rfl

@[simp] theorem State.withCounters_strap (p : Port) (v : Counters) : (s.withCounters p v).strap = s.strap := rfl

@[simp] theorem State.withCounters_uStored (p : Port) (v : Counters) : (s.withCounters p v).uStored = s.uStored := rfl

@[simp] theorem State.withCounters_uInUse (p : Port) (v : Counters) : (s.withCounters p v).uInUse = s.uInUse := rfl

@[simp] theorem State.withCounters_lStored (p : Port) (v : Counters) : (s.withCounters p v).lStored = s.lStored := rfl

@[simp] theorem State.withCounters_lInUse (p : Port) (v : Counters) : (s.withCounters p v).lInUse = s.lInUse := rfl

@[simp] theorem State.withCounters_uTime (p : Port) (v : Counters) : (s.withCounters p v).uTime = s.uTime := rfl

@[simp] theorem State.withCounters_lTime (p : Port) (v : Counters) : (s.withCounters p v).lTime = s.lTime := rfl

@[simp] theorem State.withCounters_rx (p : Port) (v : Counters) : (s.withCounters p v).rx = s.rx := rfl

@[simp] theorem State.withCounters_tx (p : Port) (v : Counters) : (s.withCounters p v).tx = s.tx := rfl

@[simp] theorem State.withCounters_slotFlags (p : Port) (v : Counters) : (s.withCounters p v).slotFlags = s.slotFlags := rfl

@[simp] theorem State.withCounters_counters (p : Port) (v : Counters) : (s.withCounters p v).counters = s.counters.set p v := rfl

@[simp] theorem State.withCounters_responses (p : Port) (v : Counters) : (s.withCounters p v).responses = s.responses := rfl

@[simp] theorem State.withCounters_contexts (p : Port) (v : Counters) : (s.withCounters p v).contexts = s.contexts := rfl

@[simp] theorem State.withCounters_emitRecords (p : Port) (v : Counters) : (s.withCounters p v).emitRecords = s.emitRecords := rfl

@[simp] theorem State.withCounters_active (p : Port) (v : Counters) : (s.withCounters p v).active = s.active := rfl

@[simp] theorem State.withCounters_staged (p : Port) (v : Counters) : (s.withCounters p v).staged = s.staged := rfl

@[simp] theorem State.withCounters_captureOutcomes (p : Port) (v : Counters) : (s.withCounters p v).captureOutcomes = s.captureOutcomes := rfl

@[simp] theorem State.withCounters_emitOutcomes (p : Port) (v : Counters) : (s.withCounters p v).emitOutcomes = s.emitOutcomes := rfl

@[simp] theorem State.withCounters_generation (p : Port) (v : Counters) : (s.withCounters p v).generation = s.generation := rfl

@[simp] theorem State.withCounters_checkState (p : Port) (v : Counters) : (s.withCounters p v).checkState = s.checkState := rfl

@[simp] theorem State.withCounters_store (p : Port) (v : Counters) : (s.withCounters p v).store = s.store := rfl

@[simp] theorem State.withCounters_storeEpoch (p : Port) (v : Counters) : (s.withCounters p v).storeEpoch = s.storeEpoch := rfl

@[simp] theorem State.withCounters_mailboxes (p : Port) (v : Counters) : (s.withCounters p v).mailboxes = s.mailboxes := rfl

@[simp] theorem State.withCounters_queues (p : Port) (v : Counters) : (s.withCounters p v).queues = s.queues := rfl

@[simp] theorem State.withCounters_forwarding (p : Port) (v : Counters) : (s.withCounters p v).forwarding = s.forwarding := rfl

@[simp] theorem State.withCounters_parties (p : Port) (v : Counters) : (s.withCounters p v).parties = s.parties := rfl

@[simp] theorem State.withCounters_claim (p : Port) (v : Counters) : (s.withCounters p v).claim = s.claim := rfl

@[simp] theorem State.withCounters_settings (p : Port) (v : Counters) : (s.withCounters p v).settings = s.settings := rfl

@[simp] theorem State.withCounters_notices (p : Port) (v : Counters) : (s.withCounters p v).notices = s.notices := rfl

@[simp] theorem State.withCounters_choice (p : Port) (v : Counters) : (s.withCounters p v).choice = s.choice := rfl

@[simp] theorem State.withCounters_pending (p : Port) (v : Counters) : (s.withCounters p v).pending = s.pending := rfl

/-! ## withResponses -/

@[simp] theorem State.withResponses_resetnLow (p : Port) (v : List Response) : (s.withResponses p v).resetnLow = s.resetnLow := rfl

@[simp] theorem State.withResponses_strap (p : Port) (v : List Response) : (s.withResponses p v).strap = s.strap := rfl

@[simp] theorem State.withResponses_uStored (p : Port) (v : List Response) : (s.withResponses p v).uStored = s.uStored := rfl

@[simp] theorem State.withResponses_uInUse (p : Port) (v : List Response) : (s.withResponses p v).uInUse = s.uInUse := rfl

@[simp] theorem State.withResponses_lStored (p : Port) (v : List Response) : (s.withResponses p v).lStored = s.lStored := rfl

@[simp] theorem State.withResponses_lInUse (p : Port) (v : List Response) : (s.withResponses p v).lInUse = s.lInUse := rfl

@[simp] theorem State.withResponses_uTime (p : Port) (v : List Response) : (s.withResponses p v).uTime = s.uTime := rfl

@[simp] theorem State.withResponses_lTime (p : Port) (v : List Response) : (s.withResponses p v).lTime = s.lTime := rfl

@[simp] theorem State.withResponses_rx (p : Port) (v : List Response) : (s.withResponses p v).rx = s.rx := rfl

@[simp] theorem State.withResponses_tx (p : Port) (v : List Response) : (s.withResponses p v).tx = s.tx := rfl

@[simp] theorem State.withResponses_slotFlags (p : Port) (v : List Response) : (s.withResponses p v).slotFlags = s.slotFlags := rfl

@[simp] theorem State.withResponses_counters (p : Port) (v : List Response) : (s.withResponses p v).counters = s.counters := rfl

@[simp] theorem State.withResponses_responses (p : Port) (v : List Response) : (s.withResponses p v).responses = s.responses.set p v := rfl

@[simp] theorem State.withResponses_contexts (p : Port) (v : List Response) : (s.withResponses p v).contexts = s.contexts := rfl

@[simp] theorem State.withResponses_emitRecords (p : Port) (v : List Response) : (s.withResponses p v).emitRecords = s.emitRecords := rfl

@[simp] theorem State.withResponses_active (p : Port) (v : List Response) : (s.withResponses p v).active = s.active := rfl

@[simp] theorem State.withResponses_staged (p : Port) (v : List Response) : (s.withResponses p v).staged = s.staged := rfl

@[simp] theorem State.withResponses_captureOutcomes (p : Port) (v : List Response) : (s.withResponses p v).captureOutcomes = s.captureOutcomes := rfl

@[simp] theorem State.withResponses_emitOutcomes (p : Port) (v : List Response) : (s.withResponses p v).emitOutcomes = s.emitOutcomes := rfl

@[simp] theorem State.withResponses_generation (p : Port) (v : List Response) : (s.withResponses p v).generation = s.generation := rfl

@[simp] theorem State.withResponses_checkState (p : Port) (v : List Response) : (s.withResponses p v).checkState = s.checkState := rfl

@[simp] theorem State.withResponses_store (p : Port) (v : List Response) : (s.withResponses p v).store = s.store := rfl

@[simp] theorem State.withResponses_storeEpoch (p : Port) (v : List Response) : (s.withResponses p v).storeEpoch = s.storeEpoch := rfl

@[simp] theorem State.withResponses_mailboxes (p : Port) (v : List Response) : (s.withResponses p v).mailboxes = s.mailboxes := rfl

@[simp] theorem State.withResponses_queues (p : Port) (v : List Response) : (s.withResponses p v).queues = s.queues := rfl

@[simp] theorem State.withResponses_forwarding (p : Port) (v : List Response) : (s.withResponses p v).forwarding = s.forwarding := rfl

@[simp] theorem State.withResponses_parties (p : Port) (v : List Response) : (s.withResponses p v).parties = s.parties := rfl

@[simp] theorem State.withResponses_claim (p : Port) (v : List Response) : (s.withResponses p v).claim = s.claim := rfl

@[simp] theorem State.withResponses_settings (p : Port) (v : List Response) : (s.withResponses p v).settings = s.settings := rfl

@[simp] theorem State.withResponses_notices (p : Port) (v : List Response) : (s.withResponses p v).notices = s.notices := rfl

@[simp] theorem State.withResponses_choice (p : Port) (v : List Response) : (s.withResponses p v).choice = s.choice := rfl

@[simp] theorem State.withResponses_pending (p : Port) (v : List Response) : (s.withResponses p v).pending = s.pending := rfl

/-! ## withContext -/

@[simp] theorem State.withContext_resetnLow (p : Port) (v : Option CaptureContext) : (s.withContext p v).resetnLow = s.resetnLow := rfl

@[simp] theorem State.withContext_strap (p : Port) (v : Option CaptureContext) : (s.withContext p v).strap = s.strap := rfl

@[simp] theorem State.withContext_uStored (p : Port) (v : Option CaptureContext) : (s.withContext p v).uStored = s.uStored := rfl

@[simp] theorem State.withContext_uInUse (p : Port) (v : Option CaptureContext) : (s.withContext p v).uInUse = s.uInUse := rfl

@[simp] theorem State.withContext_lStored (p : Port) (v : Option CaptureContext) : (s.withContext p v).lStored = s.lStored := rfl

@[simp] theorem State.withContext_lInUse (p : Port) (v : Option CaptureContext) : (s.withContext p v).lInUse = s.lInUse := rfl

@[simp] theorem State.withContext_uTime (p : Port) (v : Option CaptureContext) : (s.withContext p v).uTime = s.uTime := rfl

@[simp] theorem State.withContext_lTime (p : Port) (v : Option CaptureContext) : (s.withContext p v).lTime = s.lTime := rfl

@[simp] theorem State.withContext_rx (p : Port) (v : Option CaptureContext) : (s.withContext p v).rx = s.rx := rfl

@[simp] theorem State.withContext_tx (p : Port) (v : Option CaptureContext) : (s.withContext p v).tx = s.tx := rfl

@[simp] theorem State.withContext_slotFlags (p : Port) (v : Option CaptureContext) : (s.withContext p v).slotFlags = s.slotFlags := rfl

@[simp] theorem State.withContext_counters (p : Port) (v : Option CaptureContext) : (s.withContext p v).counters = s.counters := rfl

@[simp] theorem State.withContext_responses (p : Port) (v : Option CaptureContext) : (s.withContext p v).responses = s.responses := rfl

@[simp] theorem State.withContext_contexts (p : Port) (v : Option CaptureContext) : (s.withContext p v).contexts = s.contexts.set p v := rfl

@[simp] theorem State.withContext_emitRecords (p : Port) (v : Option CaptureContext) : (s.withContext p v).emitRecords = s.emitRecords := rfl

@[simp] theorem State.withContext_active (p : Port) (v : Option CaptureContext) : (s.withContext p v).active = s.active := rfl

@[simp] theorem State.withContext_staged (p : Port) (v : Option CaptureContext) : (s.withContext p v).staged = s.staged := rfl

@[simp] theorem State.withContext_captureOutcomes (p : Port) (v : Option CaptureContext) : (s.withContext p v).captureOutcomes = s.captureOutcomes := rfl

@[simp] theorem State.withContext_emitOutcomes (p : Port) (v : Option CaptureContext) : (s.withContext p v).emitOutcomes = s.emitOutcomes := rfl

@[simp] theorem State.withContext_generation (p : Port) (v : Option CaptureContext) : (s.withContext p v).generation = s.generation := rfl

@[simp] theorem State.withContext_checkState (p : Port) (v : Option CaptureContext) : (s.withContext p v).checkState = s.checkState := rfl

@[simp] theorem State.withContext_store (p : Port) (v : Option CaptureContext) : (s.withContext p v).store = s.store := rfl

@[simp] theorem State.withContext_storeEpoch (p : Port) (v : Option CaptureContext) : (s.withContext p v).storeEpoch = s.storeEpoch := rfl

@[simp] theorem State.withContext_mailboxes (p : Port) (v : Option CaptureContext) : (s.withContext p v).mailboxes = s.mailboxes := rfl

@[simp] theorem State.withContext_queues (p : Port) (v : Option CaptureContext) : (s.withContext p v).queues = s.queues := rfl

@[simp] theorem State.withContext_forwarding (p : Port) (v : Option CaptureContext) : (s.withContext p v).forwarding = s.forwarding := rfl

@[simp] theorem State.withContext_parties (p : Port) (v : Option CaptureContext) : (s.withContext p v).parties = s.parties := rfl

@[simp] theorem State.withContext_claim (p : Port) (v : Option CaptureContext) : (s.withContext p v).claim = s.claim := rfl

@[simp] theorem State.withContext_settings (p : Port) (v : Option CaptureContext) : (s.withContext p v).settings = s.settings := rfl

@[simp] theorem State.withContext_notices (p : Port) (v : Option CaptureContext) : (s.withContext p v).notices = s.notices := rfl

@[simp] theorem State.withContext_choice (p : Port) (v : Option CaptureContext) : (s.withContext p v).choice = s.choice := rfl

@[simp] theorem State.withContext_pending (p : Port) (v : Option CaptureContext) : (s.withContext p v).pending = s.pending := rfl

/-! ## withEmitRecord -/

@[simp] theorem State.withEmitRecord_resetnLow (p : Port) (v : Option EmitRecord) : (s.withEmitRecord p v).resetnLow = s.resetnLow := rfl

@[simp] theorem State.withEmitRecord_strap (p : Port) (v : Option EmitRecord) : (s.withEmitRecord p v).strap = s.strap := rfl

@[simp] theorem State.withEmitRecord_uStored (p : Port) (v : Option EmitRecord) : (s.withEmitRecord p v).uStored = s.uStored := rfl

@[simp] theorem State.withEmitRecord_uInUse (p : Port) (v : Option EmitRecord) : (s.withEmitRecord p v).uInUse = s.uInUse := rfl

@[simp] theorem State.withEmitRecord_lStored (p : Port) (v : Option EmitRecord) : (s.withEmitRecord p v).lStored = s.lStored := rfl

@[simp] theorem State.withEmitRecord_lInUse (p : Port) (v : Option EmitRecord) : (s.withEmitRecord p v).lInUse = s.lInUse := rfl

@[simp] theorem State.withEmitRecord_uTime (p : Port) (v : Option EmitRecord) : (s.withEmitRecord p v).uTime = s.uTime := rfl

@[simp] theorem State.withEmitRecord_lTime (p : Port) (v : Option EmitRecord) : (s.withEmitRecord p v).lTime = s.lTime := rfl

@[simp] theorem State.withEmitRecord_rx (p : Port) (v : Option EmitRecord) : (s.withEmitRecord p v).rx = s.rx := rfl

@[simp] theorem State.withEmitRecord_tx (p : Port) (v : Option EmitRecord) : (s.withEmitRecord p v).tx = s.tx := rfl

@[simp] theorem State.withEmitRecord_slotFlags (p : Port) (v : Option EmitRecord) : (s.withEmitRecord p v).slotFlags = s.slotFlags := rfl

@[simp] theorem State.withEmitRecord_counters (p : Port) (v : Option EmitRecord) : (s.withEmitRecord p v).counters = s.counters := rfl

@[simp] theorem State.withEmitRecord_responses (p : Port) (v : Option EmitRecord) : (s.withEmitRecord p v).responses = s.responses := rfl

@[simp] theorem State.withEmitRecord_contexts (p : Port) (v : Option EmitRecord) : (s.withEmitRecord p v).contexts = s.contexts := rfl

@[simp] theorem State.withEmitRecord_emitRecords (p : Port) (v : Option EmitRecord) : (s.withEmitRecord p v).emitRecords = s.emitRecords.set p v := rfl

@[simp] theorem State.withEmitRecord_active (p : Port) (v : Option EmitRecord) : (s.withEmitRecord p v).active = s.active := rfl

@[simp] theorem State.withEmitRecord_staged (p : Port) (v : Option EmitRecord) : (s.withEmitRecord p v).staged = s.staged := rfl

@[simp] theorem State.withEmitRecord_captureOutcomes (p : Port) (v : Option EmitRecord) : (s.withEmitRecord p v).captureOutcomes = s.captureOutcomes := rfl

@[simp] theorem State.withEmitRecord_emitOutcomes (p : Port) (v : Option EmitRecord) : (s.withEmitRecord p v).emitOutcomes = s.emitOutcomes := rfl

@[simp] theorem State.withEmitRecord_generation (p : Port) (v : Option EmitRecord) : (s.withEmitRecord p v).generation = s.generation := rfl

@[simp] theorem State.withEmitRecord_checkState (p : Port) (v : Option EmitRecord) : (s.withEmitRecord p v).checkState = s.checkState := rfl

@[simp] theorem State.withEmitRecord_store (p : Port) (v : Option EmitRecord) : (s.withEmitRecord p v).store = s.store := rfl

@[simp] theorem State.withEmitRecord_storeEpoch (p : Port) (v : Option EmitRecord) : (s.withEmitRecord p v).storeEpoch = s.storeEpoch := rfl

@[simp] theorem State.withEmitRecord_mailboxes (p : Port) (v : Option EmitRecord) : (s.withEmitRecord p v).mailboxes = s.mailboxes := rfl

@[simp] theorem State.withEmitRecord_queues (p : Port) (v : Option EmitRecord) : (s.withEmitRecord p v).queues = s.queues := rfl

@[simp] theorem State.withEmitRecord_forwarding (p : Port) (v : Option EmitRecord) : (s.withEmitRecord p v).forwarding = s.forwarding := rfl

@[simp] theorem State.withEmitRecord_parties (p : Port) (v : Option EmitRecord) : (s.withEmitRecord p v).parties = s.parties := rfl

@[simp] theorem State.withEmitRecord_claim (p : Port) (v : Option EmitRecord) : (s.withEmitRecord p v).claim = s.claim := rfl

@[simp] theorem State.withEmitRecord_settings (p : Port) (v : Option EmitRecord) : (s.withEmitRecord p v).settings = s.settings := rfl

@[simp] theorem State.withEmitRecord_notices (p : Port) (v : Option EmitRecord) : (s.withEmitRecord p v).notices = s.notices := rfl

@[simp] theorem State.withEmitRecord_choice (p : Port) (v : Option EmitRecord) : (s.withEmitRecord p v).choice = s.choice := rfl

@[simp] theorem State.withEmitRecord_pending (p : Port) (v : Option EmitRecord) : (s.withEmitRecord p v).pending = s.pending := rfl

/-! ## withMailbox -/

@[simp] theorem State.withMailbox_resetnLow (n : Fin 64) (v : MailboxRt) : (s.withMailbox n v).resetnLow = s.resetnLow := rfl

@[simp] theorem State.withMailbox_strap (n : Fin 64) (v : MailboxRt) : (s.withMailbox n v).strap = s.strap := rfl

@[simp] theorem State.withMailbox_uStored (n : Fin 64) (v : MailboxRt) : (s.withMailbox n v).uStored = s.uStored := rfl

@[simp] theorem State.withMailbox_uInUse (n : Fin 64) (v : MailboxRt) : (s.withMailbox n v).uInUse = s.uInUse := rfl

@[simp] theorem State.withMailbox_lStored (n : Fin 64) (v : MailboxRt) : (s.withMailbox n v).lStored = s.lStored := rfl

@[simp] theorem State.withMailbox_lInUse (n : Fin 64) (v : MailboxRt) : (s.withMailbox n v).lInUse = s.lInUse := rfl

@[simp] theorem State.withMailbox_uTime (n : Fin 64) (v : MailboxRt) : (s.withMailbox n v).uTime = s.uTime := rfl

@[simp] theorem State.withMailbox_lTime (n : Fin 64) (v : MailboxRt) : (s.withMailbox n v).lTime = s.lTime := rfl

@[simp] theorem State.withMailbox_rx (n : Fin 64) (v : MailboxRt) : (s.withMailbox n v).rx = s.rx := rfl

@[simp] theorem State.withMailbox_tx (n : Fin 64) (v : MailboxRt) : (s.withMailbox n v).tx = s.tx := rfl

@[simp] theorem State.withMailbox_slotFlags (n : Fin 64) (v : MailboxRt) : (s.withMailbox n v).slotFlags = s.slotFlags := rfl

@[simp] theorem State.withMailbox_counters (n : Fin 64) (v : MailboxRt) : (s.withMailbox n v).counters = s.counters := rfl

@[simp] theorem State.withMailbox_responses (n : Fin 64) (v : MailboxRt) : (s.withMailbox n v).responses = s.responses := rfl

@[simp] theorem State.withMailbox_contexts (n : Fin 64) (v : MailboxRt) : (s.withMailbox n v).contexts = s.contexts := rfl

@[simp] theorem State.withMailbox_emitRecords (n : Fin 64) (v : MailboxRt) : (s.withMailbox n v).emitRecords = s.emitRecords := rfl

@[simp] theorem State.withMailbox_active (n : Fin 64) (v : MailboxRt) : (s.withMailbox n v).active = s.active := rfl

@[simp] theorem State.withMailbox_staged (n : Fin 64) (v : MailboxRt) : (s.withMailbox n v).staged = s.staged := rfl

@[simp] theorem State.withMailbox_captureOutcomes (n : Fin 64) (v : MailboxRt) : (s.withMailbox n v).captureOutcomes = s.captureOutcomes := rfl

@[simp] theorem State.withMailbox_emitOutcomes (n : Fin 64) (v : MailboxRt) : (s.withMailbox n v).emitOutcomes = s.emitOutcomes := rfl

@[simp] theorem State.withMailbox_generation (n : Fin 64) (v : MailboxRt) : (s.withMailbox n v).generation = s.generation := rfl

@[simp] theorem State.withMailbox_checkState (n : Fin 64) (v : MailboxRt) : (s.withMailbox n v).checkState = s.checkState := rfl

@[simp] theorem State.withMailbox_store (n : Fin 64) (v : MailboxRt) : (s.withMailbox n v).store = s.store := rfl

@[simp] theorem State.withMailbox_storeEpoch (n : Fin 64) (v : MailboxRt) : (s.withMailbox n v).storeEpoch = s.storeEpoch := rfl

@[simp] theorem State.withMailbox_mailboxes (n : Fin 64) (v : MailboxRt) : (s.withMailbox n v).mailboxes = s.mailboxes.set n.val v := rfl

@[simp] theorem State.withMailbox_queues (n : Fin 64) (v : MailboxRt) : (s.withMailbox n v).queues = s.queues := rfl

@[simp] theorem State.withMailbox_forwarding (n : Fin 64) (v : MailboxRt) : (s.withMailbox n v).forwarding = s.forwarding := rfl

@[simp] theorem State.withMailbox_parties (n : Fin 64) (v : MailboxRt) : (s.withMailbox n v).parties = s.parties := rfl

@[simp] theorem State.withMailbox_claim (n : Fin 64) (v : MailboxRt) : (s.withMailbox n v).claim = s.claim := rfl

@[simp] theorem State.withMailbox_settings (n : Fin 64) (v : MailboxRt) : (s.withMailbox n v).settings = s.settings := rfl

@[simp] theorem State.withMailbox_notices (n : Fin 64) (v : MailboxRt) : (s.withMailbox n v).notices = s.notices := rfl

@[simp] theorem State.withMailbox_choice (n : Fin 64) (v : MailboxRt) : (s.withMailbox n v).choice = s.choice := rfl

@[simp] theorem State.withMailbox_pending (n : Fin 64) (v : MailboxRt) : (s.withMailbox n v).pending = s.pending := rfl

/-! ## withQueue -/

@[simp] theorem State.withQueue_resetnLow (n : Fin 8) (v : QueueRt) : (s.withQueue n v).resetnLow = s.resetnLow := rfl

@[simp] theorem State.withQueue_strap (n : Fin 8) (v : QueueRt) : (s.withQueue n v).strap = s.strap := rfl

@[simp] theorem State.withQueue_uStored (n : Fin 8) (v : QueueRt) : (s.withQueue n v).uStored = s.uStored := rfl

@[simp] theorem State.withQueue_uInUse (n : Fin 8) (v : QueueRt) : (s.withQueue n v).uInUse = s.uInUse := rfl

@[simp] theorem State.withQueue_lStored (n : Fin 8) (v : QueueRt) : (s.withQueue n v).lStored = s.lStored := rfl

@[simp] theorem State.withQueue_lInUse (n : Fin 8) (v : QueueRt) : (s.withQueue n v).lInUse = s.lInUse := rfl

@[simp] theorem State.withQueue_uTime (n : Fin 8) (v : QueueRt) : (s.withQueue n v).uTime = s.uTime := rfl

@[simp] theorem State.withQueue_lTime (n : Fin 8) (v : QueueRt) : (s.withQueue n v).lTime = s.lTime := rfl

@[simp] theorem State.withQueue_rx (n : Fin 8) (v : QueueRt) : (s.withQueue n v).rx = s.rx := rfl

@[simp] theorem State.withQueue_tx (n : Fin 8) (v : QueueRt) : (s.withQueue n v).tx = s.tx := rfl

@[simp] theorem State.withQueue_slotFlags (n : Fin 8) (v : QueueRt) : (s.withQueue n v).slotFlags = s.slotFlags := rfl

@[simp] theorem State.withQueue_counters (n : Fin 8) (v : QueueRt) : (s.withQueue n v).counters = s.counters := rfl

@[simp] theorem State.withQueue_responses (n : Fin 8) (v : QueueRt) : (s.withQueue n v).responses = s.responses := rfl

@[simp] theorem State.withQueue_contexts (n : Fin 8) (v : QueueRt) : (s.withQueue n v).contexts = s.contexts := rfl

@[simp] theorem State.withQueue_emitRecords (n : Fin 8) (v : QueueRt) : (s.withQueue n v).emitRecords = s.emitRecords := rfl

@[simp] theorem State.withQueue_active (n : Fin 8) (v : QueueRt) : (s.withQueue n v).active = s.active := rfl

@[simp] theorem State.withQueue_staged (n : Fin 8) (v : QueueRt) : (s.withQueue n v).staged = s.staged := rfl

@[simp] theorem State.withQueue_captureOutcomes (n : Fin 8) (v : QueueRt) : (s.withQueue n v).captureOutcomes = s.captureOutcomes := rfl

@[simp] theorem State.withQueue_emitOutcomes (n : Fin 8) (v : QueueRt) : (s.withQueue n v).emitOutcomes = s.emitOutcomes := rfl

@[simp] theorem State.withQueue_generation (n : Fin 8) (v : QueueRt) : (s.withQueue n v).generation = s.generation := rfl

@[simp] theorem State.withQueue_checkState (n : Fin 8) (v : QueueRt) : (s.withQueue n v).checkState = s.checkState := rfl

@[simp] theorem State.withQueue_store (n : Fin 8) (v : QueueRt) : (s.withQueue n v).store = s.store := rfl

@[simp] theorem State.withQueue_storeEpoch (n : Fin 8) (v : QueueRt) : (s.withQueue n v).storeEpoch = s.storeEpoch := rfl

@[simp] theorem State.withQueue_mailboxes (n : Fin 8) (v : QueueRt) : (s.withQueue n v).mailboxes = s.mailboxes := rfl

@[simp] theorem State.withQueue_queues (n : Fin 8) (v : QueueRt) : (s.withQueue n v).queues = s.queues.set n.val v := rfl

@[simp] theorem State.withQueue_forwarding (n : Fin 8) (v : QueueRt) : (s.withQueue n v).forwarding = s.forwarding := rfl

@[simp] theorem State.withQueue_parties (n : Fin 8) (v : QueueRt) : (s.withQueue n v).parties = s.parties := rfl

@[simp] theorem State.withQueue_claim (n : Fin 8) (v : QueueRt) : (s.withQueue n v).claim = s.claim := rfl

@[simp] theorem State.withQueue_settings (n : Fin 8) (v : QueueRt) : (s.withQueue n v).settings = s.settings := rfl

@[simp] theorem State.withQueue_notices (n : Fin 8) (v : QueueRt) : (s.withQueue n v).notices = s.notices := rfl

@[simp] theorem State.withQueue_choice (n : Fin 8) (v : QueueRt) : (s.withQueue n v).choice = s.choice := rfl

@[simp] theorem State.withQueue_pending (n : Fin 8) (v : QueueRt) : (s.withQueue n v).pending = s.pending := rfl

/-! ## withParty -/

@[simp] theorem State.withParty_resetnLow (i : Fin 8) (v : Option Party) : (s.withParty i v).resetnLow = s.resetnLow := rfl

@[simp] theorem State.withParty_strap (i : Fin 8) (v : Option Party) : (s.withParty i v).strap = s.strap := rfl

@[simp] theorem State.withParty_uStored (i : Fin 8) (v : Option Party) : (s.withParty i v).uStored = s.uStored := rfl

@[simp] theorem State.withParty_uInUse (i : Fin 8) (v : Option Party) : (s.withParty i v).uInUse = s.uInUse := rfl

@[simp] theorem State.withParty_lStored (i : Fin 8) (v : Option Party) : (s.withParty i v).lStored = s.lStored := rfl

@[simp] theorem State.withParty_lInUse (i : Fin 8) (v : Option Party) : (s.withParty i v).lInUse = s.lInUse := rfl

@[simp] theorem State.withParty_uTime (i : Fin 8) (v : Option Party) : (s.withParty i v).uTime = s.uTime := rfl

@[simp] theorem State.withParty_lTime (i : Fin 8) (v : Option Party) : (s.withParty i v).lTime = s.lTime := rfl

@[simp] theorem State.withParty_rx (i : Fin 8) (v : Option Party) : (s.withParty i v).rx = s.rx := rfl

@[simp] theorem State.withParty_tx (i : Fin 8) (v : Option Party) : (s.withParty i v).tx = s.tx := rfl

@[simp] theorem State.withParty_slotFlags (i : Fin 8) (v : Option Party) : (s.withParty i v).slotFlags = s.slotFlags := rfl

@[simp] theorem State.withParty_counters (i : Fin 8) (v : Option Party) : (s.withParty i v).counters = s.counters := rfl

@[simp] theorem State.withParty_responses (i : Fin 8) (v : Option Party) : (s.withParty i v).responses = s.responses := rfl

@[simp] theorem State.withParty_contexts (i : Fin 8) (v : Option Party) : (s.withParty i v).contexts = s.contexts := rfl

@[simp] theorem State.withParty_emitRecords (i : Fin 8) (v : Option Party) : (s.withParty i v).emitRecords = s.emitRecords := rfl

@[simp] theorem State.withParty_active (i : Fin 8) (v : Option Party) : (s.withParty i v).active = s.active := rfl

@[simp] theorem State.withParty_staged (i : Fin 8) (v : Option Party) : (s.withParty i v).staged = s.staged := rfl

@[simp] theorem State.withParty_captureOutcomes (i : Fin 8) (v : Option Party) : (s.withParty i v).captureOutcomes = s.captureOutcomes := rfl

@[simp] theorem State.withParty_emitOutcomes (i : Fin 8) (v : Option Party) : (s.withParty i v).emitOutcomes = s.emitOutcomes := rfl

@[simp] theorem State.withParty_generation (i : Fin 8) (v : Option Party) : (s.withParty i v).generation = s.generation := rfl

@[simp] theorem State.withParty_checkState (i : Fin 8) (v : Option Party) : (s.withParty i v).checkState = s.checkState := rfl

@[simp] theorem State.withParty_store (i : Fin 8) (v : Option Party) : (s.withParty i v).store = s.store := rfl

@[simp] theorem State.withParty_storeEpoch (i : Fin 8) (v : Option Party) : (s.withParty i v).storeEpoch = s.storeEpoch := rfl

@[simp] theorem State.withParty_mailboxes (i : Fin 8) (v : Option Party) : (s.withParty i v).mailboxes = s.mailboxes := rfl

@[simp] theorem State.withParty_queues (i : Fin 8) (v : Option Party) : (s.withParty i v).queues = s.queues := rfl

@[simp] theorem State.withParty_forwarding (i : Fin 8) (v : Option Party) : (s.withParty i v).forwarding = s.forwarding := rfl

@[simp] theorem State.withParty_parties (i : Fin 8) (v : Option Party) : (s.withParty i v).parties = s.parties.set i.val v := rfl

@[simp] theorem State.withParty_claim (i : Fin 8) (v : Option Party) : (s.withParty i v).claim = s.claim := rfl

@[simp] theorem State.withParty_settings (i : Fin 8) (v : Option Party) : (s.withParty i v).settings = s.settings := rfl

@[simp] theorem State.withParty_notices (i : Fin 8) (v : Option Party) : (s.withParty i v).notices = s.notices := rfl

@[simp] theorem State.withParty_choice (i : Fin 8) (v : Option Party) : (s.withParty i v).choice = s.choice := rfl

@[simp] theorem State.withParty_pending (i : Fin 8) (v : Option Party) : (s.withParty i v).pending = s.pending := rfl

/-! ## withUTime -/

@[simp] theorem State.withUTime_resetnLow (v : UplinkRecord) : (s.withUTime v).resetnLow = s.resetnLow := rfl

@[simp] theorem State.withUTime_strap (v : UplinkRecord) : (s.withUTime v).strap = s.strap := rfl

@[simp] theorem State.withUTime_uStored (v : UplinkRecord) : (s.withUTime v).uStored = s.uStored := rfl

@[simp] theorem State.withUTime_uInUse (v : UplinkRecord) : (s.withUTime v).uInUse = s.uInUse := rfl

@[simp] theorem State.withUTime_lStored (v : UplinkRecord) : (s.withUTime v).lStored = s.lStored := rfl

@[simp] theorem State.withUTime_lInUse (v : UplinkRecord) : (s.withUTime v).lInUse = s.lInUse := rfl

@[simp] theorem State.withUTime_uTime (v : UplinkRecord) : (s.withUTime v).uTime = v := rfl

@[simp] theorem State.withUTime_lTime (v : UplinkRecord) : (s.withUTime v).lTime = s.lTime := rfl

@[simp] theorem State.withUTime_rx (v : UplinkRecord) : (s.withUTime v).rx = s.rx := rfl

@[simp] theorem State.withUTime_tx (v : UplinkRecord) : (s.withUTime v).tx = s.tx := rfl

@[simp] theorem State.withUTime_slotFlags (v : UplinkRecord) : (s.withUTime v).slotFlags = s.slotFlags := rfl

@[simp] theorem State.withUTime_counters (v : UplinkRecord) : (s.withUTime v).counters = s.counters := rfl

@[simp] theorem State.withUTime_responses (v : UplinkRecord) : (s.withUTime v).responses = s.responses := rfl

@[simp] theorem State.withUTime_contexts (v : UplinkRecord) : (s.withUTime v).contexts = s.contexts := rfl

@[simp] theorem State.withUTime_emitRecords (v : UplinkRecord) : (s.withUTime v).emitRecords = s.emitRecords := rfl

@[simp] theorem State.withUTime_active (v : UplinkRecord) : (s.withUTime v).active = s.active := rfl

@[simp] theorem State.withUTime_staged (v : UplinkRecord) : (s.withUTime v).staged = s.staged := rfl

@[simp] theorem State.withUTime_captureOutcomes (v : UplinkRecord) : (s.withUTime v).captureOutcomes = s.captureOutcomes := rfl

@[simp] theorem State.withUTime_emitOutcomes (v : UplinkRecord) : (s.withUTime v).emitOutcomes = s.emitOutcomes := rfl

@[simp] theorem State.withUTime_generation (v : UplinkRecord) : (s.withUTime v).generation = s.generation := rfl

@[simp] theorem State.withUTime_checkState (v : UplinkRecord) : (s.withUTime v).checkState = s.checkState := rfl

@[simp] theorem State.withUTime_store (v : UplinkRecord) : (s.withUTime v).store = s.store := rfl

@[simp] theorem State.withUTime_storeEpoch (v : UplinkRecord) : (s.withUTime v).storeEpoch = s.storeEpoch := rfl

@[simp] theorem State.withUTime_mailboxes (v : UplinkRecord) : (s.withUTime v).mailboxes = s.mailboxes := rfl

@[simp] theorem State.withUTime_queues (v : UplinkRecord) : (s.withUTime v).queues = s.queues := rfl

@[simp] theorem State.withUTime_forwarding (v : UplinkRecord) : (s.withUTime v).forwarding = s.forwarding := rfl

@[simp] theorem State.withUTime_parties (v : UplinkRecord) : (s.withUTime v).parties = s.parties := rfl

@[simp] theorem State.withUTime_claim (v : UplinkRecord) : (s.withUTime v).claim = s.claim := rfl

@[simp] theorem State.withUTime_settings (v : UplinkRecord) : (s.withUTime v).settings = s.settings := rfl

@[simp] theorem State.withUTime_notices (v : UplinkRecord) : (s.withUTime v).notices = s.notices := rfl

@[simp] theorem State.withUTime_choice (v : UplinkRecord) : (s.withUTime v).choice = s.choice := rfl

@[simp] theorem State.withUTime_pending (v : UplinkRecord) : (s.withUTime v).pending = s.pending := rfl

/-! ## withLTime -/

@[simp] theorem State.withLTime_resetnLow (v : LocalRecord) : (s.withLTime v).resetnLow = s.resetnLow := rfl

@[simp] theorem State.withLTime_strap (v : LocalRecord) : (s.withLTime v).strap = s.strap := rfl

@[simp] theorem State.withLTime_uStored (v : LocalRecord) : (s.withLTime v).uStored = s.uStored := rfl

@[simp] theorem State.withLTime_uInUse (v : LocalRecord) : (s.withLTime v).uInUse = s.uInUse := rfl

@[simp] theorem State.withLTime_lStored (v : LocalRecord) : (s.withLTime v).lStored = s.lStored := rfl

@[simp] theorem State.withLTime_lInUse (v : LocalRecord) : (s.withLTime v).lInUse = s.lInUse := rfl

@[simp] theorem State.withLTime_uTime (v : LocalRecord) : (s.withLTime v).uTime = s.uTime := rfl

@[simp] theorem State.withLTime_lTime (v : LocalRecord) : (s.withLTime v).lTime = v := rfl

@[simp] theorem State.withLTime_rx (v : LocalRecord) : (s.withLTime v).rx = s.rx := rfl

@[simp] theorem State.withLTime_tx (v : LocalRecord) : (s.withLTime v).tx = s.tx := rfl

@[simp] theorem State.withLTime_slotFlags (v : LocalRecord) : (s.withLTime v).slotFlags = s.slotFlags := rfl

@[simp] theorem State.withLTime_counters (v : LocalRecord) : (s.withLTime v).counters = s.counters := rfl

@[simp] theorem State.withLTime_responses (v : LocalRecord) : (s.withLTime v).responses = s.responses := rfl

@[simp] theorem State.withLTime_contexts (v : LocalRecord) : (s.withLTime v).contexts = s.contexts := rfl

@[simp] theorem State.withLTime_emitRecords (v : LocalRecord) : (s.withLTime v).emitRecords = s.emitRecords := rfl

@[simp] theorem State.withLTime_active (v : LocalRecord) : (s.withLTime v).active = s.active := rfl

@[simp] theorem State.withLTime_staged (v : LocalRecord) : (s.withLTime v).staged = s.staged := rfl

@[simp] theorem State.withLTime_captureOutcomes (v : LocalRecord) : (s.withLTime v).captureOutcomes = s.captureOutcomes := rfl

@[simp] theorem State.withLTime_emitOutcomes (v : LocalRecord) : (s.withLTime v).emitOutcomes = s.emitOutcomes := rfl

@[simp] theorem State.withLTime_generation (v : LocalRecord) : (s.withLTime v).generation = s.generation := rfl

@[simp] theorem State.withLTime_checkState (v : LocalRecord) : (s.withLTime v).checkState = s.checkState := rfl

@[simp] theorem State.withLTime_store (v : LocalRecord) : (s.withLTime v).store = s.store := rfl

@[simp] theorem State.withLTime_storeEpoch (v : LocalRecord) : (s.withLTime v).storeEpoch = s.storeEpoch := rfl

@[simp] theorem State.withLTime_mailboxes (v : LocalRecord) : (s.withLTime v).mailboxes = s.mailboxes := rfl

@[simp] theorem State.withLTime_queues (v : LocalRecord) : (s.withLTime v).queues = s.queues := rfl

@[simp] theorem State.withLTime_forwarding (v : LocalRecord) : (s.withLTime v).forwarding = s.forwarding := rfl

@[simp] theorem State.withLTime_parties (v : LocalRecord) : (s.withLTime v).parties = s.parties := rfl

@[simp] theorem State.withLTime_claim (v : LocalRecord) : (s.withLTime v).claim = s.claim := rfl

@[simp] theorem State.withLTime_settings (v : LocalRecord) : (s.withLTime v).settings = s.settings := rfl

@[simp] theorem State.withLTime_notices (v : LocalRecord) : (s.withLTime v).notices = s.notices := rfl

@[simp] theorem State.withLTime_choice (v : LocalRecord) : (s.withLTime v).choice = s.choice := rfl

@[simp] theorem State.withLTime_pending (v : LocalRecord) : (s.withLTime v).pending = s.pending := rfl

/-! ## withNotices -/

@[simp] theorem State.withNotices_resetnLow (v : NoticeUnit) : (s.withNotices v).resetnLow = s.resetnLow := rfl

@[simp] theorem State.withNotices_strap (v : NoticeUnit) : (s.withNotices v).strap = s.strap := rfl

@[simp] theorem State.withNotices_uStored (v : NoticeUnit) : (s.withNotices v).uStored = s.uStored := rfl

@[simp] theorem State.withNotices_uInUse (v : NoticeUnit) : (s.withNotices v).uInUse = s.uInUse := rfl

@[simp] theorem State.withNotices_lStored (v : NoticeUnit) : (s.withNotices v).lStored = s.lStored := rfl

@[simp] theorem State.withNotices_lInUse (v : NoticeUnit) : (s.withNotices v).lInUse = s.lInUse := rfl

@[simp] theorem State.withNotices_uTime (v : NoticeUnit) : (s.withNotices v).uTime = s.uTime := rfl

@[simp] theorem State.withNotices_lTime (v : NoticeUnit) : (s.withNotices v).lTime = s.lTime := rfl

@[simp] theorem State.withNotices_rx (v : NoticeUnit) : (s.withNotices v).rx = s.rx := rfl

@[simp] theorem State.withNotices_tx (v : NoticeUnit) : (s.withNotices v).tx = s.tx := rfl

@[simp] theorem State.withNotices_slotFlags (v : NoticeUnit) : (s.withNotices v).slotFlags = s.slotFlags := rfl

@[simp] theorem State.withNotices_counters (v : NoticeUnit) : (s.withNotices v).counters = s.counters := rfl

@[simp] theorem State.withNotices_responses (v : NoticeUnit) : (s.withNotices v).responses = s.responses := rfl

@[simp] theorem State.withNotices_contexts (v : NoticeUnit) : (s.withNotices v).contexts = s.contexts := rfl

@[simp] theorem State.withNotices_emitRecords (v : NoticeUnit) : (s.withNotices v).emitRecords = s.emitRecords := rfl

@[simp] theorem State.withNotices_active (v : NoticeUnit) : (s.withNotices v).active = s.active := rfl

@[simp] theorem State.withNotices_staged (v : NoticeUnit) : (s.withNotices v).staged = s.staged := rfl

@[simp] theorem State.withNotices_captureOutcomes (v : NoticeUnit) : (s.withNotices v).captureOutcomes = s.captureOutcomes := rfl

@[simp] theorem State.withNotices_emitOutcomes (v : NoticeUnit) : (s.withNotices v).emitOutcomes = s.emitOutcomes := rfl

@[simp] theorem State.withNotices_generation (v : NoticeUnit) : (s.withNotices v).generation = s.generation := rfl

@[simp] theorem State.withNotices_checkState (v : NoticeUnit) : (s.withNotices v).checkState = s.checkState := rfl

@[simp] theorem State.withNotices_store (v : NoticeUnit) : (s.withNotices v).store = s.store := rfl

@[simp] theorem State.withNotices_storeEpoch (v : NoticeUnit) : (s.withNotices v).storeEpoch = s.storeEpoch := rfl

@[simp] theorem State.withNotices_mailboxes (v : NoticeUnit) : (s.withNotices v).mailboxes = s.mailboxes := rfl

@[simp] theorem State.withNotices_queues (v : NoticeUnit) : (s.withNotices v).queues = s.queues := rfl

@[simp] theorem State.withNotices_forwarding (v : NoticeUnit) : (s.withNotices v).forwarding = s.forwarding := rfl

@[simp] theorem State.withNotices_parties (v : NoticeUnit) : (s.withNotices v).parties = s.parties := rfl

@[simp] theorem State.withNotices_claim (v : NoticeUnit) : (s.withNotices v).claim = s.claim := rfl

@[simp] theorem State.withNotices_settings (v : NoticeUnit) : (s.withNotices v).settings = s.settings := rfl

@[simp] theorem State.withNotices_notices (v : NoticeUnit) : (s.withNotices v).notices = v := rfl

@[simp] theorem State.withNotices_choice (v : NoticeUnit) : (s.withNotices v).choice = s.choice := rfl

@[simp] theorem State.withNotices_pending (v : NoticeUnit) : (s.withNotices v).pending = s.pending := rfl

/-! ## withStore -/

@[simp] theorem State.withStore_resetnLow (v : Store) : (s.withStore v).resetnLow = s.resetnLow := rfl

@[simp] theorem State.withStore_strap (v : Store) : (s.withStore v).strap = s.strap := rfl

@[simp] theorem State.withStore_uStored (v : Store) : (s.withStore v).uStored = s.uStored := rfl

@[simp] theorem State.withStore_uInUse (v : Store) : (s.withStore v).uInUse = s.uInUse := rfl

@[simp] theorem State.withStore_lStored (v : Store) : (s.withStore v).lStored = s.lStored := rfl

@[simp] theorem State.withStore_lInUse (v : Store) : (s.withStore v).lInUse = s.lInUse := rfl

@[simp] theorem State.withStore_uTime (v : Store) : (s.withStore v).uTime = s.uTime := rfl

@[simp] theorem State.withStore_lTime (v : Store) : (s.withStore v).lTime = s.lTime := rfl

@[simp] theorem State.withStore_rx (v : Store) : (s.withStore v).rx = s.rx := rfl

@[simp] theorem State.withStore_tx (v : Store) : (s.withStore v).tx = s.tx := rfl

@[simp] theorem State.withStore_slotFlags (v : Store) : (s.withStore v).slotFlags = s.slotFlags := rfl

@[simp] theorem State.withStore_counters (v : Store) : (s.withStore v).counters = s.counters := rfl

@[simp] theorem State.withStore_responses (v : Store) : (s.withStore v).responses = s.responses := rfl

@[simp] theorem State.withStore_contexts (v : Store) : (s.withStore v).contexts = s.contexts := rfl

@[simp] theorem State.withStore_emitRecords (v : Store) : (s.withStore v).emitRecords = s.emitRecords := rfl

@[simp] theorem State.withStore_active (v : Store) : (s.withStore v).active = s.active := rfl

@[simp] theorem State.withStore_staged (v : Store) : (s.withStore v).staged = s.staged := rfl

@[simp] theorem State.withStore_captureOutcomes (v : Store) : (s.withStore v).captureOutcomes = s.captureOutcomes := rfl

@[simp] theorem State.withStore_emitOutcomes (v : Store) : (s.withStore v).emitOutcomes = s.emitOutcomes := rfl

@[simp] theorem State.withStore_generation (v : Store) : (s.withStore v).generation = s.generation := rfl

@[simp] theorem State.withStore_checkState (v : Store) : (s.withStore v).checkState = s.checkState := rfl

@[simp] theorem State.withStore_store (v : Store) : (s.withStore v).store = v := rfl

@[simp] theorem State.withStore_storeEpoch (v : Store) : (s.withStore v).storeEpoch = s.storeEpoch := rfl

@[simp] theorem State.withStore_mailboxes (v : Store) : (s.withStore v).mailboxes = s.mailboxes := rfl

@[simp] theorem State.withStore_queues (v : Store) : (s.withStore v).queues = s.queues := rfl

@[simp] theorem State.withStore_forwarding (v : Store) : (s.withStore v).forwarding = s.forwarding := rfl

@[simp] theorem State.withStore_parties (v : Store) : (s.withStore v).parties = s.parties := rfl

@[simp] theorem State.withStore_claim (v : Store) : (s.withStore v).claim = s.claim := rfl

@[simp] theorem State.withStore_settings (v : Store) : (s.withStore v).settings = s.settings := rfl

@[simp] theorem State.withStore_notices (v : Store) : (s.withStore v).notices = s.notices := rfl

@[simp] theorem State.withStore_choice (v : Store) : (s.withStore v).choice = s.choice := rfl

@[simp] theorem State.withStore_pending (v : Store) : (s.withStore v).pending = s.pending := rfl

/-! ## withCheck -/

@[simp] theorem State.withCheck_resetnLow (v : CheckState) : (s.withCheck v).resetnLow = s.resetnLow := rfl

@[simp] theorem State.withCheck_strap (v : CheckState) : (s.withCheck v).strap = s.strap := rfl

@[simp] theorem State.withCheck_uStored (v : CheckState) : (s.withCheck v).uStored = s.uStored := rfl

@[simp] theorem State.withCheck_uInUse (v : CheckState) : (s.withCheck v).uInUse = s.uInUse := rfl

@[simp] theorem State.withCheck_lStored (v : CheckState) : (s.withCheck v).lStored = s.lStored := rfl

@[simp] theorem State.withCheck_lInUse (v : CheckState) : (s.withCheck v).lInUse = s.lInUse := rfl

@[simp] theorem State.withCheck_uTime (v : CheckState) : (s.withCheck v).uTime = s.uTime := rfl

@[simp] theorem State.withCheck_lTime (v : CheckState) : (s.withCheck v).lTime = s.lTime := rfl

@[simp] theorem State.withCheck_rx (v : CheckState) : (s.withCheck v).rx = s.rx := rfl

@[simp] theorem State.withCheck_tx (v : CheckState) : (s.withCheck v).tx = s.tx := rfl

@[simp] theorem State.withCheck_slotFlags (v : CheckState) : (s.withCheck v).slotFlags = s.slotFlags := rfl

@[simp] theorem State.withCheck_counters (v : CheckState) : (s.withCheck v).counters = s.counters := rfl

@[simp] theorem State.withCheck_responses (v : CheckState) : (s.withCheck v).responses = s.responses := rfl

@[simp] theorem State.withCheck_contexts (v : CheckState) : (s.withCheck v).contexts = s.contexts := rfl

@[simp] theorem State.withCheck_emitRecords (v : CheckState) : (s.withCheck v).emitRecords = s.emitRecords := rfl

@[simp] theorem State.withCheck_active (v : CheckState) : (s.withCheck v).active = s.active := rfl

@[simp] theorem State.withCheck_staged (v : CheckState) : (s.withCheck v).staged = s.staged := rfl

@[simp] theorem State.withCheck_captureOutcomes (v : CheckState) : (s.withCheck v).captureOutcomes = s.captureOutcomes := rfl

@[simp] theorem State.withCheck_emitOutcomes (v : CheckState) : (s.withCheck v).emitOutcomes = s.emitOutcomes := rfl

@[simp] theorem State.withCheck_generation (v : CheckState) : (s.withCheck v).generation = s.generation := rfl

@[simp] theorem State.withCheck_checkState (v : CheckState) : (s.withCheck v).checkState = v := rfl

@[simp] theorem State.withCheck_store (v : CheckState) : (s.withCheck v).store = s.store := rfl

@[simp] theorem State.withCheck_storeEpoch (v : CheckState) : (s.withCheck v).storeEpoch = s.storeEpoch := rfl

@[simp] theorem State.withCheck_mailboxes (v : CheckState) : (s.withCheck v).mailboxes = s.mailboxes := rfl

@[simp] theorem State.withCheck_queues (v : CheckState) : (s.withCheck v).queues = s.queues := rfl

@[simp] theorem State.withCheck_forwarding (v : CheckState) : (s.withCheck v).forwarding = s.forwarding := rfl

@[simp] theorem State.withCheck_parties (v : CheckState) : (s.withCheck v).parties = s.parties := rfl

@[simp] theorem State.withCheck_claim (v : CheckState) : (s.withCheck v).claim = s.claim := rfl

@[simp] theorem State.withCheck_settings (v : CheckState) : (s.withCheck v).settings = s.settings := rfl

@[simp] theorem State.withCheck_notices (v : CheckState) : (s.withCheck v).notices = s.notices := rfl

@[simp] theorem State.withCheck_choice (v : CheckState) : (s.withCheck v).choice = s.choice := rfl

@[simp] theorem State.withCheck_pending (v : CheckState) : (s.withCheck v).pending = s.pending := rfl

/-! ## withClaim -/

@[simp] theorem State.withClaim_resetnLow (v : Option PartyId) : (s.withClaim v).resetnLow = s.resetnLow := rfl

@[simp] theorem State.withClaim_strap (v : Option PartyId) : (s.withClaim v).strap = s.strap := rfl

@[simp] theorem State.withClaim_uStored (v : Option PartyId) : (s.withClaim v).uStored = s.uStored := rfl

@[simp] theorem State.withClaim_uInUse (v : Option PartyId) : (s.withClaim v).uInUse = s.uInUse := rfl

@[simp] theorem State.withClaim_lStored (v : Option PartyId) : (s.withClaim v).lStored = s.lStored := rfl

@[simp] theorem State.withClaim_lInUse (v : Option PartyId) : (s.withClaim v).lInUse = s.lInUse := rfl

@[simp] theorem State.withClaim_uTime (v : Option PartyId) : (s.withClaim v).uTime = s.uTime := rfl

@[simp] theorem State.withClaim_lTime (v : Option PartyId) : (s.withClaim v).lTime = s.lTime := rfl

@[simp] theorem State.withClaim_rx (v : Option PartyId) : (s.withClaim v).rx = s.rx := rfl

@[simp] theorem State.withClaim_tx (v : Option PartyId) : (s.withClaim v).tx = s.tx := rfl

@[simp] theorem State.withClaim_slotFlags (v : Option PartyId) : (s.withClaim v).slotFlags = s.slotFlags := rfl

@[simp] theorem State.withClaim_counters (v : Option PartyId) : (s.withClaim v).counters = s.counters := rfl

@[simp] theorem State.withClaim_responses (v : Option PartyId) : (s.withClaim v).responses = s.responses := rfl

@[simp] theorem State.withClaim_contexts (v : Option PartyId) : (s.withClaim v).contexts = s.contexts := rfl

@[simp] theorem State.withClaim_emitRecords (v : Option PartyId) : (s.withClaim v).emitRecords = s.emitRecords := rfl

@[simp] theorem State.withClaim_active (v : Option PartyId) : (s.withClaim v).active = s.active := rfl

@[simp] theorem State.withClaim_staged (v : Option PartyId) : (s.withClaim v).staged = s.staged := rfl

@[simp] theorem State.withClaim_captureOutcomes (v : Option PartyId) : (s.withClaim v).captureOutcomes = s.captureOutcomes := rfl

@[simp] theorem State.withClaim_emitOutcomes (v : Option PartyId) : (s.withClaim v).emitOutcomes = s.emitOutcomes := rfl

@[simp] theorem State.withClaim_generation (v : Option PartyId) : (s.withClaim v).generation = s.generation := rfl

@[simp] theorem State.withClaim_checkState (v : Option PartyId) : (s.withClaim v).checkState = s.checkState := rfl

@[simp] theorem State.withClaim_store (v : Option PartyId) : (s.withClaim v).store = s.store := rfl

@[simp] theorem State.withClaim_storeEpoch (v : Option PartyId) : (s.withClaim v).storeEpoch = s.storeEpoch := rfl

@[simp] theorem State.withClaim_mailboxes (v : Option PartyId) : (s.withClaim v).mailboxes = s.mailboxes := rfl

@[simp] theorem State.withClaim_queues (v : Option PartyId) : (s.withClaim v).queues = s.queues := rfl

@[simp] theorem State.withClaim_forwarding (v : Option PartyId) : (s.withClaim v).forwarding = s.forwarding := rfl

@[simp] theorem State.withClaim_parties (v : Option PartyId) : (s.withClaim v).parties = s.parties := rfl

@[simp] theorem State.withClaim_claim (v : Option PartyId) : (s.withClaim v).claim = v := rfl

@[simp] theorem State.withClaim_settings (v : Option PartyId) : (s.withClaim v).settings = s.settings := rfl

@[simp] theorem State.withClaim_notices (v : Option PartyId) : (s.withClaim v).notices = s.notices := rfl

@[simp] theorem State.withClaim_choice (v : Option PartyId) : (s.withClaim v).choice = s.choice := rfl

@[simp] theorem State.withClaim_pending (v : Option PartyId) : (s.withClaim v).pending = s.pending := rfl

/-! ## recordCapture -/

@[simp] theorem State.recordCapture_resetnLow (n : Fin 128) (o : CaptureOutcome) (r : Round) : (s.recordCapture n o r).resetnLow = s.resetnLow := rfl

@[simp] theorem State.recordCapture_strap (n : Fin 128) (o : CaptureOutcome) (r : Round) : (s.recordCapture n o r).strap = s.strap := rfl

@[simp] theorem State.recordCapture_uStored (n : Fin 128) (o : CaptureOutcome) (r : Round) : (s.recordCapture n o r).uStored = s.uStored := rfl

@[simp] theorem State.recordCapture_uInUse (n : Fin 128) (o : CaptureOutcome) (r : Round) : (s.recordCapture n o r).uInUse = s.uInUse := rfl

@[simp] theorem State.recordCapture_lStored (n : Fin 128) (o : CaptureOutcome) (r : Round) : (s.recordCapture n o r).lStored = s.lStored := rfl

@[simp] theorem State.recordCapture_lInUse (n : Fin 128) (o : CaptureOutcome) (r : Round) : (s.recordCapture n o r).lInUse = s.lInUse := rfl

@[simp] theorem State.recordCapture_uTime (n : Fin 128) (o : CaptureOutcome) (r : Round) : (s.recordCapture n o r).uTime = s.uTime := rfl

@[simp] theorem State.recordCapture_lTime (n : Fin 128) (o : CaptureOutcome) (r : Round) : (s.recordCapture n o r).lTime = s.lTime := rfl

@[simp] theorem State.recordCapture_rx (n : Fin 128) (o : CaptureOutcome) (r : Round) : (s.recordCapture n o r).rx = s.rx := rfl

@[simp] theorem State.recordCapture_tx (n : Fin 128) (o : CaptureOutcome) (r : Round) : (s.recordCapture n o r).tx = s.tx := rfl

@[simp] theorem State.recordCapture_slotFlags (n : Fin 128) (o : CaptureOutcome) (r : Round) : (s.recordCapture n o r).slotFlags = s.slotFlags := rfl

@[simp] theorem State.recordCapture_counters (n : Fin 128) (o : CaptureOutcome) (r : Round) : (s.recordCapture n o r).counters = s.counters := rfl

@[simp] theorem State.recordCapture_responses (n : Fin 128) (o : CaptureOutcome) (r : Round) : (s.recordCapture n o r).responses = s.responses := rfl

@[simp] theorem State.recordCapture_contexts (n : Fin 128) (o : CaptureOutcome) (r : Round) : (s.recordCapture n o r).contexts = s.contexts := rfl

@[simp] theorem State.recordCapture_emitRecords (n : Fin 128) (o : CaptureOutcome) (r : Round) : (s.recordCapture n o r).emitRecords = s.emitRecords := rfl

@[simp] theorem State.recordCapture_active (n : Fin 128) (o : CaptureOutcome) (r : Round) : (s.recordCapture n o r).active = s.active := rfl

@[simp] theorem State.recordCapture_staged (n : Fin 128) (o : CaptureOutcome) (r : Round) : (s.recordCapture n o r).staged = s.staged := rfl

@[simp] theorem State.recordCapture_captureOutcomes (n : Fin 128) (o : CaptureOutcome) (r : Round) : (s.recordCapture n o r).captureOutcomes = s.captureOutcomes.set n.val (some (o, r)) := rfl

@[simp] theorem State.recordCapture_emitOutcomes (n : Fin 128) (o : CaptureOutcome) (r : Round) : (s.recordCapture n o r).emitOutcomes = s.emitOutcomes := rfl

@[simp] theorem State.recordCapture_generation (n : Fin 128) (o : CaptureOutcome) (r : Round) : (s.recordCapture n o r).generation = s.generation := rfl

@[simp] theorem State.recordCapture_checkState (n : Fin 128) (o : CaptureOutcome) (r : Round) : (s.recordCapture n o r).checkState = s.checkState := rfl

@[simp] theorem State.recordCapture_store (n : Fin 128) (o : CaptureOutcome) (r : Round) : (s.recordCapture n o r).store = s.store := rfl

@[simp] theorem State.recordCapture_storeEpoch (n : Fin 128) (o : CaptureOutcome) (r : Round) : (s.recordCapture n o r).storeEpoch = s.storeEpoch := rfl

@[simp] theorem State.recordCapture_mailboxes (n : Fin 128) (o : CaptureOutcome) (r : Round) : (s.recordCapture n o r).mailboxes = s.mailboxes := rfl

@[simp] theorem State.recordCapture_queues (n : Fin 128) (o : CaptureOutcome) (r : Round) : (s.recordCapture n o r).queues = s.queues := rfl

@[simp] theorem State.recordCapture_forwarding (n : Fin 128) (o : CaptureOutcome) (r : Round) : (s.recordCapture n o r).forwarding = s.forwarding := rfl

@[simp] theorem State.recordCapture_parties (n : Fin 128) (o : CaptureOutcome) (r : Round) : (s.recordCapture n o r).parties = s.parties := rfl

@[simp] theorem State.recordCapture_claim (n : Fin 128) (o : CaptureOutcome) (r : Round) : (s.recordCapture n o r).claim = s.claim := rfl

@[simp] theorem State.recordCapture_settings (n : Fin 128) (o : CaptureOutcome) (r : Round) : (s.recordCapture n o r).settings = s.settings := rfl

@[simp] theorem State.recordCapture_notices (n : Fin 128) (o : CaptureOutcome) (r : Round) : (s.recordCapture n o r).notices = s.notices := rfl

@[simp] theorem State.recordCapture_choice (n : Fin 128) (o : CaptureOutcome) (r : Round) : (s.recordCapture n o r).choice = s.choice := rfl

@[simp] theorem State.recordCapture_pending (n : Fin 128) (o : CaptureOutcome) (r : Round) : (s.recordCapture n o r).pending = s.pending := rfl

/-! ## recordEmit -/

@[simp] theorem State.recordEmit_resetnLow (n : Fin 128) (o : EmitOutcome) (r : Round) : (s.recordEmit n o r).resetnLow = s.resetnLow := rfl

@[simp] theorem State.recordEmit_strap (n : Fin 128) (o : EmitOutcome) (r : Round) : (s.recordEmit n o r).strap = s.strap := rfl

@[simp] theorem State.recordEmit_uStored (n : Fin 128) (o : EmitOutcome) (r : Round) : (s.recordEmit n o r).uStored = s.uStored := rfl

@[simp] theorem State.recordEmit_uInUse (n : Fin 128) (o : EmitOutcome) (r : Round) : (s.recordEmit n o r).uInUse = s.uInUse := rfl

@[simp] theorem State.recordEmit_lStored (n : Fin 128) (o : EmitOutcome) (r : Round) : (s.recordEmit n o r).lStored = s.lStored := rfl

@[simp] theorem State.recordEmit_lInUse (n : Fin 128) (o : EmitOutcome) (r : Round) : (s.recordEmit n o r).lInUse = s.lInUse := rfl

@[simp] theorem State.recordEmit_uTime (n : Fin 128) (o : EmitOutcome) (r : Round) : (s.recordEmit n o r).uTime = s.uTime := rfl

@[simp] theorem State.recordEmit_lTime (n : Fin 128) (o : EmitOutcome) (r : Round) : (s.recordEmit n o r).lTime = s.lTime := rfl

@[simp] theorem State.recordEmit_rx (n : Fin 128) (o : EmitOutcome) (r : Round) : (s.recordEmit n o r).rx = s.rx := rfl

@[simp] theorem State.recordEmit_tx (n : Fin 128) (o : EmitOutcome) (r : Round) : (s.recordEmit n o r).tx = s.tx := rfl

@[simp] theorem State.recordEmit_slotFlags (n : Fin 128) (o : EmitOutcome) (r : Round) : (s.recordEmit n o r).slotFlags = s.slotFlags := rfl

@[simp] theorem State.recordEmit_counters (n : Fin 128) (o : EmitOutcome) (r : Round) : (s.recordEmit n o r).counters = s.counters := rfl

@[simp] theorem State.recordEmit_responses (n : Fin 128) (o : EmitOutcome) (r : Round) : (s.recordEmit n o r).responses = s.responses := rfl

@[simp] theorem State.recordEmit_contexts (n : Fin 128) (o : EmitOutcome) (r : Round) : (s.recordEmit n o r).contexts = s.contexts := rfl

@[simp] theorem State.recordEmit_emitRecords (n : Fin 128) (o : EmitOutcome) (r : Round) : (s.recordEmit n o r).emitRecords = s.emitRecords := rfl

@[simp] theorem State.recordEmit_active (n : Fin 128) (o : EmitOutcome) (r : Round) : (s.recordEmit n o r).active = s.active := rfl

@[simp] theorem State.recordEmit_staged (n : Fin 128) (o : EmitOutcome) (r : Round) : (s.recordEmit n o r).staged = s.staged := rfl

@[simp] theorem State.recordEmit_captureOutcomes (n : Fin 128) (o : EmitOutcome) (r : Round) : (s.recordEmit n o r).captureOutcomes = s.captureOutcomes := rfl

@[simp] theorem State.recordEmit_emitOutcomes (n : Fin 128) (o : EmitOutcome) (r : Round) : (s.recordEmit n o r).emitOutcomes = s.emitOutcomes.set n.val (some (o, r)) := rfl

@[simp] theorem State.recordEmit_generation (n : Fin 128) (o : EmitOutcome) (r : Round) : (s.recordEmit n o r).generation = s.generation := rfl

@[simp] theorem State.recordEmit_checkState (n : Fin 128) (o : EmitOutcome) (r : Round) : (s.recordEmit n o r).checkState = s.checkState := rfl

@[simp] theorem State.recordEmit_store (n : Fin 128) (o : EmitOutcome) (r : Round) : (s.recordEmit n o r).store = s.store := rfl

@[simp] theorem State.recordEmit_storeEpoch (n : Fin 128) (o : EmitOutcome) (r : Round) : (s.recordEmit n o r).storeEpoch = s.storeEpoch := rfl

@[simp] theorem State.recordEmit_mailboxes (n : Fin 128) (o : EmitOutcome) (r : Round) : (s.recordEmit n o r).mailboxes = s.mailboxes := rfl

@[simp] theorem State.recordEmit_queues (n : Fin 128) (o : EmitOutcome) (r : Round) : (s.recordEmit n o r).queues = s.queues := rfl

@[simp] theorem State.recordEmit_forwarding (n : Fin 128) (o : EmitOutcome) (r : Round) : (s.recordEmit n o r).forwarding = s.forwarding := rfl

@[simp] theorem State.recordEmit_parties (n : Fin 128) (o : EmitOutcome) (r : Round) : (s.recordEmit n o r).parties = s.parties := rfl

@[simp] theorem State.recordEmit_claim (n : Fin 128) (o : EmitOutcome) (r : Round) : (s.recordEmit n o r).claim = s.claim := rfl

@[simp] theorem State.recordEmit_settings (n : Fin 128) (o : EmitOutcome) (r : Round) : (s.recordEmit n o r).settings = s.settings := rfl

@[simp] theorem State.recordEmit_notices (n : Fin 128) (o : EmitOutcome) (r : Round) : (s.recordEmit n o r).notices = s.notices := rfl

@[simp] theorem State.recordEmit_choice (n : Fin 128) (o : EmitOutcome) (r : Round) : (s.recordEmit n o r).choice = s.choice := rfl

@[simp] theorem State.recordEmit_pending (n : Fin 128) (o : EmitOutcome) (r : Round) : (s.recordEmit n o r).pending = s.pending := rfl

/-! ## What the ports show, under updates of other parts -/

@[simp] theorem State.address_withRx (q : Port) (p : Port) (v : Option Reception) : (s.withRx p v).address q = s.address q := rfl

@[simp] theorem State.responseSlot_withRx (q : Port) (p : Port) (v : Option Reception) : (s.withRx p v).responseSlot q = s.responseSlot q := rfl

@[simp] theorem State.noticeTarget_withRx (q : Port) (p : Port) (v : Option Reception) : (s.withRx p v).noticeTarget q = s.noticeTarget q := rfl

@[simp] theorem State.slotCount_withRx (q : Port) (p : Port) (v : Option Reception) : (s.withRx p v).slotCount q = s.slotCount q := rfl

@[simp] theorem State.portOff_withRx (q : Port) (p : Port) (v : Option Reception) : (s.withRx p v).portOff q = s.portOff q := rfl

@[simp] theorem State.locked_withRx (p : Port) (v : Option Reception) : (s.withRx p v).locked = s.locked := rfl

@[simp] theorem State.currentSlot_withRx (q : Port) (p : Port) (v : Option Reception) : (s.withRx p v).currentSlot q = s.currentSlot q := rfl

@[simp] theorem State.currentRound_withRx (q : Port) (p : Port) (v : Option Reception) : (s.withRx p v).currentRound q = s.currentRound q := rfl

@[simp] theorem State.lastSlot_withRx (q : Port) (p : Port) (v : Option Reception) : (s.withRx p v).lastSlot q = s.lastSlot q := rfl

@[simp] theorem State.placementApplies_withRx (q : Port) (p : Port) (v : Option Reception) : (s.withRx p v).placementApplies q = s.placementApplies q := rfl

@[simp] theorem State.delivers_withRx (q : Port) (p : Port) (v : Option Reception) : (s.withRx p v).delivers q = s.delivers q := rfl

@[simp] theorem State.portRunning_withRx (q : Port) (p : Port) (v : Option Reception) : (s.withRx p v).portRunning q = s.portRunning q := rfl

@[simp] theorem State.raiseRound_withRx (p : Port) (v : Option Reception) : (s.withRx p v).raiseRound = s.raiseRound := rfl

@[simp] theorem State.tyingOrTied_withRx (p : Port) (v : Option Reception) : (s.withRx p v).tyingOrTied = s.tyingOrTied := rfl

@[simp] theorem State.tieConditions_withRx (p : Port) (v : Option Reception) : (s.withRx p v).tieConditions = s.tieConditions := rfl

@[simp] theorem State.address_withTx (q : Port) (p : Port) (v : Option Cell) : (s.withTx p v).address q = s.address q := rfl

@[simp] theorem State.responseSlot_withTx (q : Port) (p : Port) (v : Option Cell) : (s.withTx p v).responseSlot q = s.responseSlot q := rfl

@[simp] theorem State.noticeTarget_withTx (q : Port) (p : Port) (v : Option Cell) : (s.withTx p v).noticeTarget q = s.noticeTarget q := rfl

@[simp] theorem State.slotCount_withTx (q : Port) (p : Port) (v : Option Cell) : (s.withTx p v).slotCount q = s.slotCount q := rfl

@[simp] theorem State.portOff_withTx (q : Port) (p : Port) (v : Option Cell) : (s.withTx p v).portOff q = s.portOff q := rfl

@[simp] theorem State.locked_withTx (p : Port) (v : Option Cell) : (s.withTx p v).locked = s.locked := rfl

@[simp] theorem State.currentSlot_withTx (q : Port) (p : Port) (v : Option Cell) : (s.withTx p v).currentSlot q = s.currentSlot q := rfl

@[simp] theorem State.currentRound_withTx (q : Port) (p : Port) (v : Option Cell) : (s.withTx p v).currentRound q = s.currentRound q := rfl

@[simp] theorem State.lastSlot_withTx (q : Port) (p : Port) (v : Option Cell) : (s.withTx p v).lastSlot q = s.lastSlot q := rfl

@[simp] theorem State.placementApplies_withTx (q : Port) (p : Port) (v : Option Cell) : (s.withTx p v).placementApplies q = s.placementApplies q := rfl

@[simp] theorem State.delivers_withTx (q : Port) (p : Port) (v : Option Cell) : (s.withTx p v).delivers q = s.delivers q := rfl

@[simp] theorem State.portRunning_withTx (q : Port) (p : Port) (v : Option Cell) : (s.withTx p v).portRunning q = s.portRunning q := rfl

@[simp] theorem State.raiseRound_withTx (p : Port) (v : Option Cell) : (s.withTx p v).raiseRound = s.raiseRound := rfl

@[simp] theorem State.tyingOrTied_withTx (p : Port) (v : Option Cell) : (s.withTx p v).tyingOrTied = s.tyingOrTied := rfl

@[simp] theorem State.tieConditions_withTx (p : Port) (v : Option Cell) : (s.withTx p v).tieConditions = s.tieConditions := rfl

@[simp] theorem State.address_withFlags (q : Port) (p : Port) (v : SlotFlags) : (s.withFlags p v).address q = s.address q := rfl

@[simp] theorem State.responseSlot_withFlags (q : Port) (p : Port) (v : SlotFlags) : (s.withFlags p v).responseSlot q = s.responseSlot q := rfl

@[simp] theorem State.noticeTarget_withFlags (q : Port) (p : Port) (v : SlotFlags) : (s.withFlags p v).noticeTarget q = s.noticeTarget q := rfl

@[simp] theorem State.slotCount_withFlags (q : Port) (p : Port) (v : SlotFlags) : (s.withFlags p v).slotCount q = s.slotCount q := rfl

@[simp] theorem State.portOff_withFlags (q : Port) (p : Port) (v : SlotFlags) : (s.withFlags p v).portOff q = s.portOff q := rfl

@[simp] theorem State.locked_withFlags (p : Port) (v : SlotFlags) : (s.withFlags p v).locked = s.locked := rfl

@[simp] theorem State.currentSlot_withFlags (q : Port) (p : Port) (v : SlotFlags) : (s.withFlags p v).currentSlot q = s.currentSlot q := rfl

@[simp] theorem State.currentRound_withFlags (q : Port) (p : Port) (v : SlotFlags) : (s.withFlags p v).currentRound q = s.currentRound q := rfl

@[simp] theorem State.lastSlot_withFlags (q : Port) (p : Port) (v : SlotFlags) : (s.withFlags p v).lastSlot q = s.lastSlot q := rfl

@[simp] theorem State.placementApplies_withFlags (q : Port) (p : Port) (v : SlotFlags) : (s.withFlags p v).placementApplies q = s.placementApplies q := rfl

@[simp] theorem State.delivers_withFlags (q : Port) (p : Port) (v : SlotFlags) : (s.withFlags p v).delivers q = s.delivers q := rfl

@[simp] theorem State.portRunning_withFlags (q : Port) (p : Port) (v : SlotFlags) : (s.withFlags p v).portRunning q = s.portRunning q := rfl

@[simp] theorem State.raiseRound_withFlags (p : Port) (v : SlotFlags) : (s.withFlags p v).raiseRound = s.raiseRound := rfl

@[simp] theorem State.tyingOrTied_withFlags (p : Port) (v : SlotFlags) : (s.withFlags p v).tyingOrTied = s.tyingOrTied := rfl

@[simp] theorem State.tieConditions_withFlags (p : Port) (v : SlotFlags) : (s.withFlags p v).tieConditions = s.tieConditions := rfl

@[simp] theorem State.address_withCounters (q : Port) (p : Port) (v : Counters) : (s.withCounters p v).address q = s.address q := rfl

@[simp] theorem State.responseSlot_withCounters (q : Port) (p : Port) (v : Counters) : (s.withCounters p v).responseSlot q = s.responseSlot q := rfl

@[simp] theorem State.noticeTarget_withCounters (q : Port) (p : Port) (v : Counters) : (s.withCounters p v).noticeTarget q = s.noticeTarget q := rfl

@[simp] theorem State.slotCount_withCounters (q : Port) (p : Port) (v : Counters) : (s.withCounters p v).slotCount q = s.slotCount q := rfl

@[simp] theorem State.portOff_withCounters (q : Port) (p : Port) (v : Counters) : (s.withCounters p v).portOff q = s.portOff q := rfl

@[simp] theorem State.locked_withCounters (p : Port) (v : Counters) : (s.withCounters p v).locked = s.locked := rfl

@[simp] theorem State.currentSlot_withCounters (q : Port) (p : Port) (v : Counters) : (s.withCounters p v).currentSlot q = s.currentSlot q := rfl

@[simp] theorem State.currentRound_withCounters (q : Port) (p : Port) (v : Counters) : (s.withCounters p v).currentRound q = s.currentRound q := rfl

@[simp] theorem State.lastSlot_withCounters (q : Port) (p : Port) (v : Counters) : (s.withCounters p v).lastSlot q = s.lastSlot q := rfl

@[simp] theorem State.placementApplies_withCounters (q : Port) (p : Port) (v : Counters) : (s.withCounters p v).placementApplies q = s.placementApplies q := rfl

@[simp] theorem State.delivers_withCounters (q : Port) (p : Port) (v : Counters) : (s.withCounters p v).delivers q = s.delivers q := rfl

@[simp] theorem State.portRunning_withCounters (q : Port) (p : Port) (v : Counters) : (s.withCounters p v).portRunning q = s.portRunning q := rfl

@[simp] theorem State.raiseRound_withCounters (p : Port) (v : Counters) : (s.withCounters p v).raiseRound = s.raiseRound := rfl

@[simp] theorem State.tyingOrTied_withCounters (p : Port) (v : Counters) : (s.withCounters p v).tyingOrTied = s.tyingOrTied := rfl

@[simp] theorem State.tieConditions_withCounters (p : Port) (v : Counters) : (s.withCounters p v).tieConditions = s.tieConditions := rfl

@[simp] theorem State.address_withResponses (q : Port) (p : Port) (v : List Response) : (s.withResponses p v).address q = s.address q := rfl

@[simp] theorem State.responseSlot_withResponses (q : Port) (p : Port) (v : List Response) : (s.withResponses p v).responseSlot q = s.responseSlot q := rfl

@[simp] theorem State.noticeTarget_withResponses (q : Port) (p : Port) (v : List Response) : (s.withResponses p v).noticeTarget q = s.noticeTarget q := rfl

@[simp] theorem State.slotCount_withResponses (q : Port) (p : Port) (v : List Response) : (s.withResponses p v).slotCount q = s.slotCount q := rfl

@[simp] theorem State.portOff_withResponses (q : Port) (p : Port) (v : List Response) : (s.withResponses p v).portOff q = s.portOff q := rfl

@[simp] theorem State.locked_withResponses (p : Port) (v : List Response) : (s.withResponses p v).locked = s.locked := rfl

@[simp] theorem State.currentSlot_withResponses (q : Port) (p : Port) (v : List Response) : (s.withResponses p v).currentSlot q = s.currentSlot q := rfl

@[simp] theorem State.currentRound_withResponses (q : Port) (p : Port) (v : List Response) : (s.withResponses p v).currentRound q = s.currentRound q := rfl

@[simp] theorem State.lastSlot_withResponses (q : Port) (p : Port) (v : List Response) : (s.withResponses p v).lastSlot q = s.lastSlot q := rfl

@[simp] theorem State.placementApplies_withResponses (q : Port) (p : Port) (v : List Response) : (s.withResponses p v).placementApplies q = s.placementApplies q := rfl

@[simp] theorem State.delivers_withResponses (q : Port) (p : Port) (v : List Response) : (s.withResponses p v).delivers q = s.delivers q := rfl

@[simp] theorem State.portRunning_withResponses (q : Port) (p : Port) (v : List Response) : (s.withResponses p v).portRunning q = s.portRunning q := rfl

@[simp] theorem State.raiseRound_withResponses (p : Port) (v : List Response) : (s.withResponses p v).raiseRound = s.raiseRound := rfl

@[simp] theorem State.tyingOrTied_withResponses (p : Port) (v : List Response) : (s.withResponses p v).tyingOrTied = s.tyingOrTied := rfl

@[simp] theorem State.tieConditions_withResponses (p : Port) (v : List Response) : (s.withResponses p v).tieConditions = s.tieConditions := rfl

@[simp] theorem State.address_withContext (q : Port) (p : Port) (v : Option CaptureContext) : (s.withContext p v).address q = s.address q := rfl

@[simp] theorem State.responseSlot_withContext (q : Port) (p : Port) (v : Option CaptureContext) : (s.withContext p v).responseSlot q = s.responseSlot q := rfl

@[simp] theorem State.noticeTarget_withContext (q : Port) (p : Port) (v : Option CaptureContext) : (s.withContext p v).noticeTarget q = s.noticeTarget q := rfl

@[simp] theorem State.slotCount_withContext (q : Port) (p : Port) (v : Option CaptureContext) : (s.withContext p v).slotCount q = s.slotCount q := rfl

@[simp] theorem State.portOff_withContext (q : Port) (p : Port) (v : Option CaptureContext) : (s.withContext p v).portOff q = s.portOff q := rfl

@[simp] theorem State.locked_withContext (p : Port) (v : Option CaptureContext) : (s.withContext p v).locked = s.locked := rfl

@[simp] theorem State.currentSlot_withContext (q : Port) (p : Port) (v : Option CaptureContext) : (s.withContext p v).currentSlot q = s.currentSlot q := rfl

@[simp] theorem State.currentRound_withContext (q : Port) (p : Port) (v : Option CaptureContext) : (s.withContext p v).currentRound q = s.currentRound q := rfl

@[simp] theorem State.lastSlot_withContext (q : Port) (p : Port) (v : Option CaptureContext) : (s.withContext p v).lastSlot q = s.lastSlot q := rfl

@[simp] theorem State.placementApplies_withContext (q : Port) (p : Port) (v : Option CaptureContext) : (s.withContext p v).placementApplies q = s.placementApplies q := rfl

@[simp] theorem State.delivers_withContext (q : Port) (p : Port) (v : Option CaptureContext) : (s.withContext p v).delivers q = s.delivers q := rfl

@[simp] theorem State.portRunning_withContext (q : Port) (p : Port) (v : Option CaptureContext) : (s.withContext p v).portRunning q = s.portRunning q := rfl

@[simp] theorem State.raiseRound_withContext (p : Port) (v : Option CaptureContext) : (s.withContext p v).raiseRound = s.raiseRound := rfl

@[simp] theorem State.tyingOrTied_withContext (p : Port) (v : Option CaptureContext) : (s.withContext p v).tyingOrTied = s.tyingOrTied := rfl

@[simp] theorem State.tieConditions_withContext (p : Port) (v : Option CaptureContext) : (s.withContext p v).tieConditions = s.tieConditions := rfl

@[simp] theorem State.address_withEmitRecord (q : Port) (p : Port) (v : Option EmitRecord) : (s.withEmitRecord p v).address q = s.address q := rfl

@[simp] theorem State.responseSlot_withEmitRecord (q : Port) (p : Port) (v : Option EmitRecord) : (s.withEmitRecord p v).responseSlot q = s.responseSlot q := rfl

@[simp] theorem State.noticeTarget_withEmitRecord (q : Port) (p : Port) (v : Option EmitRecord) : (s.withEmitRecord p v).noticeTarget q = s.noticeTarget q := rfl

@[simp] theorem State.slotCount_withEmitRecord (q : Port) (p : Port) (v : Option EmitRecord) : (s.withEmitRecord p v).slotCount q = s.slotCount q := rfl

@[simp] theorem State.portOff_withEmitRecord (q : Port) (p : Port) (v : Option EmitRecord) : (s.withEmitRecord p v).portOff q = s.portOff q := rfl

@[simp] theorem State.locked_withEmitRecord (p : Port) (v : Option EmitRecord) : (s.withEmitRecord p v).locked = s.locked := rfl

@[simp] theorem State.currentSlot_withEmitRecord (q : Port) (p : Port) (v : Option EmitRecord) : (s.withEmitRecord p v).currentSlot q = s.currentSlot q := rfl

@[simp] theorem State.currentRound_withEmitRecord (q : Port) (p : Port) (v : Option EmitRecord) : (s.withEmitRecord p v).currentRound q = s.currentRound q := rfl

@[simp] theorem State.lastSlot_withEmitRecord (q : Port) (p : Port) (v : Option EmitRecord) : (s.withEmitRecord p v).lastSlot q = s.lastSlot q := rfl

@[simp] theorem State.placementApplies_withEmitRecord (q : Port) (p : Port) (v : Option EmitRecord) : (s.withEmitRecord p v).placementApplies q = s.placementApplies q := rfl

@[simp] theorem State.delivers_withEmitRecord (q : Port) (p : Port) (v : Option EmitRecord) : (s.withEmitRecord p v).delivers q = s.delivers q := rfl

@[simp] theorem State.portRunning_withEmitRecord (q : Port) (p : Port) (v : Option EmitRecord) : (s.withEmitRecord p v).portRunning q = s.portRunning q := rfl

@[simp] theorem State.raiseRound_withEmitRecord (p : Port) (v : Option EmitRecord) : (s.withEmitRecord p v).raiseRound = s.raiseRound := rfl

@[simp] theorem State.tyingOrTied_withEmitRecord (p : Port) (v : Option EmitRecord) : (s.withEmitRecord p v).tyingOrTied = s.tyingOrTied := rfl

@[simp] theorem State.tieConditions_withEmitRecord (p : Port) (v : Option EmitRecord) : (s.withEmitRecord p v).tieConditions = s.tieConditions := rfl

@[simp] theorem State.address_withMailbox (q : Port) (n : Fin 64) (v : MailboxRt) : (s.withMailbox n v).address q = s.address q := rfl

@[simp] theorem State.responseSlot_withMailbox (q : Port) (n : Fin 64) (v : MailboxRt) : (s.withMailbox n v).responseSlot q = s.responseSlot q := rfl

@[simp] theorem State.noticeTarget_withMailbox (q : Port) (n : Fin 64) (v : MailboxRt) : (s.withMailbox n v).noticeTarget q = s.noticeTarget q := rfl

@[simp] theorem State.slotCount_withMailbox (q : Port) (n : Fin 64) (v : MailboxRt) : (s.withMailbox n v).slotCount q = s.slotCount q := rfl

@[simp] theorem State.portOff_withMailbox (q : Port) (n : Fin 64) (v : MailboxRt) : (s.withMailbox n v).portOff q = s.portOff q := rfl

@[simp] theorem State.locked_withMailbox (n : Fin 64) (v : MailboxRt) : (s.withMailbox n v).locked = s.locked := rfl

@[simp] theorem State.currentSlot_withMailbox (q : Port) (n : Fin 64) (v : MailboxRt) : (s.withMailbox n v).currentSlot q = s.currentSlot q := rfl

@[simp] theorem State.currentRound_withMailbox (q : Port) (n : Fin 64) (v : MailboxRt) : (s.withMailbox n v).currentRound q = s.currentRound q := rfl

@[simp] theorem State.lastSlot_withMailbox (q : Port) (n : Fin 64) (v : MailboxRt) : (s.withMailbox n v).lastSlot q = s.lastSlot q := rfl

@[simp] theorem State.placementApplies_withMailbox (q : Port) (n : Fin 64) (v : MailboxRt) : (s.withMailbox n v).placementApplies q = s.placementApplies q := rfl

@[simp] theorem State.delivers_withMailbox (q : Port) (n : Fin 64) (v : MailboxRt) : (s.withMailbox n v).delivers q = s.delivers q := rfl

@[simp] theorem State.portRunning_withMailbox (q : Port) (n : Fin 64) (v : MailboxRt) : (s.withMailbox n v).portRunning q = s.portRunning q := rfl

@[simp] theorem State.raiseRound_withMailbox (n : Fin 64) (v : MailboxRt) : (s.withMailbox n v).raiseRound = s.raiseRound := rfl

@[simp] theorem State.tyingOrTied_withMailbox (n : Fin 64) (v : MailboxRt) : (s.withMailbox n v).tyingOrTied = s.tyingOrTied := rfl

@[simp] theorem State.tieConditions_withMailbox (n : Fin 64) (v : MailboxRt) : (s.withMailbox n v).tieConditions = s.tieConditions := rfl

@[simp] theorem State.address_withQueue (q : Port) (n : Fin 8) (v : QueueRt) : (s.withQueue n v).address q = s.address q := rfl

@[simp] theorem State.responseSlot_withQueue (q : Port) (n : Fin 8) (v : QueueRt) : (s.withQueue n v).responseSlot q = s.responseSlot q := rfl

@[simp] theorem State.noticeTarget_withQueue (q : Port) (n : Fin 8) (v : QueueRt) : (s.withQueue n v).noticeTarget q = s.noticeTarget q := rfl

@[simp] theorem State.slotCount_withQueue (q : Port) (n : Fin 8) (v : QueueRt) : (s.withQueue n v).slotCount q = s.slotCount q := rfl

@[simp] theorem State.portOff_withQueue (q : Port) (n : Fin 8) (v : QueueRt) : (s.withQueue n v).portOff q = s.portOff q := rfl

@[simp] theorem State.locked_withQueue (n : Fin 8) (v : QueueRt) : (s.withQueue n v).locked = s.locked := rfl

@[simp] theorem State.currentSlot_withQueue (q : Port) (n : Fin 8) (v : QueueRt) : (s.withQueue n v).currentSlot q = s.currentSlot q := rfl

@[simp] theorem State.currentRound_withQueue (q : Port) (n : Fin 8) (v : QueueRt) : (s.withQueue n v).currentRound q = s.currentRound q := rfl

@[simp] theorem State.lastSlot_withQueue (q : Port) (n : Fin 8) (v : QueueRt) : (s.withQueue n v).lastSlot q = s.lastSlot q := rfl

@[simp] theorem State.placementApplies_withQueue (q : Port) (n : Fin 8) (v : QueueRt) : (s.withQueue n v).placementApplies q = s.placementApplies q := rfl

@[simp] theorem State.delivers_withQueue (q : Port) (n : Fin 8) (v : QueueRt) : (s.withQueue n v).delivers q = s.delivers q := rfl

@[simp] theorem State.portRunning_withQueue (q : Port) (n : Fin 8) (v : QueueRt) : (s.withQueue n v).portRunning q = s.portRunning q := rfl

@[simp] theorem State.raiseRound_withQueue (n : Fin 8) (v : QueueRt) : (s.withQueue n v).raiseRound = s.raiseRound := rfl

@[simp] theorem State.tyingOrTied_withQueue (n : Fin 8) (v : QueueRt) : (s.withQueue n v).tyingOrTied = s.tyingOrTied := rfl

@[simp] theorem State.tieConditions_withQueue (n : Fin 8) (v : QueueRt) : (s.withQueue n v).tieConditions = s.tieConditions := rfl

@[simp] theorem State.address_withParty (q : Port) (i : Fin 8) (v : Option Party) : (s.withParty i v).address q = s.address q := rfl

@[simp] theorem State.responseSlot_withParty (q : Port) (i : Fin 8) (v : Option Party) : (s.withParty i v).responseSlot q = s.responseSlot q := rfl

@[simp] theorem State.noticeTarget_withParty (q : Port) (i : Fin 8) (v : Option Party) : (s.withParty i v).noticeTarget q = s.noticeTarget q := rfl

@[simp] theorem State.slotCount_withParty (q : Port) (i : Fin 8) (v : Option Party) : (s.withParty i v).slotCount q = s.slotCount q := rfl

@[simp] theorem State.portOff_withParty (q : Port) (i : Fin 8) (v : Option Party) : (s.withParty i v).portOff q = s.portOff q := rfl

@[simp] theorem State.locked_withParty (i : Fin 8) (v : Option Party) : (s.withParty i v).locked = s.locked := rfl

@[simp] theorem State.currentSlot_withParty (q : Port) (i : Fin 8) (v : Option Party) : (s.withParty i v).currentSlot q = s.currentSlot q := rfl

@[simp] theorem State.currentRound_withParty (q : Port) (i : Fin 8) (v : Option Party) : (s.withParty i v).currentRound q = s.currentRound q := rfl

@[simp] theorem State.lastSlot_withParty (q : Port) (i : Fin 8) (v : Option Party) : (s.withParty i v).lastSlot q = s.lastSlot q := rfl

@[simp] theorem State.placementApplies_withParty (q : Port) (i : Fin 8) (v : Option Party) : (s.withParty i v).placementApplies q = s.placementApplies q := rfl

@[simp] theorem State.delivers_withParty (q : Port) (i : Fin 8) (v : Option Party) : (s.withParty i v).delivers q = s.delivers q := rfl

@[simp] theorem State.portRunning_withParty (q : Port) (i : Fin 8) (v : Option Party) : (s.withParty i v).portRunning q = s.portRunning q := rfl

@[simp] theorem State.raiseRound_withParty (i : Fin 8) (v : Option Party) : (s.withParty i v).raiseRound = s.raiseRound := rfl

@[simp] theorem State.tyingOrTied_withParty (i : Fin 8) (v : Option Party) : (s.withParty i v).tyingOrTied = s.tyingOrTied := rfl

@[simp] theorem State.tieConditions_withParty (i : Fin 8) (v : Option Party) : (s.withParty i v).tieConditions = s.tieConditions := rfl

@[simp] theorem State.address_withUTime (q : Port) (v : UplinkRecord) : (s.withUTime v).address q = s.address q := rfl

@[simp] theorem State.responseSlot_withUTime (q : Port) (v : UplinkRecord) : (s.withUTime v).responseSlot q = s.responseSlot q := rfl

@[simp] theorem State.noticeTarget_withUTime (q : Port) (v : UplinkRecord) : (s.withUTime v).noticeTarget q = s.noticeTarget q := rfl

@[simp] theorem State.slotCount_withUTime (q : Port) (v : UplinkRecord) : (s.withUTime v).slotCount q = s.slotCount q := rfl

@[simp] theorem State.raiseRound_withUTime (v : UplinkRecord) : (s.withUTime v).raiseRound = s.raiseRound := rfl

@[simp] theorem State.tyingOrTied_withUTime (v : UplinkRecord) : (s.withUTime v).tyingOrTied = s.tyingOrTied := rfl

@[simp] theorem State.tieConditions_withUTime (v : UplinkRecord) : (s.withUTime v).tieConditions = s.tieConditions := rfl

@[simp] theorem State.address_withLTime (q : Port) (v : LocalRecord) : (s.withLTime v).address q = s.address q := rfl

@[simp] theorem State.responseSlot_withLTime (q : Port) (v : LocalRecord) : (s.withLTime v).responseSlot q = s.responseSlot q := rfl

@[simp] theorem State.noticeTarget_withLTime (q : Port) (v : LocalRecord) : (s.withLTime v).noticeTarget q = s.noticeTarget q := rfl

@[simp] theorem State.slotCount_withLTime (q : Port) (v : LocalRecord) : (s.withLTime v).slotCount q = s.slotCount q := rfl

@[simp] theorem State.locked_withLTime (v : LocalRecord) : (s.withLTime v).locked = s.locked := rfl

@[simp] theorem State.tieConditions_withLTime (v : LocalRecord) : (s.withLTime v).tieConditions = s.tieConditions := rfl

@[simp] theorem State.address_withNotices (q : Port) (v : NoticeUnit) : (s.withNotices v).address q = s.address q := rfl

@[simp] theorem State.responseSlot_withNotices (q : Port) (v : NoticeUnit) : (s.withNotices v).responseSlot q = s.responseSlot q := rfl

@[simp] theorem State.noticeTarget_withNotices (q : Port) (v : NoticeUnit) : (s.withNotices v).noticeTarget q = s.noticeTarget q := rfl

@[simp] theorem State.slotCount_withNotices (q : Port) (v : NoticeUnit) : (s.withNotices v).slotCount q = s.slotCount q := rfl

@[simp] theorem State.portOff_withNotices (q : Port) (v : NoticeUnit) : (s.withNotices v).portOff q = s.portOff q := rfl

@[simp] theorem State.locked_withNotices (v : NoticeUnit) : (s.withNotices v).locked = s.locked := rfl

@[simp] theorem State.currentSlot_withNotices (q : Port) (v : NoticeUnit) : (s.withNotices v).currentSlot q = s.currentSlot q := rfl

@[simp] theorem State.currentRound_withNotices (q : Port) (v : NoticeUnit) : (s.withNotices v).currentRound q = s.currentRound q := rfl

@[simp] theorem State.lastSlot_withNotices (q : Port) (v : NoticeUnit) : (s.withNotices v).lastSlot q = s.lastSlot q := rfl

@[simp] theorem State.placementApplies_withNotices (q : Port) (v : NoticeUnit) : (s.withNotices v).placementApplies q = s.placementApplies q := rfl

@[simp] theorem State.delivers_withNotices (q : Port) (v : NoticeUnit) : (s.withNotices v).delivers q = s.delivers q := rfl

@[simp] theorem State.portRunning_withNotices (q : Port) (v : NoticeUnit) : (s.withNotices v).portRunning q = s.portRunning q := rfl

@[simp] theorem State.raiseRound_withNotices (v : NoticeUnit) : (s.withNotices v).raiseRound = s.raiseRound := rfl

@[simp] theorem State.tyingOrTied_withNotices (v : NoticeUnit) : (s.withNotices v).tyingOrTied = s.tyingOrTied := rfl

@[simp] theorem State.tieConditions_withNotices (v : NoticeUnit) : (s.withNotices v).tieConditions = s.tieConditions := rfl

@[simp] theorem State.address_withStore (q : Port) (v : Store) : (s.withStore v).address q = s.address q := rfl

@[simp] theorem State.responseSlot_withStore (q : Port) (v : Store) : (s.withStore v).responseSlot q = s.responseSlot q := rfl

@[simp] theorem State.noticeTarget_withStore (q : Port) (v : Store) : (s.withStore v).noticeTarget q = s.noticeTarget q := rfl

@[simp] theorem State.slotCount_withStore (q : Port) (v : Store) : (s.withStore v).slotCount q = s.slotCount q := rfl

@[simp] theorem State.portOff_withStore (q : Port) (v : Store) : (s.withStore v).portOff q = s.portOff q := rfl

@[simp] theorem State.locked_withStore (v : Store) : (s.withStore v).locked = s.locked := rfl

@[simp] theorem State.currentSlot_withStore (q : Port) (v : Store) : (s.withStore v).currentSlot q = s.currentSlot q := rfl

@[simp] theorem State.currentRound_withStore (q : Port) (v : Store) : (s.withStore v).currentRound q = s.currentRound q := rfl

@[simp] theorem State.lastSlot_withStore (q : Port) (v : Store) : (s.withStore v).lastSlot q = s.lastSlot q := rfl

@[simp] theorem State.placementApplies_withStore (q : Port) (v : Store) : (s.withStore v).placementApplies q = s.placementApplies q := rfl

@[simp] theorem State.delivers_withStore (q : Port) (v : Store) : (s.withStore v).delivers q = s.delivers q := rfl

@[simp] theorem State.portRunning_withStore (q : Port) (v : Store) : (s.withStore v).portRunning q = s.portRunning q := rfl

@[simp] theorem State.raiseRound_withStore (v : Store) : (s.withStore v).raiseRound = s.raiseRound := rfl

@[simp] theorem State.tyingOrTied_withStore (v : Store) : (s.withStore v).tyingOrTied = s.tyingOrTied := rfl

@[simp] theorem State.tieConditions_withStore (v : Store) : (s.withStore v).tieConditions = s.tieConditions := rfl

@[simp] theorem State.address_withCheck (q : Port) (v : CheckState) : (s.withCheck v).address q = s.address q := rfl

@[simp] theorem State.responseSlot_withCheck (q : Port) (v : CheckState) : (s.withCheck v).responseSlot q = s.responseSlot q := rfl

@[simp] theorem State.noticeTarget_withCheck (q : Port) (v : CheckState) : (s.withCheck v).noticeTarget q = s.noticeTarget q := rfl

@[simp] theorem State.slotCount_withCheck (q : Port) (v : CheckState) : (s.withCheck v).slotCount q = s.slotCount q := rfl

@[simp] theorem State.portOff_withCheck (q : Port) (v : CheckState) : (s.withCheck v).portOff q = s.portOff q := rfl

@[simp] theorem State.locked_withCheck (v : CheckState) : (s.withCheck v).locked = s.locked := rfl

@[simp] theorem State.currentSlot_withCheck (q : Port) (v : CheckState) : (s.withCheck v).currentSlot q = s.currentSlot q := rfl

@[simp] theorem State.currentRound_withCheck (q : Port) (v : CheckState) : (s.withCheck v).currentRound q = s.currentRound q := rfl

@[simp] theorem State.lastSlot_withCheck (q : Port) (v : CheckState) : (s.withCheck v).lastSlot q = s.lastSlot q := rfl

@[simp] theorem State.placementApplies_withCheck (q : Port) (v : CheckState) : (s.withCheck v).placementApplies q = s.placementApplies q := rfl

@[simp] theorem State.delivers_withCheck (q : Port) (v : CheckState) : (s.withCheck v).delivers q = s.delivers q := rfl

@[simp] theorem State.portRunning_withCheck (q : Port) (v : CheckState) : (s.withCheck v).portRunning q = s.portRunning q := rfl

@[simp] theorem State.raiseRound_withCheck (v : CheckState) : (s.withCheck v).raiseRound = s.raiseRound := rfl

@[simp] theorem State.tyingOrTied_withCheck (v : CheckState) : (s.withCheck v).tyingOrTied = s.tyingOrTied := rfl

@[simp] theorem State.tieConditions_withCheck (v : CheckState) : (s.withCheck v).tieConditions = s.tieConditions := rfl

@[simp] theorem State.address_withClaim (q : Port) (v : Option PartyId) : (s.withClaim v).address q = s.address q := rfl

@[simp] theorem State.responseSlot_withClaim (q : Port) (v : Option PartyId) : (s.withClaim v).responseSlot q = s.responseSlot q := rfl

@[simp] theorem State.noticeTarget_withClaim (q : Port) (v : Option PartyId) : (s.withClaim v).noticeTarget q = s.noticeTarget q := rfl

@[simp] theorem State.slotCount_withClaim (q : Port) (v : Option PartyId) : (s.withClaim v).slotCount q = s.slotCount q := rfl

@[simp] theorem State.portOff_withClaim (q : Port) (v : Option PartyId) : (s.withClaim v).portOff q = s.portOff q := rfl

@[simp] theorem State.locked_withClaim (v : Option PartyId) : (s.withClaim v).locked = s.locked := rfl

@[simp] theorem State.currentSlot_withClaim (q : Port) (v : Option PartyId) : (s.withClaim v).currentSlot q = s.currentSlot q := rfl

@[simp] theorem State.currentRound_withClaim (q : Port) (v : Option PartyId) : (s.withClaim v).currentRound q = s.currentRound q := rfl

@[simp] theorem State.lastSlot_withClaim (q : Port) (v : Option PartyId) : (s.withClaim v).lastSlot q = s.lastSlot q := rfl

@[simp] theorem State.placementApplies_withClaim (q : Port) (v : Option PartyId) : (s.withClaim v).placementApplies q = s.placementApplies q := rfl

@[simp] theorem State.delivers_withClaim (q : Port) (v : Option PartyId) : (s.withClaim v).delivers q = s.delivers q := rfl

@[simp] theorem State.portRunning_withClaim (q : Port) (v : Option PartyId) : (s.withClaim v).portRunning q = s.portRunning q := rfl

@[simp] theorem State.raiseRound_withClaim (v : Option PartyId) : (s.withClaim v).raiseRound = s.raiseRound := rfl

@[simp] theorem State.tyingOrTied_withClaim (v : Option PartyId) : (s.withClaim v).tyingOrTied = s.tyingOrTied := rfl

@[simp] theorem State.tieConditions_withClaim (v : Option PartyId) : (s.withClaim v).tieConditions = s.tieConditions := rfl

@[simp] theorem State.address_recordCapture (q : Port) (n : Fin 128) (o : CaptureOutcome) (r : Round) : (s.recordCapture n o r).address q = s.address q := rfl

@[simp] theorem State.responseSlot_recordCapture (q : Port) (n : Fin 128) (o : CaptureOutcome) (r : Round) : (s.recordCapture n o r).responseSlot q = s.responseSlot q := rfl

@[simp] theorem State.noticeTarget_recordCapture (q : Port) (n : Fin 128) (o : CaptureOutcome) (r : Round) : (s.recordCapture n o r).noticeTarget q = s.noticeTarget q := rfl

@[simp] theorem State.slotCount_recordCapture (q : Port) (n : Fin 128) (o : CaptureOutcome) (r : Round) : (s.recordCapture n o r).slotCount q = s.slotCount q := rfl

@[simp] theorem State.portOff_recordCapture (q : Port) (n : Fin 128) (o : CaptureOutcome) (r : Round) : (s.recordCapture n o r).portOff q = s.portOff q := rfl

@[simp] theorem State.locked_recordCapture (n : Fin 128) (o : CaptureOutcome) (r : Round) : (s.recordCapture n o r).locked = s.locked := rfl

@[simp] theorem State.currentSlot_recordCapture (q : Port) (n : Fin 128) (o : CaptureOutcome) (r : Round) : (s.recordCapture n o r).currentSlot q = s.currentSlot q := rfl

@[simp] theorem State.currentRound_recordCapture (q : Port) (n : Fin 128) (o : CaptureOutcome) (r : Round) : (s.recordCapture n o r).currentRound q = s.currentRound q := rfl

@[simp] theorem State.lastSlot_recordCapture (q : Port) (n : Fin 128) (o : CaptureOutcome) (r : Round) : (s.recordCapture n o r).lastSlot q = s.lastSlot q := rfl

@[simp] theorem State.placementApplies_recordCapture (q : Port) (n : Fin 128) (o : CaptureOutcome) (r : Round) : (s.recordCapture n o r).placementApplies q = s.placementApplies q := rfl

@[simp] theorem State.delivers_recordCapture (q : Port) (n : Fin 128) (o : CaptureOutcome) (r : Round) : (s.recordCapture n o r).delivers q = s.delivers q := rfl

@[simp] theorem State.portRunning_recordCapture (q : Port) (n : Fin 128) (o : CaptureOutcome) (r : Round) : (s.recordCapture n o r).portRunning q = s.portRunning q := rfl

@[simp] theorem State.raiseRound_recordCapture (n : Fin 128) (o : CaptureOutcome) (r : Round) : (s.recordCapture n o r).raiseRound = s.raiseRound := rfl

@[simp] theorem State.tyingOrTied_recordCapture (n : Fin 128) (o : CaptureOutcome) (r : Round) : (s.recordCapture n o r).tyingOrTied = s.tyingOrTied := rfl

@[simp] theorem State.tieConditions_recordCapture (n : Fin 128) (o : CaptureOutcome) (r : Round) : (s.recordCapture n o r).tieConditions = s.tieConditions := rfl

@[simp] theorem State.address_recordEmit (q : Port) (n : Fin 128) (o : EmitOutcome) (r : Round) : (s.recordEmit n o r).address q = s.address q := rfl

@[simp] theorem State.responseSlot_recordEmit (q : Port) (n : Fin 128) (o : EmitOutcome) (r : Round) : (s.recordEmit n o r).responseSlot q = s.responseSlot q := rfl

@[simp] theorem State.noticeTarget_recordEmit (q : Port) (n : Fin 128) (o : EmitOutcome) (r : Round) : (s.recordEmit n o r).noticeTarget q = s.noticeTarget q := rfl

@[simp] theorem State.slotCount_recordEmit (q : Port) (n : Fin 128) (o : EmitOutcome) (r : Round) : (s.recordEmit n o r).slotCount q = s.slotCount q := rfl

@[simp] theorem State.portOff_recordEmit (q : Port) (n : Fin 128) (o : EmitOutcome) (r : Round) : (s.recordEmit n o r).portOff q = s.portOff q := rfl

@[simp] theorem State.locked_recordEmit (n : Fin 128) (o : EmitOutcome) (r : Round) : (s.recordEmit n o r).locked = s.locked := rfl

@[simp] theorem State.currentSlot_recordEmit (q : Port) (n : Fin 128) (o : EmitOutcome) (r : Round) : (s.recordEmit n o r).currentSlot q = s.currentSlot q := rfl

@[simp] theorem State.currentRound_recordEmit (q : Port) (n : Fin 128) (o : EmitOutcome) (r : Round) : (s.recordEmit n o r).currentRound q = s.currentRound q := rfl

@[simp] theorem State.lastSlot_recordEmit (q : Port) (n : Fin 128) (o : EmitOutcome) (r : Round) : (s.recordEmit n o r).lastSlot q = s.lastSlot q := rfl

@[simp] theorem State.placementApplies_recordEmit (q : Port) (n : Fin 128) (o : EmitOutcome) (r : Round) : (s.recordEmit n o r).placementApplies q = s.placementApplies q := rfl

@[simp] theorem State.delivers_recordEmit (q : Port) (n : Fin 128) (o : EmitOutcome) (r : Round) : (s.recordEmit n o r).delivers q = s.delivers q := rfl

@[simp] theorem State.portRunning_recordEmit (q : Port) (n : Fin 128) (o : EmitOutcome) (r : Round) : (s.recordEmit n o r).portRunning q = s.portRunning q := rfl

@[simp] theorem State.raiseRound_recordEmit (n : Fin 128) (o : EmitOutcome) (r : Round) : (s.recordEmit n o r).raiseRound = s.raiseRound := rfl

@[simp] theorem State.tyingOrTied_recordEmit (n : Fin 128) (o : EmitOutcome) (r : Round) : (s.recordEmit n o r).tyingOrTied = s.tyingOrTied := rfl

@[simp] theorem State.tieConditions_recordEmit (n : Fin 128) (o : EmitOutcome) (r : Round) : (s.recordEmit n o r).tieConditions = s.tieConditions := rfl

end Sys2Proof.Machine
end

