-- ==== Sys2Proof/Laws/Plan.lean ====
section
/-! SUPPORT. Reads and lookups of plan memory: what they raise and what they find. -/

namespace Sys2Proof.Machine

/-! ## Reads -/

theorem seen_of_good {α : Type} {x : Stored α} (h : x.parityGood = true) : x.seen = x.fields := by
  simp [Stored.seen, h]

theorem seen_of_failed {α : Type} {x : Stored α} (h : x.parityGood = false) : x.seen = none := by
  simp [Stored.seen, h]

theorem seen_eq_some {α : Type} {x : Stored α} {d : α} : x.seen = some d ↔ x = ⟨some d, true⟩ := by
  cases x with
  | mk f p => cases p <;> simp [Stored.seen]

@[simp] theorem raiseAll_nil (s : State) : s.raiseAll [] = s := rfl

@[simp] theorem raiseAll_cons (s : State) (x : NoticeKind × Subject) (l : List (NoticeKind × Subject)) :
    s.raiseAll (x :: l) = (s.raise x.1 x.2).raiseAll l := rfl

/-- A read of a record with good parity raises nothing. -/
theorem readActive_of_good {s : State} {ref : RecordRef} (h : s.active.parityGood ref = true) : s.readActive ref = s := by
  simp [State.readActive, Bank.readNotice, h]

/-- A read of a failed record raises PLAN_PARITY (R70). -/
theorem readActive_of_failed {s : State} {ref : RecordRef} (h : s.active.parityGood ref = false) :
    s.readActive ref = s.raise .planParity (.record .active ref) := by
  simp [State.readActive, Bank.readNotice, h]

/-- A lookup in a sound ACTIVE bank raises nothing. -/
theorem readCaptures_of_sound {s : State} (h : s.ActiveSound) : s.readCaptures = s := by
  have : ((List.finRange 128).flatMap fun n => s.active.readNotice .active (.capture n)) = [] := by
    rw [List.flatMap_eq_nil_iff]
    intro n _
    simp [Bank.readNotice, h (.capture n)]
  simp only [State.readCaptures, this, raiseAll_nil]

/-- A lookup in a sound ACTIVE bank raises nothing. -/
theorem readEmits_of_sound {s : State} (h : s.ActiveSound) : s.readEmits = s := by
  have : ((List.finRange 128).flatMap fun n => s.active.readNotice .active (.emit n)) = [] := by
    rw [List.flatMap_eq_nil_iff]
    intro n _
    simp [Bank.readNotice, h (.emit n)]
  simp only [State.readEmits, this, raiseAll_nil]

/-! ## Lookups -/

/-- What a capture lookup finds is a defined entry with good parity that matches. -/
theorem findCapture_sound {b : Bank} {p : Port} {slot : Nat} {r : Round} {n : Fin 128} {e : CaptureEntry}
    (h : b.findCapture p slot r = some (n, e)) : b.captures[n] = ⟨some e, true⟩ ∧ e.hits p slot r = true := by
  obtain ⟨m, -, hm⟩ := List.exists_of_findSome?_eq_some h
  cases hs : b.captures[m].seen with
  | none => rw [hs] at hm; cases hm
  | some e' =>
    simp only [hs] at hm
    split at hm
    · simp only [Option.some.injEq, Prod.mk.injEq] at hm
      obtain ⟨rfl, rfl⟩ := hm
      exact ⟨seen_eq_some.1 hs, ‹_›⟩
    · cases hm

/-- A capture lookup finds nothing exactly when no readable entry matches. -/
theorem findCapture_eq_none {b : Bank} {p : Port} {slot : Nat} {r : Round} : b.findCapture p slot r = none ↔
    ∀ (n : Fin 128) (e : CaptureEntry), b.captures[n] = ⟨some e, true⟩ → e.hits p slot r = false := by
  simp only [Bank.findCapture, List.findSome?_eq_none_iff, List.mem_finRange, true_implies]
  constructor
  · intro h n e he
    have := h n
    rw [seen_eq_some.2 he] at this
    simpa using this
  · intro h n
    cases hs : b.captures[n].seen with
    | none => rfl
    | some e => simp [h n e (seen_eq_some.1 hs)]

/-- In a bank in which at most one entry matches, a readable entry that matches is found. -/
theorem findCapture_of_hit {b : Bank} (hb : b.OneMatch) {p : Port} {slot : Nat} {r : Round} {n : Fin 128}
    {e : CaptureEntry} (he : b.captures[n] = ⟨some e, true⟩) (hh : e.hits p slot r = true) :
    b.findCapture p slot r = some (n, e) := by
  cases hf : b.findCapture p slot r with
  | none => simp [findCapture_eq_none.1 hf n e he] at hh
  | some x =>
    obtain ⟨m, e'⟩ := x
    obtain ⟨h1, h2⟩ := findCapture_sound hf
    have : n = m := hb.1 n m e e' p slot r (by rw [he]) (by rw [h1]) hh h2
    subst this
    rw [he] at h1
    cases h1
    rfl

/-- What an emit lookup finds is a defined entry with good parity that matches. -/
theorem findEmit_sound {b : Bank} {p : Port} {slot : Nat} {r : Round} {n : Fin 128} {e : EmitEntry}
    (h : b.findEmit p slot r = some (n, e)) : b.emits[n] = ⟨some e, true⟩ ∧ e.hits p slot r = true := by
  obtain ⟨m, -, hm⟩ := List.exists_of_findSome?_eq_some h
  cases hs : b.emits[m].seen with
  | none => rw [hs] at hm; cases hm
  | some e' =>
    simp only [hs] at hm
    split at hm
    · simp only [Option.some.injEq, Prod.mk.injEq] at hm
      obtain ⟨rfl, rfl⟩ := hm
      exact ⟨seen_eq_some.1 hs, ‹_›⟩
    · cases hm

/-- An emit lookup finds nothing exactly when no readable entry matches. -/
theorem findEmit_eq_none {b : Bank} {p : Port} {slot : Nat} {r : Round} : b.findEmit p slot r = none ↔
    ∀ (n : Fin 128) (e : EmitEntry), b.emits[n] = ⟨some e, true⟩ → e.hits p slot r = false := by
  simp only [Bank.findEmit, List.findSome?_eq_none_iff, List.mem_finRange, true_implies]
  constructor
  · intro h n e he
    have := h n
    rw [seen_eq_some.2 he] at this
    simpa using this
  · intro h n
    cases hs : b.emits[n].seen with
    | none => rfl
    | some e => simp [h n e (seen_eq_some.1 hs)]

/-- In a bank in which at most one entry matches, a readable entry that matches is found. -/
theorem findEmit_of_hit {b : Bank} (hb : b.OneMatch) {p : Port} {slot : Nat} {r : Round} {n : Fin 128}
    {e : EmitEntry} (he : b.emits[n] = ⟨some e, true⟩) (hh : e.hits p slot r = true) :
    b.findEmit p slot r = some (n, e) := by
  cases hf : b.findEmit p slot r with
  | none => simp [findEmit_eq_none.1 hf n e he] at hh
  | some x =>
    obtain ⟨m, e'⟩ := x
    obtain ⟨h1, h2⟩ := findEmit_sound hf
    have : n = m := hb.2 n m e e' p slot r (by rw [he]) (by rw [h1]) hh h2
    subst this
    rw [he] at h1
    cases h1
    rfl

end Sys2Proof.Machine
end

