-- ==== Sys2Proof/Laws/Words.lean ====
section
/-! SUPPORT. Fields of words: what a word built from its fields reads as, and what a selector names. -/

namespace Sys2Proof.Machine

/-! ## Fields -/

/-- The bits of a word are the field of its number. -/
theorem bitsAt_eq_field (w : Word) (hi lo : Nat) : bitsAt w hi lo = field w.toNat hi lo := by
  simp [bitsAt, field, Nat.shiftRight_eq_div_pow]

/-- The bits of a word made from a number below 2^32. -/
theorem bitsAt_toWord {n : Nat} (h : n < 2 ^ 32) (hi lo : Nat) : bitsAt (toWord n) hi lo = field n hi lo := by
  rw [bitsAt_eq_field, toWord, BitVec.toNat_ofNat, Nat.mod_eq_of_lt h]

/-- A field is below its number of values. -/
theorem put_lt (v hi lo : Nat) (h : lo ≤ hi + 1) : put v hi lo < 2 ^ (hi + 1) := by
  have h1 : v % 2 ^ (hi + 1 - lo) < 2 ^ (hi + 1 - lo) := Nat.mod_lt _ (Nat.two_pow_pos _)
  have h2 : 2 ^ (hi + 1) = 2 ^ (hi + 1 - lo) * 2 ^ lo := by rw [← Nat.pow_add]; congr 1; omega
  rw [put, h2]
  exact Nat.mul_lt_mul_of_pos_right h1 (Nat.two_pow_pos _)

/-- One bit of a word as a number. -/
theorem getLsbD_eq_bitsAt (w : Word) (i : Nat) : w.getLsbD i = decide (bitsAt w i i = 1) := by
  have h : i + 1 - i = 1 := by omega
  simp only [bitsAt_eq_field, field, h]
  rw [BitVec.getLsbD, Nat.testBit_eq_decide_div_mod_eq, pow_one]

/-- A byte field of a word as a station, a sequence number or a count. -/
theorem extract_eq_ofNat_field (w : Word) (lo n : Nat) :
    w.extractLsb' lo n = BitVec.ofNat n (field w.toNat (lo + n - 1) lo) := by
  by_cases hn : n = 0
  · subst hn; exact BitVec.eq_of_toNat_eq (by simp [Nat.mod_one])
  · apply BitVec.eq_of_toNat_eq
    have h : lo + n - 1 + 1 - lo = n := by omega
    simp [field, Nat.shiftRight_eq_div_pow, h]

/-! ## Selectors -/

theorem selTop_eq (sel : BitVec 16) : selTop sel = (sel.extractLsb' 14 2).toNat := by
  simp [selTop, field, Nat.shiftRight_eq_div_pow]

theorem selNumber_eq (sel : BitVec 16) : selNumber sel = (sel.extractLsb' 0 11).toNat := by
  simp [selNumber, field]

theorem selKindField_eq (sel : BitVec 16) : field sel.toNat 13 11 = (sel.extractLsb' 11 3).toNat := by
  simp [field, Nat.shiftRight_eq_div_pow]

theorem selPort_eq_some {sel : BitVec 16} {p : Port} : selPort sel = some p ↔ selectsPort sel p := by
  simp only [selPort, selTop_eq, selectsPort]
  generalize (sel.extractLsb' 14 2).toNat = k
  match k with
  | 0 => cases p <;> simp [portOfCode]
  | 1 => cases p <;> simp [portOfCode]
  | 2 => cases p <;> simp [portOfCode]
  | n + 3 => cases p <;> simp [portOfCode]

theorem selPort_eq_none {sel : BitVec 16} : selPort sel = none ↔ ∀ p, ¬selectsPort sel p := by
  simp only [← selPort_eq_some]
  cases selPort sel <;> simp

theorem selBank_eq_some {sel : BitVec 16} {b : BankRole} : selBank sel = some b ↔ selectsBank sel b := by
  simp only [selBank, selTop_eq, selectsBank]
  generalize (sel.extractLsb' 14 2).toNat = k
  match k with
  | 0 => cases b <;> simp [bankOfCode]
  | 1 => cases b <;> simp [bankOfCode]
  | 2 => cases b <;> simp [bankOfCode]
  | n + 3 => cases b <;> simp [bankOfCode]

theorem selBank_eq_none {sel : BitVec 16} : selBank sel = none ↔ ∀ b, ¬selectsBank sel b := by
  simp only [← selBank_eq_some]
  cases selBank sel <;> simp

theorem numberBelow_eq_some {n k : Nat} {i : Fin n} : numberBelow n k = some i ↔ k = i := by
  unfold numberBelow
  split
  · simp [Fin.ext_iff]
  · have := i.isLt
    simp; omega

theorem selMailbox_eq_some {sel : BitVec 16} {n : Fin 64} : selMailbox sel = some n ↔ selectsNumber sel n := by
  simp [selMailbox, numberBelow_eq_some, selNumber_eq, selectsNumber]

theorem selMailbox_eq_none {sel : BitVec 16} : selMailbox sel = none ↔ ∀ n : Fin 64, ¬selectsNumber sel n := by
  simp only [← selMailbox_eq_some]
  cases selMailbox sel <;> simp

theorem selQueue_eq_some {sel : BitVec 16} {n : Fin 8} : selQueue sel = some n ↔ selectsNumber sel n := by
  simp [selQueue, numberBelow_eq_some, selNumber_eq, selectsNumber]

theorem selQueue_eq_none {sel : BitVec 16} : selQueue sel = none ↔ ∀ n : Fin 8, ¬selectsNumber sel n := by
  simp only [← selQueue_eq_some]
  cases selQueue sel <;> simp

theorem selRecord_eq_some {sel : BitVec 16} {ref : RecordRef} : selRecord sel = some ref ↔ selectsRecord sel ref := by
  simp only [selRecord, selKind, selKindField_eq]
  have hk : (sel.extractLsb' 11 3).toNat < 8 := (sel.extractLsb' 11 3).isLt
  cases ref <;> simp only [selectsRecord] <;> generalize (sel.extractLsb' 11 3).toNat = k at * <;>
    (match k, hk with
     | 0, _ => simp [recordKindOf]
     | 1, _ => simp [recordKindOf, recordOf, numberBelow_eq_some, selNumber_eq, selectsNumber]
     | 2, _ => simp [recordKindOf, recordOf, numberBelow_eq_some, selNumber_eq, selectsNumber]
     | 3, _ => simp [recordKindOf, recordOf, numberBelow_eq_some, selNumber_eq, selectsNumber]
     | 4, _ => simp [recordKindOf, recordOf, numberBelow_eq_some, selNumber_eq, selectsNumber]
     | 5, _ => simp [recordKindOf]
     | 6, _ => simp [recordKindOf]
     | 7, _ => simp [recordKindOf])

theorem selRecord_eq_none {sel : BitVec 16} : selRecord sel = none ↔ ∀ ref, ¬selectsRecord sel ref := by
  simp only [← selRecord_eq_some]
  cases selRecord sel <;> simp

end Sys2Proof.Machine
end

