-- ==== Sys2Proof/Laws/Requests.lean ====
section
/-! SUPPORT. What taking a request can do, once: the command of a request is `serve`, and an executed request leaves what
its own rule leaves, with the answer cached and queued. -/

namespace Sys2Proof.Machine

/-! ## The agent's own parts of the state -/

@[simp] theorem updateParty_responses (s : State) (i : Fin 8) (f : Party → Party) :
    (s.updateParty i f).responses = s.responses := rfl

theorem updateParty_self {s : State} {i : Fin 8} {q : Party} (f : Party → Party) (h : s.parties[i] = some q) :
    s.updateParty i f = s.withParty i (some (f q)) := by
  simp [State.updateParty, h]

@[simp] theorem withParty_parties_get (s : State) (i : Fin 8) (v : Option Party) : (s.withParty i v).parties[i] = v := by
  simp [State.withParty]

theorem withParty_parties_get_ne (s : State) {i j : Fin 8} (v : Option Party) (h : i ≠ j) :
    (s.withParty i v).parties[j] = s.parties[j] := by
  have : (i : Nat) ≠ j := fun e => h (Fin.ext e)
  simp [State.withParty, this]

@[simp] theorem withParty_withParty (s : State) (i : Fin 8) (v w : Option Party) :
    (s.withParty i v).withParty i w = s.withParty i w := by
  simp [State.withParty]

/-- What step 1 of R138 leaves: one position of the table holds the party with idle rounds 0, or nothing changes. -/
theorem admitParty_cases (s : State) (id : PartyId) :
    (∃ (i : Fin 8) (q : Party), s.admitParty id = (s.withParty i (some q), some i) ∧ q.id = id ∧ q.idle = 0 ∧
      ((∃ q', s.findParty id = some i ∧ s.parties[i] = some q' ∧ q = { q' with idle := 0 }) ∨
       (s.findParty id = none ∧ q = .fresh id ∧
         (s.freePosition = some i ∨ s.freePosition = none ∧ s.victim = some i)))) ∨
    s.admitParty id = (s, none) ∧ s.findParty id = none ∧ s.freePosition = none ∧ s.victim = none := by
  unfold State.admitParty
  cases hf : s.findParty id with
  | some i =>
    have hp : s.partyAt id i = true := List.find?_some hf
    unfold State.partyAt at hp
    cases hq : s.parties[i] with
    | none => simp [hq] at hp
    | some q =>
      simp only [hq, decide_eq_true_eq] at hp
      exact .inl ⟨i, { q with idle := 0 }, by simp [updateParty_self _ hq], hp, rfl, .inl ⟨q, rfl, hq, rfl⟩⟩
  | none =>
    cases hv : s.freePosition with
    | some i => exact .inl ⟨i, .fresh id, rfl, rfl, rfl, .inr ⟨rfl, rfl, .inl rfl⟩⟩
    | none =>
      cases hw : s.victim with
      | some i => exact .inl ⟨i, .fresh id, rfl, rfl, rfl, .inr ⟨rfl, rfl, .inr ⟨rfl, rfl⟩⟩⟩
      | none => exact .inr ⟨rfl, rfl, rfl, rfl⟩

/-- The table after step 1 of R138, where a position was found. -/
theorem admitted_of {s : State} {r : Request} {i : Fin 8} (h : (s.admitParty (requestParty r)).2 = some i) :
    ∃ q : Party, s.admitted r = s.withParty i (some q) ∧ q.id = requestParty r ∧ q.idle = 0 ∧
      ((∃ q', s.findParty (requestParty r) = some i ∧ s.parties[i] = some q' ∧ q = { q' with idle := 0 }) ∨
       (s.findParty (requestParty r) = none ∧ q = .fresh (requestParty r) ∧
         (s.freePosition = some i ∨ s.freePosition = none ∧ s.victim = some i))) := by
  rcases admitParty_cases s (requestParty r) with ⟨j, q, h1, h2, h3, h4⟩ | ⟨h1, -⟩
  · rw [h1] at h
    cases h
    exact ⟨q, by rw [State.admitted, h1], h2, h3, h4⟩
  · rw [h1] at h; cases h

/-- The state in which a request is executed: only the record of its party is changed. -/
theorem begun_of {s : State} {r : Request} {i : Fin 8} (h : (s.admitParty (requestParty r)).2 = some i) :
    ∃ q : Party, s.begun r i = s.withParty i (some q) ∧ q.id = requestParty r ∧ q.idle = 0 ∧ q.lastSeq = some r.seq ∧
      ∃ q0 : Party, s.admitted r = s.withParty i (some q0) ∧ q = { q0 with lastSeq := some r.seq } := by
  obtain ⟨q, h1, h2, h3, -⟩ := admitted_of h
  refine ⟨{ q with lastSeq := some r.seq }, ?_, h2, h3, rfl, q, h1, rfl⟩
  rw [State.begun, h1, updateParty_self _ (withParty_parties_get s i (some q)), withParty_withParty]

/-! ## Request commands -/

/-- Every request command, out of reset and with its port running, is the agent's taking of the request. -/
theorem exec_command (q : Req) (r : Request) {s : State} (h : s.Takes r) :
    exec (q.command r) s = .next (s.serve (some q) q.code r) := by
  cases q <;> simp [Req.command, exec, execPing, execClaim, execRelease, execReadStatus, execReadProfile,
    execReadSettings, execReadCounters, execReadRecord, execReadMailbox, execReadQueue, execReadNotices,
    execWriteProfile, execWriteSettings, execRestartLink, execClearCounters, execStageClear, execStageCopy,
    execWriteRecord, execEraseRecord, execCheck, execCommit, execCancelCommit, execStart, execHalt, execInject,
    execDrainQueue, execAckNotice, execRestart, State.take, State.live, h.1, h.2]

/-- Every request command leaves the state alone or is the agent's taking of the request. -/
theorem exec_command_cases (q : Req) (r : Request) (s : State) :
    exec (q.command r) s = .next s ∨ s.Takes r ∧ exec (q.command r) s = .next (s.serve (some q) q.code r) := by
  by_cases h1 : s.resetnLow = false
  · by_cases h2 : s.portRunning r.port = true
    · exact .inr ⟨⟨h1, h2⟩, exec_command q r ⟨h1, h2⟩⟩
    · left
      cases q <;> simp [Req.command, exec, execPing, execClaim, execRelease, execReadStatus, execReadProfile,
        execReadSettings, execReadCounters, execReadRecord, execReadMailbox, execReadQueue, execReadNotices,
        execWriteProfile, execWriteSettings, execRestartLink, execClearCounters, execStageClear, execStageCopy,
        execWriteRecord, execEraseRecord, execCheck, execCommit, execCancelCommit, execStart, execHalt, execInject,
        execDrainQueue, execAckNotice, execRestart, State.take, State.live, h1, h2]
  · left
    cases q <;> simp [Req.command, exec, execPing, execClaim, execRelease, execReadStatus, execReadProfile,
      execReadSettings, execReadCounters, execReadRecord, execReadMailbox, execReadQueue, execReadNotices,
      execWriteProfile, execWriteSettings, execRestartLink, execClearCounters, execStageClear, execStageCopy,
      execWriteRecord, execEraseRecord, execCheck, execCommit, execCancelCommit, execStart, execHalt, execInject,
      execDrainQueue, execAckNotice, execRestart, State.live, h1]

/-- Step 5 of R138, where it is reached. -/
theorem serve_executes {s : State} {r : Request} {i : Fin 8} (h : s.Executes r i) (q : Option Req) (code : BitVec 8) :
    s.serve q code r = (s.admitted r).execute i q code r := by
  obtain ⟨-, h2, h3, h4⟩ := h
  obtain ⟨x, h5, -, -, -⟩ := admitted_of h2
  have hx : (s.admitted r).parties[i] = some x := by rw [h5, withParty_parties_get]
  obtain ⟨h6, h7⟩ := h3 x hx
  have hpair : s.admitParty (requestParty r) = (s.admitted r, some i) := by
    rw [← h2]; rfl
  have hroom : (s.admitted r).hasRoom r.port = true := by
    simp [State.hasRoom, h5, h4]
  have hretry : x.retryReply r.seq = none := by
    unfold Party.retryReply
    split
    · exact h7 ‹_›
    · rfl
  simp only [State.serve, hpair, hx, State.handle, h6, hretry, hroom, if_true, if_false]

/-- An executed request, from what the judgement of R139 gives in the state in which it is executed. -/
theorem exec_executes {s : State} {r : Request} {i : Fin 8} (h : s.Executes r i) (q : Req) :
    exec (q.command r) s =
      .next (match judge (some q) r (s.begun r i) with
        | (t, .now status results mark endsClaim) =>
          t.respond i r { status, seq := r.seq, code := q.code, results } mark endsClaim
        | (t, .deferred) => t.updateParty i fun y => { y with outstanding := some r.seq, cached := none }
        | (t, .gone) => t) := by
  rw [exec_command q r h.1, serve_executes h]
  simp only [State.execute, State.begun]
  cases hj : judge (some q) r ((s.admitted r).updateParty i fun y => { y with lastSeq := some r.seq }) with
  | mk t a => cases a <;> rfl

/-- An answer given at once, where the queue of the port is as before. -/
theorem exec_replied {s t : State} {r : Request} {i : Fin 8} (h : s.Executes r i) (q : Req) {status : Status}
    {results : List Word} {mark : Option RestartMark}
    (hj : judge (some q) r (s.begun r i) = (t, .now status results mark false))
    (ht : t.responses.get r.port = s.responses.get r.port) :
    exec (q.command r) s = .next (t.replied r i q.code status results mark) := by
  rw [exec_executes h, hj]
  have : ((t.updateParty i fun y => { y with
      cached := some { status, seq := r.seq, code := q.code, results } }).hasRoom r.port) = true := by
    simp [State.hasRoom, ht, h.2.2.2]
  simp [State.respond, State.enqueue, this, State.replied]

/-! ## The judgement of R139 -/

/-- The request's own rule is reached. -/
theorem judge_own {q : Req} {r : Request} {s : State} (hc : q.countOk r.selector r.operands.length = true)
    (hn : q.needsClaim = true → s.claim = some (requestParty r)) :
    judge (some q) r s = ownRule q (requestParty r) r.selector r.operands s := by
  unfold judge
  simp only [hc, Bool.not_true, Bool.false_eq_true, if_false]
  rw [if_neg]
  simpa using hn

/-- A request that passes both tests of R139 and is answered at once by its own rule. -/
theorem exec_own {s t : State} {r : Request} {i : Fin 8} {y : Party} (h : s.Executes r i)
    (hb : s.begun r i = s.withParty i (some y)) (q : Req) (hc : q.countOk r.selector r.operands.length = true)
    (hn : q.needsClaim = true → s.claim = some (requestParty r)) {status : Status} {results : List Word}
    {mark : Option RestartMark}
    (hj : ownRule q (requestParty r) r.selector r.operands (s.withParty i (some y)) =
      (t, .now status results mark false))
    (ht : t.responses.get r.port = s.responses.get r.port) :
    exec (q.command r) s = .next (t.replied r i q.code status results mark) :=
  exec_replied h q (by rw [hb, judge_own (s := s.withParty i (some y)) hc hn, hj]) ht

/-- The count of operand words does not fit. -/
theorem judge_count {q : Req} {r : Request} {s : State} (hc : q.countOk r.selector r.operands.length = false) :
    judge (some q) r s = answer s .unknown := by
  simp [judge, hc]

/-- The claim is missing. -/
theorem judge_claim {q : Req} {r : Request} {s : State} (hc : q.countOk r.selector r.operands.length = true)
    (hn : q.needsClaim = true) (h : s.claim ≠ some (requestParty r)) :
    judge (some q) r s = answer s .unclaimed := by
  simp [judge, hc, hn, h]

end Sys2Proof.Machine
end

