-- ==== Sys2Proof/Laws/Frames.lean ====
section
/-! SUPPORT. What each composite operation can change, said once: its result is the state with some fields replaced. -/

namespace Sys2Proof.Machine

/-! ## Raises and free choices -/

/-- The notice unit after several raises in one L round. -/
def NoticeUnit.raiseEach (u : NoticeUnit) (r : Round) (l : List (NoticeKind × Subject)) : NoticeUnit :=
  l.foldl (fun u x => u.raise x.1 x.2 r) u

/-- A raise replaces the notice unit alone. -/
theorem raise_eq (s : State) (k : NoticeKind) (j : Subject) :
    s.raise k j = { s with notices := s.notices.raise k j s.raiseRound } := rfl

/-- Several raises replace the notice unit alone. -/
theorem raiseAll_eq (s : State) (l : List (NoticeKind × Subject)) :
    s.raiseAll l = { s with notices := s.notices.raiseEach s.raiseRound l } := by
  induction l generalizing s with
  | nil => rfl
  | cons x t ih => rw [raiseAll_cons, ih]; rfl

/-- Two effects in either order: the one order or the other, with one free choice taken. -/
theorem either_cases (f g : State → State) (s : State) :
    either f g s = g (f { s with choice := s.choice + 1 }) ∨ either f g s = f (g { s with choice := s.choice + 1 }) := by
  unfold either
  split
  · exact .inl rfl
  · exact .inr rfl

/-! ## Plan memory -/

theorem readActive_frame (s : State) (ref : RecordRef) : ∃ u, s.readActive ref = { s with notices := u } :=
  ⟨_, raiseAll_eq s _⟩

theorem readCaptures_frame (s : State) : ∃ u, s.readCaptures = { s with notices := u } := ⟨_, raiseAll_eq s _⟩

theorem readEmits_frame (s : State) : ∃ u, s.readEmits = { s with notices := u } := ⟨_, raiseAll_eq s _⟩

/-- A capture given up replaces the words that had arrived, and takes at most one free choice. -/
theorem placeArrived_frame (s : State) (p : Port) : ∃ st k, s.placeArrived p = { s with store := st, choice := k } := by
  unfold State.placeArrived
  split
  · exact ⟨_, _, rfl⟩
  · split
    · split
      · exact ⟨_, _, rfl⟩
      · exact ⟨_, _, rfl⟩
    · exact ⟨_, _, rfl⟩

theorem cutWrite_frame (s : State) (old new : Bank) (p : Port) :
    ∃ st k, s.cutWrite old new p = { s with store := st, choice := k } := by
  unfold State.cutWrite
  split
  · exact ⟨_, _, rfl⟩
  · split
    · exact ⟨_, _, rfl⟩
    · exact placeArrived_frame s p

/-- The swap exchanges the banks and replaces what R86 to R90 name; the words of the captures it cuts are placed as far
as they had arrived. -/
theorem swap_frame (s : State) : ∃ u st k, s.swap = { s with
    active := s.staged, staged := s.active, generation := s.generation + 1
    captureOutcomes := Vector.replicate 128 none, emitOutcomes := Vector.replicate 128 none
    checkState := .unchecked, notices := u, store := st, choice := k
    mailboxes := Vector.ofFn fun n : Fin 64 =>
      if mailboxKept s.active.mailboxes[n] s.staged.mailboxes[n] then s.mailboxes[n] else .reset
    queues := Vector.ofFn fun n : Fin 8 =>
      if queueKept s.active.queues[n] s.staged.queues[n] then s.queues[n] else .reset
    contexts := ⟨s.contexts.u.map (·.swapped s.active s.staged), s.contexts.l.map (·.swapped s.active s.staged)⟩
    emitRecords :=
      ⟨s.emitRecords.u.map (·.swapped s.active s.staged), s.emitRecords.l.map (·.swapped s.active s.staged)⟩ } := by
  simp only [State.swap, raiseAll_eq, raise_eq]
  generalize NoticeUnit.raiseEach _ _ _ = u
  refine ⟨u, ?_⟩
  obtain ⟨st, k, h⟩ := cutWrite_frame { s with
    active := s.staged, staged := s.active, generation := s.generation + 1
    captureOutcomes := Vector.replicate 128 none, emitOutcomes := Vector.replicate 128 none
    checkState := .unchecked, notices := u } s.active s.staged .u
  obtain ⟨st', k', h'⟩ := cutWrite_frame { s with
    active := s.staged, staged := s.active, generation := s.generation + 1
    captureOutcomes := Vector.replicate 128 none, emitOutcomes := Vector.replicate 128 none
    checkState := .unchecked, notices := u, store := st, choice := k } s.active s.staged .l
  exact ⟨st', k', by rw [h, h']; rfl⟩

/-- The swap, or nothing. -/
theorem swapIfPending_cases (s : State) :
    (s.checkState = .commitPending ∧ s.swapIfPending = s.swap) ∨
    (s.checkState ≠ .commitPending ∧ s.swapIfPending = s) := by
  unfold State.swapIfPending
  split
  · exact .inl ⟨‹_›, rfl⟩
  · exact .inr ⟨‹_›, rfl⟩

/-! ## The agent -/

theorem enqueue_frame (s : State) (p : Port) (x : Response) :
    s.enqueue p x = { s with responses :=
      if (s.responses.get p).length < 8 then s.responses.set p (s.responses.get p ++ [x]) else s.responses } := by
  unfold State.enqueue State.hasRoom
  by_cases h : (s.responses.get p).length < 8 <;> simp [h, State.withResponses]

theorem giveDeferred_frame (s : State) (status : Status) (results : List Word) :
    ∃ ps rs, s.giveDeferred status results = { s with parties := ps, responses := rs } := by
  unfold State.giveDeferred
  split
  · exact ⟨_, _, rfl⟩
  · simp only [enqueue_frame]
    split
    · exact ⟨_, _, rfl⟩
    · exact ⟨_, _, rfl⟩

theorem abandonCheck_frame (s : State) :
    ∃ ps rs c, s.abandonCheck = { s with parties := ps, responses := rs, checkState := c } := by
  unfold State.abandonCheck
  split
  · obtain ⟨ps, rs, h⟩ := giveDeferred_frame (s.withCheck .unchecked) .abandoned []
    exact ⟨ps, rs, .unchecked, h⟩
  all_goals exact ⟨_, _, _, rfl⟩

theorem judgeClaim_frame (s : State) : ∃ ps rs c k u, s.judgeClaim =
    { s with parties := ps, responses := rs, checkState := c, claim := k, notices := u } := by
  unfold State.judgeClaim
  split
  · split
    · obtain ⟨ps, rs, c, h⟩ := abandonCheck_frame ((s.withClaim none).raise .claimExpired .none)
      exact ⟨ps, rs, c, _, _, h⟩
    · exact ⟨_, _, _, _, _, rfl⟩
  · exact ⟨_, _, _, _, _, rfl⟩

theorem agentRound_frame (s : State) : ∃ ps rs c k u, s.agentRound =
    { s with parties := ps, responses := rs, checkState := c, claim := k, notices := u } :=
  judgeClaim_frame s.countIdle

/-! ## L round starts -/

theorem ageMailboxes_frame (s : State) : ∃ u, s.ageMailboxes = { s with
    notices := u, mailboxes := Vector.ofFn fun n : Fin 64 => agedUnder s.active.mailboxes[n] s.mailboxes[n] } :=
  ⟨_, raiseAll_eq _ _⟩

/-- The fields that the blocks of an L round start can replace. -/
structure RoundEffect where
  active : Bank
  staged : Bank
  generation : BitVec 16
  captureOutcomes : Vector (Option (CaptureOutcome × Round)) 128
  emitOutcomes : Vector (Option (EmitOutcome × Round)) 128
  checkState : CheckState
  mailboxes : Vector MailboxRt 64
  queues : Vector QueueRt 8
  contexts : PerPort (Option CaptureContext)
  emitRecords : PerPort (Option EmitRecord)
  parties : Vector (Option Party) 8
  responses : PerPort (List Response)
  claim : Option PartyId
  notices : NoticeUnit
  store : Store
  choice : Nat

/-- The state with those fields replaced. -/
def State.applied (s : State) (e : RoundEffect) : State :=
  { s with
    active := e.active, staged := e.staged, generation := e.generation, captureOutcomes := e.captureOutcomes
    emitOutcomes := e.emitOutcomes, checkState := e.checkState, mailboxes := e.mailboxes, queues := e.queues
    contexts := e.contexts, emitRecords := e.emitRecords, parties := e.parties, responses := e.responses
    claim := e.claim, notices := e.notices, store := e.store, choice := e.choice }

theorem work_frame (w : RoundWork) (s : State) : ∃ e, w.run s = s.applied e := by
  cases w with
  | aging =>
    obtain ⟨u, h⟩ := ageMailboxes_frame s
    exact ⟨⟨_, _, _, _, _, _, _, _, _, _, _, _, _, _, _, _⟩, h⟩
  | agent =>
    obtain ⟨ps, rs, c, k, u, h⟩ := agentRound_frame s
    exact ⟨⟨_, _, _, _, _, _, _, _, _, _, _, _, _, _, _, _⟩, h⟩
  | swap =>
    rcases swapIfPending_cases s with ⟨-, h⟩ | ⟨-, h⟩
    · obtain ⟨u, st, k, hu⟩ := swap_frame s
      exact ⟨⟨_, _, _, _, _, _, _, _, _, _, _, _, _, _, _, _⟩, h.trans hu⟩
    · exact ⟨⟨_, _, _, _, _, _, _, _, _, _, _, _, _, _, _, _⟩, h⟩

theorem deliverIn_frame (o : RoundOrder) (s : State) : ∃ e, State.deliverIn o s = s.applied e := by
  have go : ∀ (l : List RoundWork) (s : State), ∃ e, l.foldl (fun s w => w.run s) s = s.applied e := by
    intro l
    induction l with
    | nil => exact fun s => ⟨⟨_, _, _, _, _, _, _, _, _, _, _, _, _, _, _, _⟩, rfl⟩
    | cons w t ih =>
      intro s
      obtain ⟨e, he⟩ := work_frame w s
      obtain ⟨e', he'⟩ := ih (w.run s)
      exact ⟨e', by rw [List.foldl_cons, he', he]; rfl⟩
  obtain ⟨e, he⟩ := go (orderedWork o) s
  exact ⟨{ e with notices := _ }, by rw [State.deliverIn, he]; rfl⟩

/-- The delivery of an L round start leaves every field that RoundEffect does not list. -/
theorem deliverLRound_frame (s : State) : ∃ e, s.deliverLRound = s.applied e := by
  obtain ⟨e, h⟩ := deliverIn_frame (Config.roundOrder s.choice) { s with choice := s.choice + 1 }
  exact ⟨e, h⟩

end Sys2Proof.Machine
end

