-- ==== Sys2Proof/Laws/Store.lean ====
section
/-! SUPPORT. The words of the buffer store: read after write, the frame of a write, and the canonical form. -/

namespace Sys2Proof.Machine

/-! ## Reading after writing -/

theorem storeFind_storeInsert (a b : Nat) (w : StoreWord) (st : Store) :
    storeFind a (storeInsert b w st) = if a = b then some w else storeFind a st := by
  induction st with
  | nil => simp [storeInsert, storeFind]
  | cons x t ih =>
    obtain ⟨c, v⟩ := x
    simp only [storeInsert]
    split
    · simp [storeFind]
    · split
      · subst_vars
        simp only [storeFind]
        split <;> simp_all
      · simp only [storeFind, ih]
        split <;> split <;> simp_all

theorem storeFind_storeWrite (a b : Nat) (w : StoreWord) (st : Store) :
    storeFind a (storeWrite b w st) = if a = b ∧ b < 4096 then some w else storeFind a st := by
  unfold storeWrite
  split <;> simp_all [storeFind_storeInsert]

theorem storeFind_storeWriteAll (a b : Nat) (ws : List Word) (st : Store) :
    storeFind a (storeWriteAll b ws st) =
      if b ≤ a ∧ a < b + ws.length ∧ a < 4096 then some (.good (ws.getD (a - b) 0)) else storeFind a st := by
  induction ws generalizing b st with
  | nil => simp [storeWriteAll]; omega
  | cons w ws ih =>
    rw [storeWriteAll, ih, storeFind_storeWrite]
    by_cases hb : a = b
    · subst hb
      by_cases h4 : a < 4096 <;> simp [h4]
    · by_cases hr : b + 1 ≤ a ∧ a < b + 1 + ws.length ∧ a < 4096
      · have h1 : b ≤ a ∧ a < b + (w :: ws).length ∧ a < 4096 := by simp; omega
        rw [if_pos hr, if_pos h1]
        obtain ⟨i, rfl⟩ : ∃ i, a = b + 1 + i := ⟨a - (b + 1), by omega⟩
        simp [show b + 1 + i - b = i + 1 by omega]
      · have h1 : ¬(b ≤ a ∧ a < b + (w :: ws).length ∧ a < 4096) := by simp; omega
        rw [if_neg hr, if_neg h1, if_neg (by simp [hb])]

/-- What a word reads as after a run of words has been written. -/
theorem wordAt_withStore_writeAll (s : State) (a b : Nat) (ws : List Word) :
    (s.withStore (storeWriteAll b ws s.store)).wordAt a =
      if b ≤ a ∧ a < b + ws.length ∧ a < 4096 then .good (ws.getD (a - b) 0) else s.wordAt a := by
  simp only [State.wordAt, State.withStore_store, State.withStore_storeEpoch, storeFind_storeWriteAll]
  by_cases h : a < 4096
  · by_cases hr : b ≤ a ∧ a < b + ws.length ∧ a < 4096
    · rw [if_pos h, if_pos hr, if_pos hr, Option.getD_some]
    · rw [if_pos h, if_neg hr, if_neg hr, if_pos h]
  · simp [h]

/-- What a word reads as after one word has been written. -/
theorem wordAt_withStore_write (s : State) (a b : Nat) (w : StoreWord) :
    (s.withStore (storeWrite b w s.store)).wordAt a = if a = b ∧ b < 4096 then w else s.wordAt a := by
  simp only [State.wordAt, State.withStore_store, State.withStore_storeEpoch, storeFind_storeWrite]
  by_cases h : a < 4096
  · by_cases hr : a = b ∧ b < 4096 <;> simp [h, hr]
  · have : ¬(a = b ∧ b < 4096) := by omega
    simp [h, this]

/-- Two states with the same words of the store read alike. -/
theorem wordAt_congr {s t : State} (h : t.store = s.store) (he : t.storeEpoch = s.storeEpoch) (a : Nat) :
    t.wordAt a = s.wordAt a := by
  simp [State.wordAt, h, he]

/-! ## The canonical form -/

theorem storeAbove_storeInsert {a b : Nat} {w : StoreWord} {st : Store} (hab : a < b) (h : storeAbove a st = true) :
    storeAbove a (storeInsert b w st) = true := by
  cases st with
  | nil => simpa [storeInsert, storeAbove] using hab
  | cons x t =>
    obtain ⟨c, v⟩ := x
    simp only [storeAbove, decide_eq_true_eq] at h
    simp only [storeInsert]
    split
    · simpa [storeAbove] using hab
    · split <;> simpa [storeAbove] using by omega

theorem storeWf_storeInsert {a : Nat} {w : StoreWord} {st : Store} (ha : a < 4096) (h : storeWf st = true) :
    storeWf (storeInsert a w st) = true := by
  induction st with
  | nil => simpa [storeInsert, storeWf, storeAbove] using ha
  | cons x t ih =>
    obtain ⟨b, v⟩ := x
    simp only [storeWf, Bool.and_eq_true, decide_eq_true_eq] at h
    obtain ⟨⟨hb, hab⟩, ht⟩ := h
    simp only [storeInsert]
    split
    · simp_all [storeWf, storeAbove]
    · split
      · simp_all [storeWf]
      · have : b < a := by omega
        simp [storeWf, hb, storeAbove_storeInsert this hab, ih ht]

/-- A write keeps the canonical form. -/
theorem storeWf_storeWrite {a : Nat} {w : StoreWord} {st : Store} (h : storeWf st = true) :
    storeWf (storeWrite a w st) = true := by
  unfold storeWrite
  split
  · exact storeWf_storeInsert ‹_› h
  · exact h

/-- A run of writes keeps the canonical form. -/
theorem storeWf_storeWriteAll {a : Nat} {ws : List Word} {st : Store} (h : storeWf st = true) :
    storeWf (storeWriteAll a ws st) = true := by
  induction ws generalizing a st with
  | nil => exact h
  | cons w ws ih => exact ih (storeWf_storeWrite h)

/-- Leaving words failed keeps the canonical form. -/
theorem storeWf_foldl_failed {l : List Nat} {st : Store} (h : storeWf st = true) :
    storeWf (l.foldl (fun st a => storeWrite a .failed st) st) = true := by
  induction l generalizing st with
  | nil => exact h
  | cons a l ih => exact ih (storeWf_storeWrite h)

/-- The words placed by a capture keep the canonical form. -/
theorem storeWf_placeWords {s : State} (m : MailboxRt) (base capacity : Nat) (spoiled : List Nat) (ws : List Word)
    (h : storeWf s.store = true) : storeWf (s.placeWords m base capacity spoiled ws).store = true :=
  storeWf_foldl_failed (storeWf_storeWriteAll h)

/-- A capture given up keeps the canonical form. -/
theorem storeWf_placeArrived {s : State} (p : Port) (h : storeWf s.store = true) :
    storeWf (s.placeArrived p).store = true := by
  unfold State.placeArrived
  split
  · exact h
  · split
    · split
      · exact storeWf_placeWords _ _ _ _ _ h
      · exact h
    · exact h

/-! ## Words placed (R107) -/

theorem storeFind_foldl_failed (a : Nat) (l : List Nat) (st : Store) :
    storeFind a (l.foldl (fun st b => storeWrite b .failed st) st) =
      if a ∈ l ∧ a < 4096 then some .failed else storeFind a st := by
  induction l generalizing st with
  | nil => simp
  | cons b l ih =>
    rw [List.foldl_cons, ih, storeFind_storeWrite]
    by_cases h : a ∈ l ∧ a < 4096
    · simp [h]
    · by_cases hb : a = b
      · subst hb
        by_cases h4 : a < 4096 <;> simp [h4]
      · have : ¬(a ∈ b :: l ∧ a < 4096) := by simp_all
        rw [if_neg h, if_neg this, if_neg (by simp [hb])]

/-- What a word reads as after words have been placed: the word placed, failed where it was disturbed after its placing,
and as before outside the run. -/
theorem wordAt_placeWords (s : State) (m : MailboxRt) (base capacity : Nat) (spoiled : List Nat) (ws : List Word)
    (a : Nat) :
    let start := halfBase base capacity m.half.other
    (s.placeWords m base capacity spoiled ws).wordAt a =
      if start ≤ a ∧ a < start + (ws.take capacity).length ∧ a < 4096 then
        (if a ∈ spoiled then .failed else .good ((ws.take capacity).getD (a - start) 0))
      else s.wordAt a := by
  intro start
  simp only [State.wordAt, State.placeWords, State.withStore_store, State.withStore_storeEpoch,
    storeFind_foldl_failed, storeFind_storeWriteAll, List.mem_filter, Bool.and_eq_true, decide_eq_true_eq]
  by_cases h4 : a < 4096
  · by_cases hr : start ≤ a ∧ a < start + (ws.take capacity).length
    · by_cases hs : a ∈ spoiled
      · simp_all [start]
      · simp_all [start]
    · have h1 : ¬((a ∈ spoiled ∧ start ≤ a ∧ a < start + (ws.take capacity).length) ∧ a < 4096) := fun h => hr h.1.2
      have h2 : ¬(start ≤ a ∧ a < start + (ws.take capacity).length ∧ a < 4096) := fun h => hr ⟨h.1, h.2.1⟩
      rw [if_pos h4, if_neg h1, if_neg h2, if_neg h2, if_pos h4]
  · have h2 : ¬(start ≤ a ∧ a < start + (ws.take capacity).length ∧ a < 4096) := fun h => h4 h.2.2
    rw [if_neg h4, if_neg h2, if_neg h4]

/-! ## Reads of several words -/

/-- A read gives its words exactly when each of them reads well. -/
theorem readWords_eq_some {s : State} {a k : Nat} {ws : List Word} :
    s.readWords a k = some ws ↔ ws.length = k ∧ ∀ i, i < k → s.wordAt (a + i) = .good (ws.getD i 0) := by
  induction k generalizing a ws with
  | zero => simp [State.readWords]
  | succ k ih =>
    unfold State.readWords
    cases hw : s.wordAt a with
    | failed =>
      simp only [reduceCtorEq, false_iff, not_and, not_forall]
      exact fun _ => ⟨0, Nat.succ_pos k, by simp [hw]⟩
    | good w =>
      cases ws with
      | nil => simp
      | cons x xs =>
        simp only [Option.map_eq_some_iff, List.cons.injEq, List.length_cons, Nat.add_right_cancel_iff]
        constructor
        · rintro ⟨ys, h1, rfl, rfl⟩
          obtain ⟨h2, h3⟩ := ih.1 h1
          refine ⟨h2, fun i hi => ?_⟩
          cases i with
          | zero => simpa using hw
          | succ i =>
            have := h3 i (by omega)
            rw [show a + (i + 1) = a + 1 + i by omega]
            simpa using this
        · rintro ⟨h1, h2⟩
          have h0 := h2 0 (Nat.succ_pos k)
          simp only [Nat.add_zero, hw, List.getD_cons_zero, StoreWord.good.injEq] at h0
          refine ⟨xs, ih.2 ⟨h1, fun i hi => ?_⟩, h0, rfl⟩
          have := h2 (i + 1) (by omega)
          rw [show a + 1 + i = a + (i + 1) by omega]
          simpa using this

/-- A read gives no payload exactly when one of its words has failed. -/
theorem readWords_eq_none {s : State} {a k : Nat} :
    s.readWords a k = none ↔ ∃ i, i < k ∧ s.wordAt (a + i) = .failed := by
  induction k generalizing a with
  | zero => simp [State.readWords]
  | succ k ih =>
    unfold State.readWords
    cases hw : s.wordAt a with
    | failed => exact ⟨fun _ => ⟨0, Nat.succ_pos k, hw⟩, fun _ => rfl⟩
    | good w =>
      simp only [Option.map_eq_none_iff, ih]
      constructor
      · rintro ⟨i, h1, h2⟩
        exact ⟨i + 1, by omega, by rw [show a + (i + 1) = a + 1 + i by omega]; exact h2⟩
      · rintro ⟨i, h1, h2⟩
        cases i with
        | zero => simp [hw] at h2
        | succ i => exact ⟨i, by omega, by rw [show a + 1 + i = a + (i + 1) by omega]; exact h2⟩

/-- A read depends on the words alone. -/
theorem readWords_congr {s t : State} (h : ∀ a, t.wordAt a = s.wordAt a) (a k : Nat) :
    t.readWords a k = s.readWords a k := by
  induction k generalizing a with
  | zero => rfl
  | succ k ih => simp [State.readWords, h, ih]

end Sys2Proof.Machine
end

