-- ==== Sys2Proof/WellFormed.lean ====
section
/-! DEFINITION. Which commands a link can pose: the bounds that the round link sets on what a command carries. -/

namespace Sys2Proof

/-- A source station that a legal header can carry: 1 to 254 (R5). -/
def stationOk (a : Station) : Bool := a != 0 && a != 255

/-- A request that fits a cell: a legal source and at most 11 operand words (10.1). -/
def Request.wf (r : Request) : Bool := stationOk r.station && r.operands.length ≤ 11

/-- A command that the outside of the part can pose: a payload has at most 12 words (1.3), a request fits a cell. -/
def Instr.wf : Instr → Bool
  | .powerOn _ => true
  | .resetnLow => true
  | .cellArrival _ _ _ => true
  | .payloadComplete _ payload _ => payload.length ≤ 12
  | .slotStart _ => true
  | .slotEnd _ => true
  | .transmissionEnd _ _ => true
  | .uRoundStart => true
  | .lockLapse => true
  | .alignmentDue => true
  | .lRoundStart => true
  | .mailboxBecomesStale _ => true
  | .claimTimeout => true
  | .noticeDue _ => true
  | .commitSwap => true
  | .checkComplete => true
  | .linkStartU => true
  | .linkStartL => true
  | .bridgeRestart => true
  | .planRecordDisturbed _ _ _ => true
  | .storeWordDisturbed _ _ => true
  | .ping r => r.wf
  | .claim r => r.wf
  | .release r => r.wf
  | .readStatus r => r.wf
  | .readProfile r => r.wf
  | .readSettings r => r.wf
  | .readCounters r => r.wf
  | .readRecord r => r.wf
  | .readMailbox r => r.wf
  | .readQueue r => r.wf
  | .readNotices r => r.wf
  | .writeProfile r => r.wf
  | .writeSettings r => r.wf
  | .restartLink r => r.wf
  | .clearCounters r => r.wf
  | .stageClear r => r.wf
  | .stageCopy r => r.wf
  | .writeRecord r => r.wf
  | .eraseRecord r => r.wf
  | .check r => r.wf
  | .commit r => r.wf
  | .cancelCommit r => r.wf
  | .start r => r.wf
  | .halt r => r.wf
  | .inject r => r.wf
  | .drainQueue r => r.wf
  | .ackNotice r => r.wf
  | .restart r => r.wf

end Sys2Proof
end

