-- ==== Sys2Proof/Tests/Slice0.lean ====
section
/-! SUPPORT. Tests of single steps, words written out from Chapter 12, and states that meet the hypotheses of the
statements. -/

namespace Sys2Proof.Tests

set_option Elab.async false

open Sys2Proof Sys2Proof.Machine

/-! ## Helpers -/

/-- The next state, or the state itself. -/
def after (c : Instr) (s : State) : State :=
  match exec c s with
  | .next t => t
  | .fault _ => s
  | .refused _ => s

/-- The request (L, 7) with sequence number 9. -/
def req (sel : BitVec 16) (ops : List Word) : Request :=
  { port := .l, station := 7, seq := 9, selector := sel, operands := ops }

def own7 : PartyId := { port := .l, station := 7 }

/-- A record of a party whose last request had sequence number 8. -/
def partyOf (id : PartyId) : Party :=
  { id, lastSeq := some 8, cached := some ⟨.ok, 8, 1, []⟩, outstanding := none, idle := 3 }

/-- Port L in UNTIED in slot 5 of round 9, (L, 7) in the table and holding the claim. -/
def held7 : State :=
  { State.reset with
    lTime := { LocalRecord.roundStarted .untied 9 with slot := some 5, lastSlot := 5 }
    parties := State.reset.parties.set 0 (some (partyOf own7))
    claim := some own7 }

/-- The status and results of the newest response on L. -/
def answered (s : State) : Option (Status × List Word) :=
  s.responses.l.getLast?.map fun r => (r.reply.status, r.reply.results)

/-- The definition of a TAKE mailbox of 2 words at word 16, stale limit 2, notify. -/
def mailDef : MailboxDef := { base := 16, capacity := 2, readMode := .take, staleLimit := 2, notifyStale := true }

/-- The definition of a queue of 2 entries of 2 words at word 0, retry limit 1. -/
def queueDef : QueueDef := { base := 0, capacity := 2, depth := 2, fullPolicy := .replaceOldest, retryLimit := 1 }

/-- A bank with mailbox 0, queue 0 and at most one capture and one emit entry, each with number 0. -/
def bankOf (c : Option CaptureEntry) (e : Option EmitEntry) : Bank :=
  { Bank.empty with
    mailboxes := Bank.empty.mailboxes.set 0 ⟨some mailDef, true⟩
    queues := Bank.empty.queues.set 0 ⟨some queueDef, true⟩
    captures := Bank.empty.captures.set 0 ⟨c, true⟩
    emits := Bank.empty.emits.set 0 ⟨e, true⟩ }

def captureTo (t : Place) : CaptureEntry :=
  { port := .l, slot := 5, rounds := { period := 4, phase := 1 }, target := t, acceptFrom := 9 }

def emitFrom (t : Place) : EmitEntry :=
  { port := .l, slot := 5, rounds := { period := 4, phase := 1 }, source := t, onEmpty := .void, onStale := .sendMarked,
    origin := .preserve }

/-! ## WellFormed and Decode -/

theorem test_wf_refuses_station_zero : (Instr.ping ⟨.l, 0, 9, 0, []⟩).wf = false := by decide +kernel

theorem test_wf_refuses_station_255 : (Instr.claim ⟨.l, 255, 9, 0, []⟩).wf = false := by decide +kernel

theorem test_wf_refuses_12_operands : (Instr.ping (req 0 (List.replicate 12 0))).wf = false := by decide +kernel

theorem test_wf_refuses_13_words : (Instr.payloadComplete .u (List.replicate 13 0) 0).wf = false := by decide +kernel

theorem test_wf_accepts_12_words : (Instr.payloadComplete .u (List.replicate 12 0) 0).wf = true := by decide +kernel

theorem test_decode_spells_none : decodeTableWord 8 1 = none := rfl

theorem test_withFetchWord_unchanged : State.reset.withFetchWord 8 1 = State.reset := rfl

/-! ## Words of Chapter 12; the checks were computed bit by bit outside the model -/

theorem test_header_data : parseHeader 0x200500070900027f#64 =
    some { kind := .data, stale := false, round := 5, slot := 7, source := 9, dest := 0, length := 2 } := by decide +kernel

theorem test_header_reserved_bits_ignored : parseHeader 0x4f05fc0709000036#64 =
    some { kind := .void, stale := false, round := 5, slot := 7, source := 9, dest := 0, length := 0 } := by decide +kernel

theorem test_header_largest : parseHeader 0xb07f03fffefe0c14#64 =
    some { kind := .response, stale := true, round := 127, slot := 1023, source := 254, dest := 254, length := 12 } := by
  decide +kernel

theorem test_header_bad_check : parseHeader 0x200500070900027e#64 = none := by decide +kernel

theorem test_header_sent :
    Header.wire ⟨.request, false, 0, 5, 7, 1, 2⟩ = 0x8000000507010205#64 := by decide +kernel

theorem test_payload_check : payloadCheck [0x01090000, 0xdeadbeef] = 0x28eb#16 ∧ payloadCheck [1, 2] = 0xf2ca#16 := by
  decide +kernel

/-- A DATA cell on the line: header, two words, check high byte first (12.1). -/
theorem test_cell_bytes :
    ({ header := ⟨.data, false, 9, 5, 9, 0, 2⟩, payload := [0x01090000, 0xdeadbeef] } : Cell).bytes =
      [0x20, 0x09, 0x00, 0x05, 0x09, 0x00, 0x02, 0xbb, 0x01, 0x09, 0x00, 0x00, 0xde, 0xad, 0xbe, 0xef, 0x28, 0xeb] ∧
    ({ header := ⟨.void, false, 9, 5, 9, 0, 0⟩, payload := [] } : Cell).bytes =
      [0x40, 0x09, 0x00, 0x05, 0x09, 0x00, 0x00, 0x67] := by decide +kernel

/-- Table 12-6: base 16, capacity 2, TAKE, notify, stale limit 2. -/
theorem test_mailbox_word : parseMailboxDef 0x0102c002#32 = some mailDef ∧ mailDef.words = [0x0102c002] := by decide +kernel

/-- Base 0, capacity 2, depth 2, REPLACE_OLDEST, retry limit 1. -/
theorem test_queue_word : parseQueueDef 0x00020a40#32 = some queueDef ∧ queueDef.words = [0x00020a40] := by decide +kernel

/-- Port L, slot 5, period 4, phase 1, mailbox 0, accept-from 9. -/
theorem test_capture_words : parseCaptureEntry 0x80050401#32 0x40000009#32 = some (captureTo (.mailbox 0)) := by decide +kernel

/-- Queue 0, VOID, SEND_MARKED, PRESERVE. -/
theorem test_emit_words : parseEmitEntry 0x80050401#32 0x80005400#32 = some (emitFrom (.queue 0)) := by decide +kernel

theorem test_record_codes_refused : parseCaptureEntry 0xc0050401#32 0x40000009#32 = none ∧
    parseMailboxDef 0x010dc002#32 = none ∧ parseEmitEntry 0x80050301#32 0x80005400#32 = none := by decide +kernel

/-- Table 12-8 for the power-up profiles with strap value 5. -/
theorem test_profile_words : (UProfile.powerUp 5).words = [0x80060040, 0x00060a41, 0, 0] ∧
    (LProfile.powerUp 5).words = [0xc0060040, 0x00010002, 0x00000a00] := by decide +kernel

/-- A beacon announcing 64 slots in TIED. -/
theorem test_beacon_word : beaconWord true 64 = 0x80000040#32 := by decide +kernel

/-! ## Single steps: events -/

/-- `held7` with a plan of one capture entry and one emit entry, forwarding. -/
def planned (t e : Place) : State :=
  { held7 with active := bankOf (some (captureTo t)) (some (emitFrom e)), forwarding := .forwarding }

/-- The context of a DATA cell captured into mailbox 0. -/
def mailContext : CaptureContext := { entry := 0, round := 9, target := .mailbox 0 16 2 [], mark := .none }

/-- Header of the DATA cell of slot 5 in round 9 from station 9, of 2 words. -/
def dataHeader : Header := { kind := .data, stale := false, round := 9, slot := 5, source := 9, dest := 0, length := 2 }

def receptionOf5 (h : Header) : Reception :=
  { header := h, slotAt := some 5, roundAt := some 9, inWindow := true, deliverable := true }

/-- A capture into mailbox 0 in progress on L. -/
def capturing : State :=
  { planned (.mailbox 0) (.queue 0) with
    rx := ⟨none, some (receptionOf5 dataHeader)⟩
    contexts := ⟨none, some mailContext⟩
    mailboxes := State.reset.mailboxes.set 0 { MailboxRt.reset with openWrite := some .l } }

/-- Port L idle before round 10. -/
def idle9 : State := { held7 with lTime := { held7.lTime with running := false, slot := none } }

/-- Port U LOCKED in round 100, after its last slot. -/
def locked100 : State :=
  { held7 with uTime := { State.reset.uTime with state := .locked, round := some 100, lastSlot := 64 } }

theorem test_power_on : (after (.powerOn 5) held7).uStored.station = 6 ∧ (after (.powerOn 5) held7).claim = none := by
  decide +kernel

theorem test_resetn_low : (after .resetnLow held7).attn = false := by decide +kernel

theorem test_arrival_malformed :
    (after (.cellArrival .l 0x200500070900027e true) held7).counters.l.malformed = 1 := by decide +kernel

/-- The DATA header opens the write and begins the reception; a VOID cell in its place completes and is GOOD (R9, R10). -/
theorem test_arrival_opens_write :
    let s := planned (.mailbox 0) (.queue 0)
    let t := after (.cellArrival .l 0x20090005090002bb true) s
    let v := after (.cellArrival .l 0x4009000509000067 true) s
    t.mailboxes[0].openWrite = some .l ∧ t.rx.l = some (receptionOf5 dataHeader) ∧ v.counters.l.good = 1 ∧
    v.rx.l = none ∧ v.slotFlags.l = ⟨true, false⟩ := by decide +kernel

/-- A DATA cell of length 0 flips the mailbox at once. -/
theorem test_arrival_zero_length :
    let t := after (.cellArrival .l 0x20090005090000e5 true) (planned (.mailbox 0) (.queue 0))
    t.mailboxes[0].state = .fresh ∧ t.mailboxes[0].half = .b ∧ t.mailboxes[0].length = 0 ∧ t.counters.l.good = 1 ∧
    t.captureOutcomes[0] = some (.received, 9) := by decide +kernel

/-- A failed capture entry matches nothing and raises PLAN_PARITY. -/
theorem test_arrival_failed_entry :
    let s := planned (.mailbox 0) (.queue 0)
    let t := after (.cellArrival .l 0x20090005090002bb true) { s with active := s.active.disturb (.capture 0) }
    t.mailboxes[0].openWrite = none ∧ t.notices.entries.map (·.kind) = [.started, .planParity] := by decide +kernel

theorem test_payload_flips :
    let m := (after (.payloadComplete .l [0xaaaa0001, 0xbbbb0002] 0x7a13) capturing).mailboxes[0]
    m.state = .fresh ∧ m.half = .b ∧ m.length = 2 ∧ m.source = some 9 := by decide +kernel

theorem test_payload_bad_check :
    let t := after (.payloadComplete .l [0xaaaa0001, 0xbbbb0002] 0) capturing
    t.mailboxes[0].state = .empty ∧ t.captureOutcomes[0] = some (.invalid, 9) := by decide +kernel

theorem test_slot_start_beacon :
    (after (.slotStart .l) State.reset).tx.l.map (·.header.kind) = some .beacon := by decide +kernel

theorem test_slot_end_empty :
    (after (.slotEnd .l) (planned (.mailbox 0) (.queue 0))).captureOutcomes[0] = some (.empty, 9) := by decide +kernel

theorem test_transmission_end_disturbed :
    (after (.transmissionEnd .l .disturbed)
      { held7 with tx := ⟨none, some ⟨{ dataHeader with kind := .beacon }, []⟩⟩ }).counters.l.disturbed = 1 := by
  decide +kernel

theorem test_u_round_start_aligns :
    (after .uRoundStart { locked100 with uTime := { locked100.uTime with state := .align, consistentSeen := true } }
      ).uTime.state = .confirm := by decide +kernel

theorem test_lock_lapse_waits : (after .lockLapse locked100).uTime.state = .locked := by decide +kernel

theorem test_alignment_held :
    (after .alignmentDue { held7 with lTime := { held7.lTime with state := .tied, pending := some ⟨3, 0, false⟩ } }
      ).lTime.pending = some ⟨3, 0, true⟩ := by decide +kernel

theorem test_round_ages (o : RoundOrder) :
    (State.deliverIn o { idle9 with
      active := bankOf none none
      mailboxes := State.reset.mailboxes.set 0
        { MailboxRt.reset with state := .fresh, age := 1, source := some 9, round := some 1 } }).mailboxes[0].state =
      .stale := by
  cases o <;> decide +kernel

theorem test_round_expires_claim (o : RoundOrder) :
    (State.deliverIn o { idle9 with parties := idle9.parties.set 0 (some { partyOf own7 with idle := 63 }) }).claim =
      none := by
  cases o <;> decide +kernel

theorem test_round_swaps (o : RoundOrder) :
    (State.deliverIn o { idle9 with checkState := .commitPending }).generation = 1 := by
  cases o <;> decide +kernel

theorem test_stale_not_due : (after (.mailboxBecomesStale 0) idle9).lTime = idle9.lTime := by decide +kernel

theorem test_claim_not_due : (after .claimTimeout idle9).lTime = idle9.lTime := by decide +kernel

theorem test_notice_not_due : (after (.noticeDue 0) idle9).lTime = idle9.lTime := by decide +kernel

theorem test_swap_not_due : (after .commitSwap idle9).lTime = idle9.lTime := by decide +kernel

theorem test_l_round_start_needs_idle : (after .lRoundStart held7).lTime = held7.lTime := by decide +kernel

theorem test_check_passes :
    (after .checkComplete { held7 with
      checkState := .checking own7 ⟨64, 1, 64, 1, 2⟩ [], staged := bankOf (some (captureTo (.mailbox 0))) none
      parties := held7.parties.set 0 (some { partyOf own7 with outstanding := some 8 }) }).checkState = .passed := by
  decide +kernel

/-- Slot 2 is the L response slot: RESERVED_SLOT. -/
theorem test_check_reserved_slot :
    (after .checkComplete { held7 with
      checkState := .checking own7 ⟨64, 1, 64, 1, 2⟩ []
      staged := bankOf (some { captureTo (.mailbox 0) with slot := 2 }) none }).checkState =
      .failed .reservedSlot (.capture 0) := by decide +kernel

theorem test_link_start_u : (after .linkStartU held7).uTime.state = .seek := by decide +kernel

theorem test_link_start_l_disabled :
    (after .linkStartL { held7 with lStored := { held7.lStored with enabled := false } }).lTime.state = .off := by
  decide +kernel

/-- The flush of the L queue removes a RESTART mark: a bridge restart. -/
theorem test_link_start_flushes_restart :
    (after .linkStartL { held7 with responses := ⟨[], [⟨7, ⟨.ok, 1, 28, []⟩, some .bridge⟩]⟩ }).parties[0] = none := by
  decide +kernel

theorem test_bridge_restart : (after .bridgeRestart held7).parties[0] = none := by decide +kernel

theorem test_record_disturbed :
    (after (.planRecordDisturbed .active (.mailbox 0) false) held7).active.mailboxes[0].parityGood = false := by
  decide +kernel

theorem test_word_disturbed : (after (.storeWordDisturbed 4095 false) held7).wordAt 4095 = .failed := by decide +kernel

/-! ## Single steps: requests -/

theorem test_ping : answered (after (.ping (req 0 [1, 2])) held7) = some (.ok, [1, 2]) := by decide +kernel

theorem test_claim_held :
    answered (after (.claim { req 0 [] with station := 8 }) held7) = some (.held, [0x80070000]) := by decide +kernel

theorem test_release : (after (.release (req 0 [])) held7).claim = none := by decide +kernel

/-- Revision 1, strap 0; U SEEK with no round, L UNTIED in round 9; claim (L, 7), one notice. -/
theorem test_read_status : answered (after (.readStatus (req 0 [])) held7) =
    some (.ok, [0x096c0100, 0x01ff0109, 0, 0, 0x80070100]) := by decide +kernel

theorem test_read_profile : answered (after (.readProfile (req 0x8000 [])) held7) =
    some (.ok, [0xc0010040, 0x00010002, 0xa00, 0xc0010040, 0x00010002, 0xa00, 0]) := by decide +kernel

theorem test_read_settings : answered (after (.readSettings (req 0 [])) held7) = some (.ok, [0x40100000]) := by
  decide +kernel

theorem test_read_counters : answered (after (.readCounters (req 0x4000 [])) { held7 with
    counters := ⟨⟨1, 2, 3, 4, 5, 6⟩, .zero⟩ }) = some (.ok, [0x00010002, 0x00030004, 0x00050006]) := by decide +kernel

theorem test_read_record : answered (after (.readRecord (req 0x4800 [])) (planned (.mailbox 0) (.queue 0))) =
    some (.ok, [0, 0x0102c002]) := by decide +kernel

theorem test_read_mailbox_empty :
    answered (after (.readMailbox (req 0 [0])) (planned (.mailbox 0) (.queue 0))) = some (.ok, [0x000000ff, 0]) := by
  decide +kernel

theorem test_read_queue :
    answered (after (.readQueue (req 0 [])) (planned (.mailbox 0) (.queue 0))) = some (.ok, [0]) := by decide +kernel

/-- One entry: STARTED, id 0, count 1, countdown 0. -/
theorem test_read_notices : answered (after (.readNotices (req 0 [])) held7) =
    some (.ok, [0x01000000, 0x00010100, 0]) := by decide +kernel

theorem test_write_profile_state :
    answered (after (.writeProfile (req 0x8000 [0x40010040, 0x00010002, 0xa00])) held7) = some (.state, []) := by
  decide +kernel

theorem test_write_profile_stored :
    (after (.writeProfile (req 0x8000 [0xc0030020, 0x00040005, 0x00100a46])) held7).lStored =
      { enabled := true, station := 3, slotCount := 32, slotLength := 10, beaconSlot := 4, responseSlot := 5,
        tieEnabled := true, tieOffset := 16, noticeTarget := 70 } := by decide +kernel

theorem test_write_settings :
    (after (.writeSettings (req 0 [0x08040000])) held7).settings = { claimTimeout := 8, repeatInterval := 4 } ∧
    answered (after (.writeSettings (req 0 [0x07040000])) held7) = some (.range, []) := by decide +kernel

theorem test_restart_link_marked :
    (after (.restartLink (req 0x8000 [])) held7).responses.l.map (·.mark) = [some (.link .l)] := by decide +kernel

theorem test_clear_counters :
    (after (.clearCounters (req 0x4000 [])) { held7 with counters := ⟨⟨1, 2, 3, 4, 5, 6⟩, .zero⟩ }).counters.u = .zero := by
  decide +kernel

theorem test_stage_clear :
    (after (.stageClear (req 0 [])) { held7 with staged := bankOf none none }).staged.mailboxes[0] = .undefined := by
  decide +kernel

theorem test_stage_copy :
    (after (.stageCopy (req 0 [])) (planned (.mailbox 0) (.queue 0))).staged.mailboxes[0].fields = some mailDef := by
  decide +kernel

theorem test_write_record :
    (after (.writeRecord (req 0x0800 [0x0102c002])) { held7 with checkState := .passed }).staged.mailboxes[0] =
      ⟨some mailDef, true⟩ := by decide +kernel

theorem test_erase_record_busy :
    answered (after (.eraseRecord (req 0x0800 [])) { held7 with checkState := .commitPending }) = some (.busy, []) := by
  decide +kernel

theorem test_check_taken :
    (after (.check (req 0 [])) held7).checkState = .checking own7 ⟨64, 1, 64, 1, 2⟩ [] ∧
    (after (.check (req 0 [])) held7).responses.l = [] := by decide +kernel

theorem test_commit : answered (after (.commit (req 0 [])) { held7 with checkState := .passed }) = some (.pending, []) ∧
    answered (after (.commit (req 0 [])) held7) = some (.notChecked, []) := by decide +kernel

theorem test_cancel_commit :
    (after (.cancelCommit (req 0 [])) { held7 with checkState := .commitPending }).checkState = .passed := by
  decide +kernel

theorem test_start : (after (.start (req 0 [])) held7).forwarding = .forwarding := by decide +kernel

theorem test_halt : (after (.halt (req 0 [])) { held7 with forwarding := .forwarding }).forwarding = .halted := by
  decide +kernel

/-- Half B of mailbox 0 begins at word 18. -/
theorem test_inject :
    let t := after (.inject (req 0 [0xcafe])) (planned (.mailbox 0) (.queue 0))
    t.wordAt 18 = .good 0xcafe ∧ t.mailboxes[0].source = some 7 := by decide +kernel

theorem test_drain_queue :
    answered (after (.drainQueue (req 0 [])) { planned (.mailbox 0) (.queue 0) with
      queues := State.reset.queues.set 0 ⟨[⟨1, 9, 3, false⟩, ⟨2, 9, 4, false⟩], some .u, 0, false, 0⟩ }) =
      some (.ok, [1]) := by decide +kernel

theorem test_ack_notice : (after (.ackNotice (req 0 [])) held7).attn = false := by decide +kernel

theorem test_restart_marked :
    (after (.restart (req 0 [])) held7).responses.l.map (·.mark) = [some .bridge] := by decide +kernel

/-- The valid REQUEST cell of a PING with one operand is answered. -/
theorem test_request_cell :
    answered (after (.payloadComplete .l [0x01090000, 5] 0x669b)
      { held7 with rx := ⟨none, some (receptionOf5 { dataHeader with kind := .request, source := 7, dest := 1 })⟩ }) =
      some (.ok, [5]) := by decide +kernel

/-- The same with code 29, which is no request's. -/
theorem test_request_cell_unknown :
    answered (after (.payloadComplete .l [0x1d090000, 5] 0x175a)
      { held7 with rx := ⟨none, some (receptionOf5 { dataHeader with kind := .request, source := 7, dest := 1 })⟩ }) =
      some (.unknown, []) := by decide +kernel

/-! ## Witnesses: for each statement with hypotheses, a state and operands that meet them, clause by clause -/

theorem bankOf_mailbox (c : Option CaptureEntry) (e : Option EmitEntry) (n : Fin 64) :
    (bankOf c e).mailboxes[n] = if n = 0 then ⟨some mailDef, true⟩ else .undefined := by
  by_cases h : n = 0
  · subst h; rfl
  · have : (0 : Nat) ≠ n := fun x => h (Fin.ext x.symm)
    simp [bankOf, Bank.empty, this, h]

theorem bankOf_queue (c : Option CaptureEntry) (e : Option EmitEntry) (n : Fin 8) :
    (bankOf c e).queues[n] = if n = 0 then ⟨some queueDef, true⟩ else .undefined := by
  by_cases h : n = 0
  · subst h; rfl
  · have : (0 : Nat) ≠ n := fun x => h (Fin.ext x.symm)
    simp [bankOf, Bank.empty, this, h]

theorem bankOf_capture (c : Option CaptureEntry) (e : Option EmitEntry) (n : Fin 128) :
    (bankOf c e).captures[n] = if n = 0 then ⟨c, true⟩ else .undefined := by
  by_cases h : n = 0
  · subst h; rfl
  · have : (0 : Nat) ≠ n := fun x => h (Fin.ext x.symm)
    simp [bankOf, Bank.empty, this, h]

theorem bankOf_emit (c : Option CaptureEntry) (e : Option EmitEntry) (n : Fin 128) :
    (bankOf c e).emits[n] = if n = 0 then ⟨e, true⟩ else .undefined := by
  by_cases h : n = 0
  · subst h; rfl
  · have : (0 : Nat) ≠ n := fun x => h (Fin.ext x.symm)
    simp [bankOf, Bank.empty, this, h]

/-- The sample banks have good parity throughout. -/
theorem bankOf_sound (c : Option CaptureEntry) (e : Option EmitEntry) (ref : RecordRef) :
    (bankOf c e).parityGood ref = true := by
  cases ref with
  | mailbox n => simp only [Bank.parityGood, bankOf_mailbox]; split <;> rfl
  | queue n => simp only [Bank.parityGood, bankOf_queue]; split <;> rfl
  | capture n => simp only [Bank.parityGood, bankOf_capture]; split <;> rfl
  | emit n => simp only [Bank.parityGood, bankOf_emit]; split <;> rfl

/-- Only entry 0 of either kind can be defined in them. -/
theorem bankOf_oneMatch (c : Option CaptureEntry) (e : Option EmitEntry) : (bankOf c e).OneMatch := by
  refine ⟨fun m n d x _ _ _ h1 h2 _ _ => ?_, fun m n d x _ _ _ h1 h2 _ _ => ?_⟩
  · rw [bankOf_capture] at h1 h2
    by_cases hm : m = 0
    · by_cases hn : n = 0
      · rw [hm, hn]
      · rw [if_neg hn] at h2; cases h2
    · rw [if_neg hm] at h1; cases h1
  · rw [bankOf_emit] at h1 h2
    by_cases hm : m = 0
    · by_cases hn : n = 0
      · rw [hm, hn]
      · rw [if_neg hn] at h2; cases h2
    · rw [if_neg hm] at h1; cases h1

/-- The sample bank is in range when its two entries are. -/
theorem bankOf_inRange {c : Option CaptureEntry} {e : Option EmitEntry} (hc : ∀ x, c = some x → x.ok = true)
    (he : ∀ x, e = some x → x.ok = true) : (bankOf c e).InRange := by
  refine ⟨fun n d h => ?_, fun n d h => ?_, fun n d h => ?_, fun n d h => ?_⟩
  · rw [bankOf_mailbox] at h; split at h <;> cases h; decide
  · rw [bankOf_queue] at h; split at h <;> cases h; decide
  · rw [bankOf_capture] at h
    split at h
    · exact hc d h
    · cases h
  · rw [bankOf_emit] at h
    split at h
    · exact he d h
    · cases h

/-- `State.Executes`, decided. -/
def executesB (s : State) (r : Request) (i : Fin 8) : Bool :=
  !s.resetnLow && s.portRunning r.port && (s.admitParty (requestParty r)).2 = some i &&
  (match (s.admitted r).parties[i] with
    | some q => q.outstanding ≠ some r.seq && (q.lastSeq ≠ some r.seq || q.cached = none)
    | none => true) &&
  (s.responses.get r.port).length < 8

theorem executes_of {s : State} {r : Request} {i : Fin 8} (h : executesB s r i = true) : s.Executes r i := by
  simp only [executesB, Bool.and_eq_true, Bool.not_eq_true', decide_eq_true_eq] at h
  obtain ⟨⟨⟨⟨h1, h2⟩, h3⟩, h4⟩, h5⟩ := h
  refine ⟨⟨h1, h2⟩, h3, fun q hq => ?_, h5⟩
  rw [hq] at h4
  simp at h4
  exact ⟨h4.1, fun e => h4.2.resolve_left fun h => h e⟩

/-! ### The machine, arrivals, payloads -/

theorem witness_StepExecutesFrontCommand :
    ({ held7 with pending := [.uRoundStart, .lRoundStart] } : State).pending = .uRoundStart :: [.lRoundStart] ∧
    held7.pending = [] := ⟨rfl, rfl⟩

theorem witness_PowerOnSetsAndResetnLowHoldsThePart : ({ held7 with resetnLow := true } : State).resetnLow = true ∧
    (∀ strap, Instr.uRoundStart ≠ .powerOn strap) ∧ Instr.uRoundStart ≠ .resetnLow :=
  ⟨rfl, by simp, by simp⟩

/-- While a capture into mailbox 0 is in progress on L, words 18 and 19 are those it may have placed. -/
theorem capturing_arrivesAt (a : Nat) : capturing.ArrivesAt .l a ↔ 18 ≤ a ∧ a < 20 := by
  constructor
  · rintro ⟨c, n, base, capacity, spoiled, ⟨hc, -, ht, -⟩, h1, h2⟩
    cases hc
    cases ht
    exact ⟨h1, h2⟩
  · exact fun h => ⟨mailContext, 0, 16, 2, [], ⟨rfl, by decide, rfl, rfl⟩, h.1, h.2⟩

theorem witness_BridgeRestartKeepsStoredProfilesAndWords : capturing.resetnLow = false ∧ ¬capturing.ArrivesAt .u 17 ∧
    ¬capturing.ArrivesAt .l 17 ∧ ¬capturing.ArrivesAt .l 20 ∧ capturing.ArrivesAt .l 18 := by
  refine ⟨rfl, ?_, by rw [capturing_arrivesAt]; omega, by rw [capturing_arrivesAt]; omega, by rw [capturing_arrivesAt]; omega⟩
  rintro ⟨c, n, base, capacity, spoiled, ⟨hc, -⟩, -⟩
  cases hc

theorem witness_RefusedArrivalIsCountedOnce_deaf : held7.resetnLow = false ∧
    ({ held7 with uTime := .atStart false } : State).portOff .u = true ∧
    (({ held7 with slotFlags := ⟨.clear, ⟨false, true⟩⟩ } : State).slotFlags.get .l).sent = true := by decide +kernel

theorem witness_RefusedArrivalIsCountedOnce_malformed : held7.resetnLow = false ∧ held7.portOff .l = false ∧
    (held7.slotFlags.get .l).sent = false ∧ parseHeader 0x200500070900027e = none := by decide +kernel

theorem witness_RefusedArrivalIsCountedOnce_misplaced : held7.placementApplies .l = true ∧
    parseHeader 0x200900060900024b = some { dataHeader with slot := 6 } ∧ held7.currentSlot .l ≠ some 6 ∧
    parseHeader 0x20080005090002ef = some { dataHeader with round := 8 } ∧ held7.currentRound .l ≠ some 8 := by
  decide +kernel

theorem witness_RefusedArrivalIsCountedOnce_late : parseHeader 0x20090005090002bb = some dataHeader ∧
    held7.currentSlot .l = some 5 ∧ held7.currentRound .l = some 9 ∧
    (({ held7 with slotFlags := ⟨.clear, ⟨true, false⟩⟩ } : State).slotFlags.get .l).accepted = true := by decide +kernel

theorem witness_AcceptedHeaderBeginsReception_placed : held7.portOff .l = false ∧
    (held7.slotFlags.get .l).sent = false ∧ (held7.slotFlags.get .l).accepted = false ∧
    parseHeader 0xa00900050801011f = some ⟨.response, false, 9, 5, 8, 1, 1⟩ ∧ held7.contexts.get .l = none ∧
    held7.currentSlot .l = some 5 ∧ held7.currentRound .l = some 9 := by decide +kernel

theorem witness_AcceptedHeaderBeginsReception_unplaced : held7.portOff .u = false ∧
    (held7.slotFlags.get .u).sent = false ∧ held7.placementApplies .u = false ∧ held7.delivers .u = false ∧
    held7.contexts.get .u = none ∧ parseHeader 0x2064003f03000252 = some ⟨.data, false, 100, 63, 3, 0, 2⟩ ∧
    parseHeader 0x6064004003000116 = some ⟨.beacon, false, 100, 64, 3, 0, 1⟩ := by decide +kernel

/-- The common hypotheses of CaptureAtHeaderFollowsTable, with a plan whose entry 0 does not match and one whose entry
matches. -/
theorem witness_CaptureAtHeaderFollowsTable (c : Option CaptureEntry) (e : Option EmitEntry) :
    let s := { held7 with active := bankOf c e }
    s.resetnLow = false ∧ s.portOff .l = false ∧ s.slotFlags.get .l = .clear ∧
    parseHeader 0x20090005090002bb = some dataHeader ∧ s.currentSlot .l = some 5 ∧ s.currentRound .l = some 9 ∧
    s.delivers .l = true ∧ s.contexts.get .l = none ∧ s.ActiveSound ∧ s.active.OneMatch :=
  ⟨rfl, rfl, rfl, by decide +kernel, rfl, rfl, rfl, rfl, bankOf_sound c e, bankOf_oneMatch c e⟩

theorem witness_CaptureAtHeaderFollowsTable_noMatch : ∀ (n : Fin 128) (e : CaptureEntry),
    (bankOf none none).captures[n].fields = some e → e.hits .l 5 9 = false := by
  intro n e h
  rw [bankOf_capture] at h
  split at h <;> cases h

theorem witness_CaptureAtHeaderFollowsTable_lines :
    (captureTo (.mailbox 0)).hits .l 5 9 = true ∧ (bankOf none none).placeDefined (.mailbox 63) = false ∧
    (bankOf none none).placeDefined (.mailbox 0) = true ∧ (bankOf none none).placeDefined (.queue 0) = true ∧
    (captureTo (.mailbox 0)).acceptFrom ≠ 0 ∧ (captureTo (.mailbox 0)).acceptFrom = dataHeader.source ∧
    parseHeader 0x20090005080002b5 = some { dataHeader with source := 8 } ∧
    parseHeader 0x4009000509000067 = some { dataHeader with kind := .void, length := 0 } ∧
    held7.mailboxes[0].openWrite = none ∧ capturing.mailboxes[0].openWrite.isSome = true := by decide +kernel

/-- Port L before slot `k + 1` of round 9. -/
def beforeL (k : Nat) : State :=
  { held7 with lTime := { held7.lTime with slot := none, lastSlot := k }, active := bankOf none none }

/-- Port L idle in UNTIED before round 10. -/
theorem starts_untied {s : State} (h : s.resetnLow = false) (ht : s.lTime = idle9.lTime) :
    s.StartsLRound .lRoundStart .untied 10 :=
  ⟨h, .inl ⟨rfl, by rw [ht]; rfl, by rw [ht]; rfl, rfl, 9, by rw [ht]; rfl, rfl⟩⟩

/-- Cells of length 0: a RESPONSE and a REQUEST in their slot, a VOID cell on U in SEEK, a DATA cell that entry 0
captures. -/
theorem witness_ZeroLengthCellCompletesAtItsHeader (t e : Place) :
    let s := planned t e
    s.resetnLow = false ∧ s.portOff .l = false ∧ (s.slotFlags.get .l).sent = false ∧ s.contexts.get .l = none ∧
    parseHeader 0xa009000508010030 = some ⟨.response, false, 9, 5, 8, 1, 0⟩ ∧
    parseHeader 0x80090005080100ab = some ⟨.request, false, 9, 5, 8, 1, 0⟩ ∧
    parseHeader 0x4009000509000067 = some { dataHeader with kind := .void, length := 0 } ∧
    parseHeader 0x20090005090000e5 = some { dataHeader with length := 0 } ∧ s.currentSlot .l = some 5 ∧
    s.currentRound .l = some 9 ∧ (s.slotFlags.get .l).accepted = false ∧ s.placementApplies .u = false ∧
    s.delivers .u = false ∧ s.delivers .l = true ∧ s.ActiveSound ∧ s.active.OneMatch ∧
    s.active.captures[0].fields = some (captureTo t) ∧ (captureTo t).hits .l 5 9 = true ∧
    (captureTo t).acceptFrom = dataHeader.source ∧ s.active.mailboxes[0].fields = some mailDef ∧
    s.active.queues[0].fields = some queueDef :=
  ⟨rfl, rfl, rfl, rfl, by decide +kernel, by decide +kernel, by decide +kernel, by decide +kernel, rfl, rfl, rfl, rfl,
    rfl, rfl, bankOf_sound _ _, bankOf_oneMatch _ _, rfl, by simp [CaptureEntry.hits, captureTo, RoundSet.hits], rfl, rfl, rfl⟩

/-- The mailbox without and with an open write; the queue with room, full, full with its head in flight; no entry that
matches, an unavailable target, a sender that is not accepted. -/
theorem witness_ZeroLengthCellCompletesAtItsHeader_places :
    let e : QueueEntry := ⟨1, 9, 3, false⟩
    let s := planned (.queue 0) (.queue 0)
    let full := fun flight => { s with queues := s.queues.set 0 ⟨[e, e], flight, 0, false, 0⟩ }
    s.mailboxes[0].openWrite = none ∧
    ({ s with mailboxes := s.mailboxes.set 0 { MailboxRt.reset with openWrite := some .u } } : State).mailboxes[0].openWrite.isSome
      = true ∧
    s.queues[0].entries.length < queueDef.depth ∧ queueDef.depth ≤ (full none).queues[0].entries.length ∧
    (full none).queues[0].headInFlight = none ∧ queueDef.fullPolicy = .replaceOldest ∧
    (full (some .u)).queues[0].headInFlight.isSome = true ∧
    (∀ n : Fin 128, (bankOf none none).captures[n].fields = none) ∧
    (planned (.mailbox 63) (.queue 0)).active.placeDefined (.mailbox 63) = false ∧ s.active.placeDefined (.queue 0) = true ∧
    (captureTo (.queue 0)).acceptFrom ≠ 0 ∧ parseHeader 0x20090005080000eb =
      some { dataHeader with source := 8, length := 0 } ∧ (captureTo (.queue 0)).acceptFrom ≠ 8 := by decide +kernel

/-- A bank none of whose good entries is defined: the one capture, or emit, entry it holds has failed. -/
theorem onlyFailed_captures (t : Place) (n : Fin 128) (e : CaptureEntry)
    (h : ((bankOf (some (captureTo t)) none).disturb (.capture 0)).captures[n] = ⟨some e, true⟩) : e.hits .l 5 9 = false := by
  by_cases hn : n = 0
  · subst hn; cases h
  · have h0 : (0 : Nat) ≠ n := fun x => hn (Fin.ext x.symm)
    simp [Bank.disturb, bankOf, Bank.empty, h0, Stored.undefined] at h

theorem onlyFailed_emits (t : Place) (n : Fin 128) (e : EmitEntry)
    (h : ((bankOf none (some (emitFrom t))).disturb (.emit 0)).emits[n] = ⟨some e, true⟩) : e.hits .l 5 9 = false := by
  by_cases hn : n = 0
  · subst hn; cases h
  · have h0 : (0 : Nat) ≠ n := fun x => hn (Fin.ext x.symm)
    simp [Bank.disturb, bankOf, Bank.empty, h0, Stored.undefined] at h

/-- A cell arrives, and slot 5 of round 9 ends, where the one entry has failed; the cell arrives where the target of the
entry that matches has. -/
theorem witness_FailedRecordsReadAsUndefined_capture :
    let entry := (bankOf (some (captureTo (.mailbox 0))) none).disturb (.capture 0)
    let place := (bankOf (some (captureTo (.mailbox 0))) none).disturb (.mailbox 0)
    let s := { held7 with active := entry }
    s.resetnLow = false ∧ s.currentRound .l = some 9 ∧ parseHeader 0x20090005090002bb = some dataHeader ∧
    s.portOff .l = false ∧ s.slotFlags.get .l = .clear ∧ s.currentSlot .l = some 5 ∧ s.delivers .l = true ∧
    s.tx.get .l = none ∧ s.rx.get .l = none ∧ s.lTime.pending = none ∧
    (∀ (n : Fin 128) (e : CaptureEntry), entry.captures[n] = ⟨some e, true⟩ → e.hits .l 5 9 = false) ∧
    entry.failedCaptures = [.capture 0] ∧ place.OneMatch ∧ place.captures[0] = ⟨some (captureTo (.mailbox 0)), true⟩ ∧
    (captureTo (.mailbox 0)).hits .l 5 9 = true ∧ place.failedPlace (.mailbox 0) = [.mailbox 0] :=
  ⟨rfl, rfl, by decide +kernel, rfl, rfl, rfl, rfl, rfl, rfl, rfl, onlyFailed_captures _, by decide +kernel,
    bankOf_oneMatch _ _, rfl, by decide, rfl⟩

/-- Slot 5 of round 9 starts where the one entry, or the source of the entry that matches, has failed. -/
theorem witness_FailedRecordsReadAsUndefined_emit :
    let entry := (bankOf none (some (emitFrom (.queue 0)))).disturb (.emit 0)
    let place := (bankOf none (some (emitFrom (.queue 0)))).disturb (.queue 0)
    let s := { beforeL 4 with forwarding := .forwarding, active := entry }
    s.resetnLow = false ∧ s.currentRound .l = some 9 ∧ s.currentSlot .l = none ∧ s.lastSlot .l + 1 = 5 ∧
    5 ≤ s.slotCount .l ∧ s.forwarding = .forwarding ∧ 5 ≠ s.responseSlot .l ∧ s.lTime.running = true ∧
    s.lTime.state ≠ .off ∧ 5 ≠ s.lInUse.beaconSlot ∧
    (∀ (n : Fin 128) (e : EmitEntry), entry.emits[n] = ⟨some e, true⟩ → e.hits .l 5 9 = false) ∧
    entry.failedEmits = [.emit 0] ∧ place.OneMatch ∧ place.emits[0] = ⟨some (emitFrom (.queue 0)), true⟩ ∧
    (emitFrom (.queue 0)).hits .l 5 9 = true ∧ place.failedPlace (.queue 0) = [.queue 0] :=
  ⟨rfl, rfl, rfl, rfl, by decide +kernel, rfl, by decide +kernel, rfl, by decide +kernel, by decide +kernel,
    onlyFailed_emits _, by decide +kernel, bankOf_oneMatch _ _, rfl, by decide, rfl⟩

/-- An L round start with a failed definition in either bank, without and with a commit pending. -/
theorem witness_FailedRecordsReadAsUndefined_round :
    let b := (Bank.empty.disturb (.mailbox 63)).disturb (.queue 7)
    let s := { idle9 with active := b, staged := b }
    s.StartsLRound .lRoundStart .untied 10 ∧ s.checkState ≠ .commitPending ∧
    s.active.mailboxes[63].parityGood = false ∧ s.active.queues[7].parityGood = false ∧
    s.staged.mailboxes[63].parityGood = false ∧ s.staged.queues[7].parityGood = false ∧
    ({ s with checkState := .commitPending } : State).StartsLRound .lRoundStart .untied 10 :=
  ⟨starts_untied rfl rfl, (by decide), rfl, rfl, rfl, rfl, starts_untied rfl rfl⟩

theorem witness_CompletedCellIsCounted_nothing :
    ({ held7 with uTime := .atStart false } : State).portOff .u = true ∧ held7.rx.get .l = none := by decide +kernel

/-- A RESPONSE, and a DATA cell whose capture recorded its outcome at the header. -/
theorem witness_CompletedCellIsCounted :
    let s := { held7 with rx := ⟨none, some (receptionOf5 { dataHeader with kind := .response })⟩ }
    let t := { held7 with rx := ⟨none, some (receptionOf5 dataHeader)⟩ }
    s.portOff .l = false ∧ s.rx.get .l = some (receptionOf5 { dataHeader with kind := .response }) ∧
    dataHeader.length ≠ 0 ∧ [(0 : Word), 0].length = dataHeader.length ∧ t.contexts.get .l = none := by decide +kernel

/-- A BEACON on L, and a REQUEST to another station. -/
theorem witness_CompletedCellIsCounted_others : ({ dataHeader with kind := .beacon, length := 1 } : Header).kind = .beacon ∧
    ({ dataHeader with kind := .request, dest := 2 } : Header).dest ≠ held7.address .l := by decide +kernel

/-- A DATA cell whose context a swap has marked CUT. -/
theorem witness_CompletedCellIsCounted_cut :
    let s := { capturing with contexts := ⟨none, some { mailContext with mark := .cut }⟩ }
    s.resetnLow = false ∧ s.portOff .l = false ∧ s.rx.get .l = some (receptionOf5 dataHeader) ∧ dataHeader.kind = .data ∧
    s.contexts.get .l = some { mailContext with mark := .cut } := ⟨rfl, rfl, rfl, rfl, rfl⟩

theorem witness_MailboxCaptureClosesItsWrite : capturing.resetnLow = false ∧ capturing.portOff .l = false ∧
    capturing.rx.get .l = some (receptionOf5 dataHeader) ∧ dataHeader.kind = .data ∧ dataHeader.length ≠ 0 ∧
    [(0xaaaa0001 : Word), 0xbbbb0002].length = dataHeader.length ∧ capturing.contexts.get .l = some mailContext ∧
    mailContext.target = .mailbox 0 16 2 [] ∧ mailContext.mark ≠ .cut ∧ capturing.mailboxes[0].openWrite = some .l ∧
    payloadValid dataHeader [0xaaaa0001, 0xbbbb0002] 0x7a13 = true ∧
    payloadValid dataHeader [0xaaaa0001, 0xbbbb0002] 0 = false := by decide +kernel

/-- The first word of the half written, 18, was disturbed after its placing, the second, 19, was not. -/
theorem witness_MailboxCaptureClosesItsWrite_spoiled :
    let c := { mailContext with target := .mailbox 0 16 2 [18] }
    ({ capturing with contexts := ⟨none, some c⟩ } : State).contexts.get .l = some c ∧ c.target = .mailbox 0 16 2 [18] ∧
    16 + 2 + 0 ∈ [18] ∧ 16 + 2 + 1 ∉ [18] := by decide +kernel

/-- A cell held for queue 0 on L, with `k` entries in the queue. -/
def queueing (entries : List QueueEntry) (flight : Option Port) : State :=
  { planned (.queue 0) (.queue 0) with
    rx := ⟨none, some (receptionOf5 dataHeader)⟩
    contexts := ⟨none, some ⟨0, 9, .queue 0 0 2 2 .replaceOldest, .none⟩⟩
    queues := State.reset.queues.set 0 ⟨entries, flight, 0, false, 0⟩ }

theorem witness_QueueCaptureAppendsOrDrops :
    let e : QueueEntry := ⟨1, 9, 3, false⟩
    let s := queueing [e] none
    let full := queueing [e, e] none
    let sending := queueing [e, e] (some .u)
    s.resetnLow = false ∧ s.portOff .l = false ∧ s.rx.get .l = some (receptionOf5 dataHeader) ∧
    s.contexts.get .l = some ⟨0, 9, .queue 0 0 2 2 .replaceOldest, .none⟩ ∧ SwapMark.none ≠ .cut ∧
    payloadValid dataHeader [0xaaaa0001, 0xbbbb0002] 0x7a13 = true ∧ s.queues[0].entries.length < 2 ∧
    2 ≤ full.queues[0].entries.length ∧ full.queues[0].headInFlight = none ∧
    2 ≤ sending.queues[0].entries.length ∧ sending.queues[0].headInFlight.isSome = true := by decide +kernel

/-- A PING, and the codes 0 and 29, which are no request's. -/
theorem witness_RequestCellIsTakenAsItsRequest :
    let h : Header := { dataHeader with kind := .request, source := 7, dest := 1 }
    let s := { held7 with rx := ⟨none, some (receptionOf5 h)⟩ }
    s.resetnLow = false ∧ s.portOff .l = false ∧ s.rx.get .l = some (receptionOf5 h) ∧ h.length = [(5 : Word)].length + 1 ∧
    payloadValid h [0x01090000, 5] 0x669b = true ∧ (receptionOf5 h).deliverable = true ∧ s.delivers .l = true ∧
    h.dest = s.address .l ∧ Req.ping.code = (0x01090000 : Word).extractLsb' 24 8 ∧
    payloadValid h [0x00090000, 5] 0x0a33 = true ∧ (0x00090000 : Word).extractLsb' 24 8 = 0 ∧
    payloadValid h [0x1d090000, 5] 0x175a = true ∧ 28 < ((0x1d090000 : Word).extractLsb' 24 8).toNat ∧
    ({ held7 with counters := ⟨.zero, { Counters.zero with good := 1 }⟩ } : State).Executes (req 0 [5]) 0 := by
  refine ⟨rfl, rfl, rfl, rfl, by decide +kernel, rfl, rfl, by decide +kernel, by decide, by decide +kernel, by decide,
    by decide +kernel, by decide, executes_of (by decide +kernel)⟩

/-! ### The uplink timing -/

/-- The reception of a BEACON of station 3 on U, in slot 64 of round 100. -/
def beaconReception (slotAt : Option Nat) : Reception :=
  { header := ⟨.beacon, false, 100, 64, 3, 0, 1⟩, slotAt, roundAt := slotAt.map fun _ => 100, inWindow := true,
    deliverable := false }

theorem witness_BeaconsAreAdoptedOrClassified_seek :
    let s := { held7 with rx := ⟨some (beaconReception none), none⟩ }
    s.resetnLow = false ∧ s.uTime.state = .seek ∧ s.rx.u = some (beaconReception none) ∧
    payloadValid (beaconReception none).header [64] 0x4634 = true ∧ s.uInUse.timingStations = [] ∧
    ((64 : Word).extractLsb' 0 16).toNat = s.uInUse.slotCount ∧ (beaconReception none).header.slot ≤ s.uInUse.slotCount := by
  decide +kernel

/-- The same beacon where 65 slots are expected, and where only station 9 is listed. -/
theorem witness_BeaconsAreAdoptedOrClassified_unfit :
    ((64 : Word).extractLsb' 0 16).toNat ≠ ({ held7.uInUse with slotCount := 65 } : UProfile).slotCount ∧
    ({ held7.uInUse with timingStations := [9] } : UProfile).timingStations ≠ [] ∧
    (beaconReception none).header.source ∉ ({ held7.uInUse with timingStations := [9] } : UProfile).timingStations := by
  decide +kernel

/-- Port U in state `u`, in slot 64 of round 100, with that beacon received. -/
def hearing (u : UState) (slotAt : Option Nat) (set : List Station) : State :=
  { held7 with
    uTime := { State.reset.uTime with state := u, round := some 100, slot := some 64, lastSlot := 64, confirmSet := set }
    rx := ⟨some (beaconReception slotAt), none⟩ }

theorem witness_BeaconsAreAdoptedOrClassified :
    (hearing .align (some 64) []).resetnLow = false ∧ (hearing .align (some 64) []).uTime.state = .align ∧
    (hearing .confirm (some 64) []).uTime.state = .confirm ∧ (hearing .locked (some 64) []).uTime.state = .locked ∧
    (hearing .align (some 64) []).rx.u = some (beaconReception (some 64)) ∧
    payloadValid (beaconReception (some 64)).header [64] 0x4634 = true ∧
    (hearing .align (some 64) []).uInUse.timingStations = [] ∧
    (beaconReception (some 64)).slotAt = some 64 ∧ (beaconReception (some 64)).roundAt = some 100 ∧
    (beaconReception (some 63)).slotAt ≠ some 64 ∧
    (3 : Station) ∉ (hearing .confirm (some 64) []).uTime.confirmSet ∧
    (3 : Station) ∈ (hearing .confirm (some 64) [3]).uTime.confirmSet ∧
    4 ≤ (hearing .confirm (some 64) [4, 5, 6, 7]).uTime.confirmSet.length := by decide +kernel

/-- Port U at the end of round 100 in state `u`. -/
def closing (u : UState) (seen adopted : Bool) (set : List Station) : State :=
  { locked100 with uTime := { locked100.uTime with
      state := u, consistentSeen := seen, adoptionRound := adopted, confirmSet := set } }

theorem witness_URoundStartBeforeLock :
    let s := closing .align true false []
    s.resetnLow = false ∧ s.uTime.slot = none ∧ s.uInUse.slotCount ≤ s.uTime.lastSlot ∧ s.uTime.round = some 100 ∧
    s.uTime.consistentSeen = true ∧ (closing .align false true []).uTime.adoptionRound = true ∧
    (closing .align false false []).uTime.adoptionRound = false ∧
    (closing .confirm false false []).uTime.confirmSet.length < (closing .confirm false false []).uInUse.confirmQuorum := by
  decide +kernel

/-- CONFIRM with the quorum met; LOCKED one miss short of the lapse limit; both with port L UNTIED and the tying
conditions met, and without them. -/
theorem witness_LockedURoundIsDelivered :
    let s := closing .confirm false false [3]
    let t := { locked100 with uTime := { locked100.uTime with missCount := 2 } }
    let untied := { t with lInUse := { t.lInUse with tieEnabled := false } }
    s.uInUse.confirmQuorum ≤ s.uTime.confirmSet.length ∧ t.uTime.state = .locked ∧ 1 ≤ t.uInUse.lapseLimit ∧
    t.uTime.missCount + 1 < t.uInUse.lapseLimit ∧ t.uTime.consistentTally = 0 ∧ t.lTime.state = .untied ∧
    t.lInUse.tieEnabled = true ∧ t.lInUse.tieOffset < t.uInUse.slotCount * t.uInUse.slotLength ∧
    t.lInUse.slotCount * t.lInUse.slotLength ≤ t.uInUse.slotCount * t.uInUse.slotLength ∧
    untied.lInUse.tieEnabled = false := by decide +kernel

/-- A queued response with a restart mark. -/
def marked (m : RestartMark) : Response := ⟨7, ⟨.ok, 1, 28, []⟩, some m⟩

/-- Port U LOCKED at the end of a round that ends lock, with port L in `l` and a context on U. -/
def lapsing (l : LState) (c : Option CaptureContext) : State :=
  { locked100 with
    uTime := { locked100.uTime with missCount := 3 }, lTime := { locked100.lTime with state := l }
    contexts := ⟨c, none⟩, mailboxes := State.reset.mailboxes.set 0 { MailboxRt.reset with openWrite := some .u } }

theorem witness_LockLapseLeavesLocked :
    let s := lapsing .tied (some mailContext)
    s.resetnLow = false ∧ s.uTime.state = .locked ∧ s.uTime.slot = none ∧ s.uInUse.slotCount ≤ s.uTime.lastSlot ∧
    s.uTime.consistentTally = 0 ∧ s.uInUse.lapseLimit ≤ s.uTime.missCount + 1 ∧
    (∀ m : RestartMark, ¬∃ x, x ∈ s.responses.u ∧ x.mark = some m) ∧
    (∃ x, x ∈ (s.withResponses .u [marked .bridge]).responses.u ∧ x.mark = some .bridge) ∧
    (∃ x, x ∈ (s.withResponses .u [marked (.link .u)]).responses.u ∧ x.mark = some (.link .u)) ∧
    ({ s with tx := ⟨some ⟨dataHeader, [1, 2]⟩, none⟩ } : State).tx.u = some ⟨dataHeader, [1, 2]⟩ ∧
    s.lTime.state = .tied ∧ (lapsing .untied none).lTime.state ≠ .tied ∧ s.contexts.get .u = some mailContext ∧
    mailContext.mark = .none ∧ (lapsing .untied none).contexts.get .u = none ∧
    (lapsing .tying (some { mailContext with mark := .carried })).contexts.get .u = some { mailContext with mark := .carried } ∧
    s.WritesTo .u mailContext 0 16 2 [] ∧
    ({ s with rx := ⟨some (receptionOf5 dataHeader), none⟩ } : State).rx.get .u = some (receptionOf5 dataHeader) := by
  refine ⟨rfl, rfl, rfl, by decide +kernel, rfl, by decide +kernel, fun m ⟨x, h, _⟩ => (by cases h),
    ⟨_, List.mem_cons_self, rfl⟩, ⟨_, List.mem_cons_self, rfl⟩, rfl, rfl, by decide +kernel, rfl, rfl, rfl, rfl,
    ⟨rfl, by decide, rfl, rfl⟩, rfl⟩

/-- Port L in `l`, idle or in slot `k`, with the alignment to round 3 pending. -/
def aligning (l : LState) (running held : Bool) (k : Option Nat) : State :=
  { held7 with
    claim := none
    lTime := { held7.lTime with state := l, running, slot := k, lastSlot := k.getD 64, pending := some ⟨3, 0, held⟩ } }

theorem witness_AlignmentDueIsTakenHeldOrPassedOver :
    (aligning .tying false false none).lTime.running = false ∧
    (aligning .tying false false none).lTime.pending = some ⟨3, 0, false⟩ ∧
    (aligning .tied true false (some 5)).lTime.state = .tied ∧
    (aligning .tying true false (some 64)).lTime.slot = some (aligning .tying true false (some 64)).lInUse.slotCount ∧
    (aligning .tying true false (some 63)).lTime.slot ≠ some (aligning .tying true false (some 63)).lInUse.slotCount ∧
    (aligning .tying true false none).lTime.slot ≠ some (aligning .tying true false none).lInUse.slotCount := by
  decide +kernel

theorem witness_AlignmentDueIsTakenHeldOrPassedOver_quiet :
    let s := { aligning .tying false false none with active := bankOf none none }
    s.resetnLow = false ∧ s.ActiveSound ∧ (∀ n : Fin 64, s.mailboxes[n].state ≠ .fresh) ∧ s.claim = none ∧
    s.checkState ≠ .commitPending :=
  ⟨rfl, bankOf_sound none none, by decide +kernel, rfl, by decide⟩

theorem witness_AlignmentDueIsTakenHeldOrPassedOver_end :
    let s := aligning .tied true true (some 64)
    s.resetnLow = false ∧ s.lTime.slot = some 64 ∧ s.lInUse.slotCount ≤ s.lTime.lastSlot ∧ s.tx.l = none ∧
    s.rx.l = none ∧ s.lTime.pending = some ⟨3, 0, true⟩ := by decide +kernel

/-! ### Rounds of port L, the check, starts -/

/-- `idle9` with the holder at `k` idle rounds. -/
def idleHolder (k : BitVec 8) : State :=
  { idle9 with
    active := bankOf none none, parties := State.reset.parties.set 0 (some { partyOf own7 with idle := k }) }

theorem idleHolder_party (k : BitVec 8) (i : Fin 8) :
    (idleHolder k).parties[i] = if i = 0 then some { partyOf own7 with idle := k } else none := by
  by_cases h : i = 0
  · subst h; rfl
  · have : (0 : Nat) ≠ i := fun x => h (Fin.ext x.symm)
    simp [idleHolder, State.reset, State.started, this, h]

theorem idleHolder_lawful (k : BitVec 8) : (idleHolder k).PartiesLawful := by
  refine ⟨fun i j q r hq hr _ => ?_, fun id h => ⟨0, { partyOf own7 with idle := k }, by rw [idleHolder_party]; rfl, ?_⟩⟩
  · rw [idleHolder_party] at hq hr
    split at hq <;> cases hq
    split at hr <;> cases hr
    simp_all
  · cases h; rfl

/-- The three ways in which an L round starts, with the holder at idle rounds below the claim timeout or no claim held. -/
theorem witness_LRoundStartAgesAndCounts :
    (idleHolder 62).StartsLRound .lRoundStart .untied 10 ∧ (idleHolder 62).checkState ≠ .commitPending ∧
    (∀ (i : Fin 8) (q : Party), (idleHolder 62).parties[i] = some q → (idleHolder 62).claim = some q.id →
      satInc q.idle < (idleHolder 62).settings.claimTimeout) ∧
    (aligning .tying false false none).StartsLRound .alignmentDue .tied 3 ∧
    (aligning .tied false true none).StartsLRound .lRoundStart .tied 3 ∧
    (aligning .tied true true (some 64)).StartsLRound (.slotEnd .l) .tied 3 ∧
    (aligning .tied true true (some 64)).claim = none ∧ (aligning .tied true true (some 64)).checkState ≠ .commitPending ∧
    (idleHolder 62).active.mailboxes[0] = ⟨some mailDef, true⟩ ∧ (idleHolder 62).active.mailboxes[63].fields = none ∧
    (idleHolder 62).notices.entries ≠ [] := by
  refine ⟨starts_untied rfl rfl, by decide +kernel, fun i q h _ => ?_, ⟨rfl, .inr ⟨.inl rfl, rfl, _, rfl, rfl, .inr (.inl
    ⟨rfl, rfl, rfl⟩)⟩⟩, ⟨rfl, .inr ⟨.inr rfl, rfl, _, rfl, rfl, .inl ⟨rfl, rfl⟩⟩⟩, ⟨rfl, .inr ⟨.inr rfl, rfl, _, rfl, rfl,
    .inr (.inr ⟨rfl, rfl, rfl, by decide +kernel, rfl, rfl⟩)⟩⟩, rfl, by decide +kernel, by decide +kernel, by decide +kernel,
    by decide +kernel⟩
  rw [idleHolder_party] at h
  split at h <;> cases h
  decide +kernel

/-- Mailbox 0 with a FRESH value, EMPTY as at reset otherwise. -/
theorem witness_LRoundStartAgesAndCounts_ages : ({ MailboxRt.reset with state := .fresh } : MailboxRt).state = .fresh ∧
    MailboxRt.reset.state = .empty := ⟨rfl, rfl⟩

theorem witness_ClaimTimeoutFreesTheClaim (k : BitVec 8) :
    let s := idleHolder k
    s.StartsLRound .lRoundStart .untied 10 ∧ s.checkState ≠ .commitPending ∧ s.PartiesLawful ∧
    s.parties[0] = some { partyOf own7 with idle := k } ∧ s.claim = some own7 ∧ s.ActiveSound ∧
    (∀ n : Fin 64, s.mailboxes[n].state ≠ .fresh) ∧ (∀ p f rb, s.checkState ≠ .checking p f rb) :=
  ⟨starts_untied rfl rfl, by simp [idleHolder, idle9, held7, State.reset, State.started], idleHolder_lawful k, rfl, rfl,
    bankOf_sound none none, by simp [idleHolder, idle9, held7, State.reset, State.started, MailboxRt.reset],
    by simp [idleHolder, idle9, held7, State.reset, State.started]⟩

/-- The 64th round in a row expires, the 63rd does not. -/
theorem witness_ClaimTimeoutFreesTheClaim_bounds : held7.settings.claimTimeout ≤ satInc (63 : BitVec 8) ∧
    satInc (62 : BitVec 8) < held7.settings.claimTimeout := by decide +kernel

/-- Mailbox 0 and queue 0 kept, mailbox 63 and queue 7 not; contexts and transmissions of both sorts; a CUT context. -/
theorem witness_CommitSwapExchangesTheBanks :
    let b := bankOf none none
    let s := { idleHolder 3 with
      checkState := .commitPending, staged := b
      contexts := ⟨some mailContext, some ⟨0, 9, .queue 7 0 2 2 .replaceOldest, .none⟩⟩
      emitRecords := ⟨some ⟨0, 9, true, .none, .voidSent, .none⟩, some ⟨0, 9, false, .queue 0 2 1, .sent, .none⟩⟩ }
    s.StartsLRound .lRoundStart .untied 10 ∧ s.checkState = .commitPending ∧ s.claim = some own7 ∧
    s.active.mailboxes[0] = ⟨some mailDef, true⟩ ∧ s.staged.mailboxes[0] = ⟨some mailDef, true⟩ ∧
    s.active.mailboxes[63] = ⟨none, true⟩ ∧ s.active.queues[0] = ⟨some queueDef, true⟩ ∧
    s.staged.queues[0] = ⟨some queueDef, true⟩ ∧ s.active.queues[7] = ⟨none, true⟩ ∧
    s.contexts.get .u = some mailContext ∧ mailContext.target = .mailbox 0 16 2 [] ∧ mailContext.mark ≠ .cut ∧
    s.contexts.get .l = some ⟨0, 9, .queue 7 0 2 2 .replaceOldest, .none⟩ ∧
    ({ mailContext with mark := .cut } : CaptureContext).mark = .cut ∧
    s.emitRecords.get .u = some ⟨0, 9, true, .none, .voidSent, .none⟩ ∧
    s.emitRecords.get .l = some ⟨0, 9, false, .queue 0 2 1, .sent, .none⟩ ∧
    ({ aligning .tied false false none with checkState := .commitPending } : State).StartsLRound .alignmentDue .tied 3 :=
  ⟨starts_untied rfl rfl, rfl, rfl, rfl, rfl, rfl, rfl, rfl, rfl, rfl, rfl, by decide, rfl, rfl, rfl, rfl,
    ⟨rfl, .inr ⟨.inr rfl, rfl, _, rfl, rfl, .inr (.inl ⟨rfl, rfl, rfl⟩)⟩⟩⟩

/-- The holder's idle rounds at `k` when the swap comes, with a FRESH value in the kept mailbox; the bounds of the claim
are those of ClaimTimeoutFreesTheClaim. -/
theorem witness_CommitSwapExchangesTheBanks_agent (k : BitVec 8) :
    let m := { MailboxRt.reset with state := .fresh, age := 1, source := some 9, round := some 1 }
    let s := { idleHolder k with
      checkState := .commitPending, staged := bankOf none none, mailboxes := State.reset.mailboxes.set 0 m }
    s.StartsLRound .lRoundStart .untied 10 ∧ s.PartiesLawful ∧ s.parties[0] = some { partyOf own7 with idle := k } ∧
    s.claim = some own7 ∧ s.mailboxes[0].state = .fresh ∧ s.active.mailboxes[0] = ⟨some mailDef, true⟩ ∧
    s.staged.mailboxes[0] = ⟨some mailDef, true⟩ ∧ s.notices.entries ≠ [] :=
  ⟨starts_untied rfl rfl, idleHolder_lawful k, rfl, rfl, rfl, rfl, rfl, fun h => (by cases h)⟩

theorem witness_StaleAndDueComeAtAnLRoundStart :
    let fresh := fun a : BitVec 8 => { MailboxRt.reset with state := .fresh, age := a, source := some 9, round := some 1 }
    let s := { idle9 with
      active := bankOf none none, mailboxes := State.reset.mailboxes.set 0 (fresh 1)
      notices := { State.reset.notices with entries := [⟨0, .started, .none, 1, 0, 0, 1, true⟩] } }
    s.StartsLRound .lRoundStart .untied 10 ∧ (aligning .tied false true none).StartsLRound .lRoundStart .tied 3 ∧
    s.checkState ≠ .commitPending ∧
    s.active.mailboxes[0] = ⟨some mailDef, true⟩ ∧ s.mailboxes[0].state = .fresh ∧ mailDef.staleLimit ≠ 0 ∧
    mailDef.staleLimit ≤ satInc s.mailboxes[0].age ∧ satInc (fresh 0).age < mailDef.staleLimit ∧
    mailDef.notifyStale = true ∧ (∃ e ∈ s.notices.entries, e.countdown = 1) :=
  ⟨starts_untied rfl rfl, ⟨rfl, .inr ⟨.inr rfl, rfl, _, rfl, rfl, .inl ⟨rfl, rfl⟩⟩⟩, by decide +kernel, rfl, rfl,
    by decide, by decide, by decide, rfl, _, List.mem_cons_self, rfl⟩

/-- (L, 7) checks; its outstanding sequence is 8. -/
def checking7 (staged : Bank) (idle : BitVec 8 := 3) : State :=
  { held7 with
    staged, checkState := .checking own7 ⟨64, 1, 64, 1, 2⟩ []
    parties := State.reset.parties.set 0 (some { partyOf own7 with outstanding := some 8, cached := none, idle }) }

theorem checking7_party (b : Bank) (k : BitVec 8) (i : Fin 8) : (checking7 b k).parties[i] =
    if i = 0 then some { partyOf own7 with outstanding := some 8, cached := none, idle := k } else none := by
  by_cases h : i = 0
  · subst h; rfl
  · have : (0 : Nat) ≠ i := fun x => h (Fin.ext x.symm)
    simp [checking7, State.reset, State.started, this, h]

theorem checking7_lawful (b : Bank) (k : BitVec 8 := 3) :
    (checking7 b k).PartiesLawful ∧ (checking7 b k).CheckLawful := by
  refine ⟨⟨fun i j q r hq hr _ => ?_, fun id h => ⟨0, _, by rw [checking7_party]; rfl, ?_⟩⟩, fun p f rb h => ?_,
    fun i q n hq hn => ?_⟩
  · rw [checking7_party] at hq hr
    split at hq <;> cases hq
    split at hr <;> cases hr
    simp_all
  · cases h; rfl
  · cases h; rfl
  · rw [checking7_party] at hq
    split at hq <;> cases hq
    exact ⟨_, _, rfl⟩

/-- The check of the holder is in progress when its idle rounds reach the timeout, on the local timer and from TYING. -/
theorem witness_ClaimTimeoutFreesTheClaim_abandons :
    let s := { checking7 .empty 63 with lTime := idle9.lTime }
    let tying := { checking7 .empty 63 with lTime := (aligning .tying false false none).lTime }
    s.StartsLRound .lRoundStart .untied 10 ∧ tying.StartsLRound .alignmentDue .tied 3 ∧ s.checkState ≠ .commitPending ∧
    s.PartiesLawful ∧ s.CheckLawful ∧ s.checkState = .checking own7 ⟨64, 1, 64, 1, 2⟩ [] ∧ s.claim = some own7 ∧
    s.parties[0] = some { partyOf own7 with outstanding := some 8, cached := none, idle := 63 } ∧
    s.settings.claimTimeout ≤ satInc (63 : BitVec 8) ∧ s.portRunning own7.port = true ∧
    (s.responses.get own7.port).length < 8 :=
  ⟨starts_untied rfl rfl, ⟨rfl, .inr ⟨.inl rfl, rfl, _, rfl, rfl, .inr (.inl ⟨rfl, rfl, rfl⟩)⟩⟩, by simp [checking7],
    (checking7_lawful .empty 63).1, (checking7_lawful .empty 63).2, rfl, rfl, rfl, by decide +kernel, rfl,
    Nat.zero_lt_succ 7⟩

/-- A bank that passes, and one whose capture entry takes the L beacon slot; room and no room on L. -/
theorem witness_CheckCompleteGivesTheResult (b : Bank) :
    let s := checking7 b
    s.resetnLow = false ∧ s.checkState = .checking own7 ⟨64, 1, 64, 1, 2⟩ [] ∧ s.PartiesLawful ∧ s.CheckLawful ∧
    s.parties[0] = some { partyOf own7 with outstanding := some 8, cached := none } ∧ s.portRunning own7.port = true ∧
    (s.responses.get own7.port).length < 8 :=
  ⟨rfl, rfl, (checking7_lawful b).1, (checking7_lawful b).2, rfl, rfl, Nat.zero_lt_succ 7⟩

theorem witness_CheckCompleteGivesTheResult_results : (bankOf none none).check ⟨64, 1, 64, 1, 2⟩ [] = none ∧
    (bankOf (some { captureTo (.mailbox 0) with slot := 1 }) none).check ⟨64, 1, 64, 1, 2⟩ [] =
      some (.reservedSlot, .capture 0) ∧
    ((bankOf none none).disturb (.queue 7)).check ⟨64, 1, 64, 1, 2⟩ [] = some (.parity, .queue 7) := by decide +kernel

theorem witness_PassingBankMeetsEveryTest :
    (bankOf (some (captureTo (.mailbox 0))) (some { emitFrom (.queue 0) with slot := 6 })).InRange ∧
    (bankOf (some (captureTo (.mailbox 0))) (some { emitFrom (.queue 0) with slot := 6 })).check ⟨64, 1, 64, 1, 2⟩ [] =
      none :=
  ⟨bankOf_inRange (fun x h => by cases h; decide) (fun x h => by cases h; decide), by decide +kernel⟩

/-- Two tests fail: RESERVED_SLOT of capture entry 0, and PARITY of queue 7, which comes first. -/
theorem witness_PassingBankMeetsEveryTest_fails :
    let b := (bankOf (some { captureTo (.mailbox 0) with slot := 1 }) none).disturb (.queue 7)
    let f : CheckFigures := ⟨64, 1, 64, 1, 2⟩
    b.Fails f [] 4 0 3 (.reservedSlot, .capture 0) ∧ b.Fails f [] 2 7 0 (.parity, .queue 7) ∧ testBefore 2 7 0 4 0 3 ∧
    b.check f [] = some (.parity, .queue 7) ∧ b.check f [.queue 7] = some (.reservedSlot, .capture 0) :=
  ⟨.captureReserved 0 _ rfl (by decide), .queueParity 7 rfl (by decide), .inl (by decide), by decide +kernel,
    by decide +kernel⟩

theorem witness_LinkStartUAdoptsAndSeeks :
    let s := lapsing .tied (some mailContext)
    s.resetnLow = false ∧ (∀ m : RestartMark, ¬∃ x, x ∈ s.responses.u ∧ x.mark = some m) ∧
    (∃ x, x ∈ (s.withResponses .u [marked .bridge]).responses.u ∧ x.mark = some .bridge) ∧ s.uTime.state = .locked ∧
    s.lTime.state = .tied ∧ s.contexts.get .u = some mailContext ∧ mailContext.mark = .none ∧
    s.WritesTo .u mailContext 0 16 2 [] ∧
    ({ s with rx := ⟨some (receptionOf5 dataHeader), none⟩ } : State).rx.get .u = some (receptionOf5 dataHeader) ∧
    held7.uTime.state ≠ .locked ∧ held7.contexts.u = none ∧ (lapsing .untied none).lTime.state ≠ .tied :=
  ⟨rfl, fun m ⟨x, h, _⟩ => (by cases h), ⟨_, List.mem_cons_self, rfl⟩, rfl, rfl, rfl, rfl, ⟨rfl, by decide, rfl, rfl⟩, rfl,
    by decide +kernel, rfl, by decide +kernel⟩

/-- With port U LOCKED and the L profile enabled or disabled; with marks in the L queue; from TIED; with a capture on L;
with a commit pending. -/
theorem witness_LinkStartLStartsRoundZero :
    let s := { locked100 with claim := none }
    let off := { s with lStored := { s.lStored with enabled := false } }
    s.resetnLow = false ∧ (s.responses.l.any fun x => x.mark = some .bridge) = false ∧
    ((s.withResponses .l [marked .bridge]).responses.l.any fun x => x.mark = some .bridge) = true ∧
    ((s.withResponses .l [marked (.link .l)]).responses.l.any fun x => x.mark = some (.link .l)) = true ∧
    s.checkState ≠ .commitPending ∧ ({ s with checkState := .commitPending } : State).checkState = .commitPending ∧
    s.claim = none ∧ s.uTime.state = .locked ∧ s.lStored.tieEnabled = true ∧ s.lStored.enabled = true ∧
    s.lStored.tieOffset < s.uInUse.slotCount * s.uInUse.slotLength ∧
    s.lStored.slotCount * s.lStored.slotLength ≤ s.uInUse.slotCount * s.uInUse.slotLength ∧
    off.lStored.enabled = false ∧ held7.uTime.state ≠ .locked ∧ (lapsing .tied none).lTime.state = .tied := by
  decide +kernel

/-- The holder's idle rounds stand at the timeout after one round start, or after the two that a mark of L brings. -/
theorem witness_LinkStartLStartsRoundZero_claim :
    let s := checking7 .empty 63
    s.PartiesLawful ∧ s.CheckLawful ∧ s.claim = some own7 ∧ s.lStored.enabled = true ∧
    s.parties[0] = some { partyOf own7 with outstanding := some 8, cached := none, idle := 63 } ∧
    s.checkState = .checking own7 ⟨64, 1, 64, 1, 2⟩ [] ∧ s.settings.claimTimeout ≤ satInc (63 : BitVec 8) ∧
    s.settings.claimTimeout ≤ satInc (satInc (62 : BitVec 8)) ∧ satInc (62 : BitVec 8) < s.settings.claimTimeout ∧
    capturing.WritesTo .l mailContext 0 16 2 [] ∧ capturing.rx.get .l = some (receptionOf5 dataHeader) :=
  ⟨(checking7_lawful .empty 63).1, (checking7_lawful .empty 63).2, rfl, rfl, rfl, rfl, by decide +kernel, by decide +kernel,
    by decide +kernel, ⟨rfl, by decide, rfl, rfl⟩, rfl⟩

theorem witness_DisturbanceFailsParityAlone : held7.resetnLow = false := rfl

/-! ### Slots and transmissions -/

theorem witness_BeaconSlotsSendAndQuietSlotsListen_beacon :
    let s := { State.reset with lTime := .roundStarted .untied 9 }
    s.resetnLow = false ∧ s.lTime.running = true ∧ s.lTime.state ≠ .off ∧ s.lTime.slot = none ∧ s.lTime.round = some 9 ∧
    s.lTime.lastSlot + 1 = s.lInUse.beaconSlot ∧ s.lInUse.beaconSlot ≤ s.lInUse.slotCount ∧ s.lInUse.slotCount ≤ 1023 := by
  decide +kernel

/-- Port U in `u`, before slot `k + 1` of round 100. -/
def beforeU (u : UState) (k : Nat) : State :=
  { held7 with uTime := { State.reset.uTime with state := u, round := some 100, lastSlot := k } }

theorem witness_BeaconSlotsSendAndQuietSlotsListen_u :
    (beforeU .align 63).resetnLow = false ∧ (beforeU .align 63).uTime.round = some 100 ∧
    (beforeU .align 63).uTime.slot = none ∧ (beforeU .align 63).uTime.lastSlot < (beforeU .align 63).uInUse.slotCount ∧
    (beforeU .confirm 0).uTime.state = .confirm ∧ (beforeU .locked 63).uTime.state = .locked ∧
    (beforeU .locked 63).uTime.lastSlot + 1 ≠ (beforeU .locked 63).uInUse.responseSlot ∧
    (beforeU .locked 63).forwarding = .halted := by decide +kernel

theorem witness_BeaconSlotsSendAndQuietSlotsListen_l :
    let s := { beforeL 63 with forwarding := .forwarding }
    s.resetnLow = false ∧ s.lTime.round = some 9 ∧ s.lTime.slot = none ∧ s.lTime.running = true ∧ s.lTime.state ≠ .off ∧
    s.lTime.lastSlot < s.lInUse.slotCount ∧ s.lTime.lastSlot + 1 ≠ s.lInUse.beaconSlot ∧
    s.lTime.lastSlot + 1 ≠ s.lInUse.responseSlot ∧ s.ActiveSound ∧
    (∀ (i : Fin 128) (e : EmitEntry), s.active.emits[i].fields = some e → e.hits .l 64 9 = false) := by
  refine ⟨rfl, rfl, rfl, rfl, by decide +kernel, by decide +kernel, by decide +kernel, by decide +kernel,
    bankOf_sound none none, fun i e h => ?_⟩
  have h : (bankOf none none).emits[i].fields = some e := h
  rw [bankOf_emit] at h
  split at h <;> cases h

/-- Slot 2 of L and slot 1 of U are response slots. -/
theorem witness_ResponseSlotServesInOrder :
    let l := beforeL 1
    let u := beforeU .locked 0
    let x : Response := ⟨7, ⟨.ok, 9, 1, []⟩, none⟩
    l.resetnLow = false ∧ l.currentRound .l = some 9 ∧ l.currentSlot .l = none ∧
    l.lastSlot .l + 1 = l.responseSlot .l ∧ l.responseSlot .l ≤ l.slotCount .l ∧ l.lTime.running = true ∧
    l.lTime.state ≠ .off ∧ l.lInUse.beaconSlot ≠ l.lInUse.responseSlot ∧ u.uTime.state = .locked ∧
    u.currentRound .u = some 100 ∧ u.currentSlot .u = none ∧ u.lastSlot .u + 1 = u.responseSlot .u ∧
    u.responseSlot .u ≤ u.slotCount .u ∧
    ({ l with responses := ⟨[], [x]⟩ } : State).responses.get .l = [x] ∧ l.responses.get .l = [] ∧
    ({ l with lInUse := { l.lInUse with noticeTarget := 70 } } : State).noticeTarget .l ≠ 0 ∧ l.noticeTarget .l = 0 ∧
    l.notices.entries = [] ++ ⟨0, .started, .none, 1, 0, 0, 0, false⟩ :: [] ∧ l.notices.entries.length ≤ 16 ∧
    (l.notices.entries.map fun e => (e.kind, e.subject)).Nodup ∧ (l.notices.entries.map (·.id)).Nodup := by decide +kernel

/-- Port L before slot 5 of round 9, forwarding, with emit entry 0 from `src`. -/
def emitting (src : Place) : State :=
  { beforeL 4 with forwarding := .forwarding, active := bankOf none (some (emitFrom src)) }

theorem witness_EmitFollowsTable_common (src : Place) :
    let s := emitting src
    s.resetnLow = false ∧ s.currentRound .l = some 9 ∧ s.currentSlot .l = none ∧ s.lastSlot .l < s.slotCount .l ∧
    s.lTime.running = true ∧ s.lTime.state ≠ .off ∧ s.lastSlot .l + 1 ≠ s.lInUse.beaconSlot ∧
    s.lastSlot .l + 1 ≠ s.responseSlot .l ∧ s.forwarding = .forwarding ∧ s.ActiveSound ∧ s.active.OneMatch ∧
    s.active.emits[0].fields = some (emitFrom src) ∧ (emitFrom src).hits .l 5 9 = true :=
  ⟨rfl, rfl, rfl, by change (4 : Nat) < 64; decide, rfl, fun h => (by cases h), by change (5 : Nat) ≠ 1; decide,
    by change (5 : Nat) ≠ 2; decide, rfl, bankOf_sound _ _, bankOf_oneMatch _ _, rfl, by simp [EmitEntry.hits, emitFrom, RoundSet.hits]⟩

theorem witness_EmitMailboxFollowsTable :
    let fresh := { MailboxRt.reset with state := .fresh, length := 2, source := some 9, round := some 9 }
    let s := { emitting (.mailbox 0) with
      mailboxes := State.reset.mailboxes.set 0 fresh, store := [(16, .good 7), (17, .good 8)] }
    let failed := { s with store := [(16, .good 7), (17, .failed)] }
    s.active.mailboxes[0].fields = some mailDef ∧ s.mailboxes[0].state = .fresh ∧ [(7 : Word), 8].length = fresh.length ∧
    (∀ i, i < 2 → s.wordAt (16 + i) = .good ([(7 : Word), 8].getD i 0)) ∧ failed.wordAt (16 + 1) = .failed ∧
    ({ fresh with state := .stale } : MailboxRt).state = .stale ∧ (emitFrom (.mailbox 0)).onStale = .sendMarked ∧
    ({ emitFrom (.mailbox 0) with onStale := .void } : EmitEntry).onStale = .void ∧
    ({ emitFrom (.mailbox 0) with onStale := .silent } : EmitEntry).onStale = .silent := by decide +kernel

theorem witness_EmitQueueFollowsTable :
    let q : QueueRt := ⟨[⟨1, 9, 3, false⟩], none, 0, false, 1⟩
    let s := { emitting (.queue 0) with queues := State.reset.queues.set 0 q, store := [(2, .good 7)] }
    let failed := { s with store := [(2, .failed)] }
    (emitting (.queue 7)).active.placeDefined (.queue 7) = false ∧ s.active.queues[0].fields = some queueDef ∧
    (emitting (.queue 0)).queues[0].entries = [] ∧ s.queues[0].entries = [⟨1, 9, 3, false⟩] ∧
    s.queues[0].headInFlight = none ∧ (⟨q.entries, some .u, 0, false, 1⟩ : QueueRt).headInFlight.isSome = true ∧
    (∀ i, i < 1 → s.wordAt (0 + 1 % 2 * 2 + i) = .good ([(7 : Word)].getD i 0)) ∧
    failed.wordAt (0 + 1 % 2 * 2 + 0) = .failed := by decide +kernel

/-- In the last slot, in slot 5 with an accepted header, and in slot 5 with a capture entry that matches. -/
theorem witness_SlotEndRecordsEmpty (c : Option CaptureEntry) :
    let s := { held7 with active := bankOf c none }
    s.resetnLow = false ∧ s.currentSlot .l = some 5 ∧ s.currentRound .l = some 9 ∧ s.tx.get .l = none ∧
    s.rx.get .l = none ∧ s.ActiveSound ∧ s.active.OneMatch ∧ s.lTime.pending = none ∧ s.slotFlags.get .l = .clear ∧
    (captureTo (.mailbox 0)).hits .l 5 9 = true ∧ (⟨true, false⟩ : SlotFlags).accepted = true :=
  ⟨rfl, rfl, rfl, rfl, rfl, bankOf_sound _ _, bankOf_oneMatch _ _, rfl, rfl, rfl, rfl⟩

theorem witness_EmitTransmissionEndFollowsTable :
    let r : EmitRecord := ⟨0, 9, false, .queue 0 2 1, .sent, .none⟩
    let s := { held7 with
      tx := ⟨none, some ⟨dataHeader, [1, 2]⟩⟩, emitRecords := ⟨none, some r⟩
      queues := State.reset.queues.set 0 ⟨[⟨2, 9, 3, false⟩], some .l, 1, false, 0⟩
      mailboxes := State.reset.mailboxes.set 0 { MailboxRt.reset with state := .stale, tag := 5 } }
    s.resetnLow = false ∧ s.tx.get .l = some ⟨dataHeader, [1, 2]⟩ ∧ dataHeader.kind = .data ∧
    s.emitRecords.get .l = some r ∧ s.queues[0].headInFlight = some .l ∧ 1 < s.queues[0].attempts + 1 ∧
    s.queues[0].attempts + 1 ≤ 2 ∧ s.queues[0].drained = false ∧ s.queues[7].headInFlight ≠ some .l ∧
    s.mailboxes[0].tag = 5 ∧ s.mailboxes[0].state = .stale ∧ s.mailboxes[63].state ≠ .fresh ∧
    ({ r with mark := .carried } : EmitRecord).mark = .carried ∧
    ({ r with effect := .mailbox 0 5 .take } : EmitRecord).effect = .mailbox 0 5 .take ∧
    ({ r with effect := .none } : EmitRecord).effect = .none := by decide +kernel

theorem witness_ResponseLeavesAtTransmissionEnd :
    let h : Header := { dataHeader with kind := .response }
    let x : Response := ⟨7, ⟨.ok, 9, 28, []⟩, some .bridge⟩
    let s := { held7 with tx := ⟨none, some ⟨h, [1, 2]⟩⟩, responses := ⟨[], [x]⟩ }
    s.resetnLow = false ∧ s.tx.get .l = some ⟨h, [1, 2]⟩ ∧ h.kind = .response ∧ s.responses.get .l = [x] ∧
    TxEnd.disturbed ≠ .aborted ∧ x.mark = some .bridge ∧ ({ x with mark := some (.link .l) } : Response).mark ≠ none := by
  decide +kernel

/-! ### Requests -/

/-- (L, 7) holds the claim, and its request is executed at position 0 in these states. -/
theorem held7_executes (sel : BitVec 16) (ops : List Word) : held7.Executes (req sel ops) 0 :=
  executes_of (by have : executesB held7 (req 0 []) 0 = true := by decide +kernel
                  exact this)

theorem planned_executes (t e : Place) (sel : BitVec 16) (ops : List Word) :
    (planned t e).Executes (req sel ops) 0 :=
  executes_of (by have : executesB (planned t e) (req 0 []) 0 = true := by
                    have h : executesB held7 (req 0 []) 0 = true := by decide +kernel
                    exact h
                  exact this)

theorem witness_PingAndPlainReadsReport :
    held7.Executes (req 0x4000 []) 0 ∧ (req 0x4000 (List.replicate 11 0)).operands.length ≤ 11 ∧
    selectsPort (req 0x4000 []).selector .u ∧ selectsPort (req 0x8000 []).selector .l ∧
    (∀ p, ¬selectsPort (req 0xc000 []).selector p) ∧ held7.notices.Lawful ∧
    held7.notices.entries[0]? = some ⟨0, .started, .none, 1, 0, 0, 0, false⟩ := by
  refine ⟨held7_executes _ _, by decide, rfl, rfl, fun p => ?_, by unfold NoticeUnit.Lawful; decide +kernel, rfl⟩
  cases p <;> (unfold selectsPort; decide +kernel)

theorem witness_ReadStatusReportsTheState : held7.Executes (req 0 []) 0 ∧ (req 0 []).operands = [] ∧
    held7.notices.Lawful ∧ held7.uTime.state = .seek ∧ held7.lTime.state ≠ .off ∧ held7.lTime.round = some 9 ∧
    held7.claim = some own7 ∧ locked100.uTime.state = .locked ∧ locked100.uTime.round = some 100 ∧
    ({ held7 with checkState := .failed .parity (.queue 7) } : State).checkState = .failed .parity (.queue 7) :=
  ⟨held7_executes _ _, rfl, by unfold NoticeUnit.Lawful; decide +kernel, rfl, by decide +kernel, rfl, rfl, rfl, rfl, rfl⟩

theorem witness_ReadRecordReportsTheRecord :
    let s := planned (.mailbox 0) (.queue 0)
    s.Executes (req 0x4800 []) 0 ∧ selectsBank 0x4800 .active ∧ selectsBank 0x8800 .staged ∧
    selectsRecord 0x4800 (.mailbox 0) ∧ selectsRecord 0x5007 (.queue 7) ∧ selectsRecord 0x587f (.capture 127) ∧
    selectsRecord 0x6000 (.emit 0) ∧ (s.bank .active).parityGood (.mailbox 0) = true ∧
    (s.active.disturb (.mailbox 0)).parityGood (.mailbox 0) = false ∧
    (s.bank .active).mailboxes[0].fields = some mailDef ∧ (s.bank .active).queues[0].fields = some queueDef ∧
    (s.bank .active).captures[0].fields = some (captureTo (.mailbox 0)) ∧
    (s.bank .active).emits[0].fields = some (emitFrom (.queue 0)) ∧ (s.bank .active).mailboxes[63].fields = none ∧
    (s.bank .active).queues[7].fields = none ∧ (s.bank .active).captures[127].fields = none ∧
    (s.bank .active).emits[127].fields = none ∧ s.captureOutcomes[0] = none ∧
    (∀ role, ¬selectsBank 0xc800 role) ∧ (∀ ref, ¬selectsRecord 0x4840 ref) := by
  refine ⟨planned_executes _ _ _ _, rfl, rfl, ⟨rfl, rfl⟩, ⟨rfl, rfl⟩, ⟨rfl, rfl⟩, ⟨rfl, rfl⟩, rfl, rfl, rfl, rfl, rfl, rfl, rfl, rfl, rfl, rfl, rfl, ?_, ?_⟩
  case refine_1 => intro role; cases role <;> (unfold selectsBank; decide +kernel)
  case refine_2 =>
    intro ref
    cases ref with
    | mailbox n =>
      rintro ⟨-, h⟩
      have h : (64 : Nat) = n := h
      omega
    | queue n => rintro ⟨h, -⟩; revert h; decide +kernel
    | capture n => rintro ⟨h, -⟩; revert h; decide +kernel
    | emit n => rintro ⟨h, -⟩; revert h; decide +kernel

theorem witness_ReadMailboxReportsTheMailbox :
    let m := { MailboxRt.reset with state := .fresh, length := 2, source := some 9, round := some 9 }
    let s := { planned (.mailbox 0) (.queue 0) with
      mailboxes := State.reset.mailboxes.set 0 m, store := [(16, .good 7), (17, .good 8)] }
    s.Executes (req 0 [11]) 0 ∧ (req 0 [11]).operands = [11] ∧ (11 : Word).toNat ≤ 11 ∧ 11 < (12 : Word).toNat ∧
    selectsNumber 0 (0 : Fin 64) ∧ selectsNumber 63 (63 : Fin 64) ∧ (∀ n : Fin 64, ¬selectsNumber 64 n) ∧
    s.active.mailboxes[0].parityGood = true ∧ s.active.mailboxes[0].fields = some mailDef ∧
    s.active.mailboxes[63].fields = none ∧ m.state ≠ .faulted ∧ [(7 : Word), 8].length = m.length ∧ m.length ≤ 12 ∧
    (∀ j, j < 2 → s.wordAt (16 + j) = .good ([(7 : Word), 8].getD j 0)) ∧
    ({ s with store := [(16, .failed)] } : State).wordAt (16 + 0) = .failed ∧
    ({ m with state := .faulted } : MailboxRt).state = .faulted := by
  refine ⟨executes_of (by decide +kernel), rfl, by decide, by decide, rfl, rfl, fun n h => ?_,
    rfl, rfl, rfl, by decide, rfl, by decide, by decide +kernel, by decide +kernel, rfl⟩
  have h : (64 : Nat) = n := h
  omega

theorem witness_ReadQueueReportsTheQueue :
    let q : QueueRt := ⟨[⟨2, 9, 3, true⟩, ⟨12, 9, 4, false⟩], some .u, 7, true, 0⟩
    let s := { planned (.mailbox 0) (.queue 0) with queues := State.reset.queues.set 0 q }
    s.Executes (req 0 []) 0 ∧ (req 0 []).operands = [] ∧ selectsNumber 0 (0 : Fin 8) ∧ selectsNumber 7 (7 : Fin 8) ∧
    (∀ n : Fin 8, ¬selectsNumber 8 n) ∧ s.active.queues[0].parityGood = true ∧
    s.active.queues[0].fields = some queueDef ∧ s.active.queues[7].fields = none ∧ q.entries.length ≤ 32 ∧
    q.attempts ≤ 7 ∧ (∀ e, e ∈ q.entries → e.length ≤ 12) ∧
    ({ planned (.mailbox 0) (.queue 0) with active := s.active.disturb (.queue 0) } : State).active.queues[0].parityGood =
      false := by
  refine ⟨executes_of (by decide +kernel), rfl, rfl, rfl, fun n h => ?_, rfl, rfl, rfl, by decide, by decide, by decide, rfl⟩
  have h : (8 : Nat) = n := h
  omega

theorem witness_ClaimAndReleaseFollowTable :
    ({ held7 with claim := none } : State).Executes (req 0 []) 0 ∧ held7.Executes (req 0 []) 0 ∧
    ({ held7 with claim := some ⟨.u, 7⟩ } : State).Executes (req 0 []) 0 ∧ held7.claim = some own7 ∧
    own7 = ⟨(req 0 []).port, (req 0 []).station⟩ ∧ (⟨.u, 7⟩ : PartyId) ≠ own7 ∧
    (∀ p f rb, held7.checkState ≠ .checking p f rb) ∧ (checking7 .empty).Executes (req 0 []) 0 ∧
    (checking7 .empty).PartiesLawful ∧ (checking7 .empty).CheckLawful ∧
    (checking7 .empty).checkState = .checking own7 ⟨64, 1, 64, 1, 2⟩ [] ∧
    (checking7 .empty).parties[0] = some { partyOf own7 with outstanding := some 8, cached := none } :=
  ⟨executes_of (by decide +kernel), held7_executes _ _, executes_of (by decide +kernel), rfl, rfl, by decide,
    fun _ _ _ h => (by cases h), executes_of (by decide +kernel), (checking7_lawful _).1, (checking7_lawful _).2, rfl, rfl⟩

/-- The holder's requests are executed in `held7` and in `planned`. -/
theorem held7_holder (sel : BitVec 16) (ops : List Word) : held7.HolderExecutes (req sel ops) 0 :=
  ⟨held7_executes sel ops, rfl⟩

theorem planned_holder (t e : Place) (sel : BitVec 16) (ops : List Word) :
    (planned t e).HolderExecutes (req sel ops) 0 := ⟨planned_executes t e sel ops, rfl⟩

/-- A holder on port U, LOCKED, for the writes and restarts that name the other port. -/
def heldU : State :=
  { locked100 with parties := State.reset.parties.set 0 (some (partyOf ⟨.u, 7⟩)), claim := some ⟨.u, 7⟩ }

theorem heldU_holder (sel : BitVec 16) (ops : List Word) :
    heldU.HolderExecutes { req sel ops with port := .u } 0 :=
  ⟨executes_of (by have : executesB heldU { req 0 [] with port := .u } 0 = true := by decide +kernel
                   exact this), rfl⟩

/-- Profiles whose every field stands at an end of its range, one with station 0, one disabled. -/
theorem witness_WriteProfileIsJudgedWhole :
    held7.HolderExecutes (req 0x8000 [0xc0fe0008, 0x00010008, 0x000006fe]) 0 ∧ selectsPort 0x8000 .l ∧
    (parseLProfile 0xc0fe0008 0x00010008 0x000006fe).ok = true ∧
    profilesAgree held7.uStored (parseLProfile 0xc0fe0008 0x00010008 0x000006fe) = true ∧
    (parseLProfile 0xc0000008 0x00010008 0x000006fe).station = 0 ∧
    (parseLProfile 0x40fe0008 0x00010008 0x000006fe).enabled = false ∧
    heldU.HolderExecutes { req 0x4000 [0x80fe03ff, 0x03ff06f4, 0xfe040000, 0x01020304] with port := .u } 0 ∧
    selectsPort 0x4000 .u ∧ (parseUProfile 0x80fe03ff 0x03ff06f4 0xfe040000 0x01020304).ok = true ∧
    profilesAgree (parseUProfile 0x80fe03ff 0x03ff06f4 0xfe040000 0x01020304) heldU.lStored = true ∧
    (∀ p, ¬selectsPort 0 p) := by
  refine ⟨held7_holder _ _, rfl, by decide +kernel, by decide +kernel, by decide +kernel, by decide +kernel,
    heldU_holder _ _, rfl, by decide +kernel, by decide +kernel, fun p => ?_⟩
  cases p <;> (unfold selectsPort; decide +kernel)

/-- The least settings, one below each, a port, no port. -/
theorem witness_SettingsCountersAndForwardingAreSet :
    held7.HolderExecutes (req 0x4000 [0x08040000]) 0 ∧ held7.HolderExecutes (req 0x4000 []) 0 ∧
    8 ≤ ((0x08040000 : Word).extractLsb' 24 8).toNat ∧ 4 ≤ ((0x08040000 : Word).extractLsb' 16 8).toNat ∧
    ((0x07040000 : Word).extractLsb' 24 8).toNat < 8 ∧ ((0x08030000 : Word).extractLsb' 16 8).toNat < 4 ∧
    selectsPort (req 0x4000 []).selector .u ∧ (∀ p, ¬selectsPort (req 0xc000 []).selector p) := by
  refine ⟨held7_holder _ _, held7_holder _ _, by decide, by decide, by decide, by decide, rfl, fun p => ?_⟩
  cases p <;> (unfold selectsPort; decide +kernel)

/-- RESTART_LINK of the port of arrival, of the other port without and with a RESTART mark in its queue, of none. -/
theorem witness_RestartsFollowTheirAnswer :
    let marked := { held7 with responses := ⟨[⟨8, ⟨.ok, 1, 28, []⟩, some .bridge⟩], []⟩ }
    held7.HolderExecutes (req 0x8000 []) 0 ∧ selectsPort (req 0x8000 []).selector (req 0x8000 []).port ∧
    selectsPort (req 0x4000 []).selector .u ∧ Port.u ≠ (req 0x4000 []).port ∧ 8 ≤ held7.settings.claimTimeout ∧
    (∀ x, x ∈ held7.responses.get .u → x.mark ≠ some .bridge) ∧ marked.HolderExecutes (req 0x4000 []) 0 ∧
    (∃ x, x ∈ marked.responses.get .u ∧ x.mark = some .bridge) ∧ (∀ p, ¬selectsPort (req 0 []).selector p) := by
  refine ⟨held7_holder _ _, rfl, rfl, by decide, by decide +kernel, fun x h => (by cases h),
    ⟨executes_of (by decide +kernel), rfl⟩, ⟨_, List.mem_cons_self, rfl⟩, fun p => ?_⟩
  cases p <;> (unfold selectsPort; decide +kernel)

theorem witness_EditsChangeTheStagedBankAlone :
    held7.HolderExecutes (req 0x0800 [0x0102c002]) 0 ∧ held7.HolderExecutes (req 0x0800 []) 0 ∧ ¬held7.StagedFrozen ∧
    ({ held7 with checkState := .commitPending } : State).StagedFrozen ∧ (checking7 .empty).StagedFrozen ∧
    selectsRecord 0x083f (.mailbox 63) ∧ selectsRecord 0x1007 (.queue 7) ∧ selectsRecord 0x187f (.capture 127) ∧
    selectsRecord 0x207f (.emit 127) ∧ (0x083f : BitVec 16).extractLsb' 11 3 = 1 ∧
    (0x187f : BitVec 16).extractLsb' 11 3 = 3 ∧ 5 ≤ (0x2800 : BitVec 16).extractLsb' 11 3 ∧
    parseMailboxDef 0x0102c002 = some mailDef ∧ parseMailboxDef 0x0100c002 = none ∧
    parseQueueDef 0x00020a40 = some queueDef ∧ parseQueueDef 0x00020240 = none ∧
    parseCaptureEntry 0x80050401 0x40000009 = some (captureTo (.mailbox 0)) ∧ parseCaptureEntry 0x80000401 0x40000009 = none ∧
    parseEmitEntry 0x80050401 0x80005400 = some (emitFrom (.queue 0)) ∧ parseEmitEntry 0x80050401 0x80005c00 = none := by
  refine ⟨held7_holder _ _, held7_holder _ _, fun h => ?_, .inr rfl, .inl ⟨_, _, _, rfl⟩, ⟨rfl, rfl⟩,
    ⟨rfl, rfl⟩, ⟨rfl, rfl⟩, ⟨rfl, rfl⟩, ?_⟩
  · rcases h with ⟨_, _, _, h⟩ | h <;> cases h
  · decide +kernel

theorem witness_EditsChangeTheStagedBankAlone_noRecord : ∀ ref, ¬selectsRecord 0x2800 ref := by
  intro ref
  cases ref <;> (rintro ⟨h, -⟩; revert h; decide +kernel)

theorem witness_CheckTakenIsOutstanding : held7.HolderExecutes (req 0 []) 0 ∧ ¬held7.StagedFrozen ∧
    ({ held7 with checkState := .commitPending } : State).HolderExecutes (req 0 []) 0 ∧
    ({ held7 with checkState := .commitPending } : State).StagedFrozen := by
  refine ⟨held7_holder _ _, fun h => ?_, ⟨executes_of (by decide +kernel), rfl⟩, .inr rfl⟩
  rcases h with ⟨_, _, _, h⟩ | h <;> cases h

theorem witness_CommitAndCancelFollowTheCheckState (c : CheckState) :
    ({ held7 with checkState := c } : State).Executes (req 0 []) 0 ∧
    ({ held7 with checkState := c } : State).claim = some ⟨(req 0 []).port, (req 0 []).station⟩ ∧
    (req 0 [1]).operands ≠ [] ∧ (∃ t, exec (.commit (req 0 [])) { held7 with checkState := c } = .next t) ∧
    ({ held7 with lTime := .disabled } : State).lTime.state = .off ∧ idle9.lTime.state = .untied ∧
    idle9.lTime.running = false := by
  refine ⟨executes_of ?_, rfl, by decide, ⟨_, rfl⟩, rfl, rfl, rfl⟩
  have h : executesB held7 (req 0 []) 0 = true := by decide +kernel
  exact h

/-- A payload of exactly the capacity, one word more, an open write. -/
theorem witness_InjectFlipsAndDrainEmpties :
    let s := planned (.mailbox 0) (.queue 0)
    s.HolderExecutes (req 0 [1, 2]) 0 ∧ selectsNumber 0 (0 : Fin 64) ∧ selectsNumber 0 (0 : Fin 8) ∧
    s.active.mailboxes[0] = ⟨some mailDef, true⟩ ∧ s.active.mailboxes[63] = ⟨none, true⟩ ∧
    [(1 : Word), 2].length ≤ mailDef.capacity ∧ mailDef.capacity < [(1 : Word), 2, 3].length ∧
    s.mailboxes[0].openWrite = none ∧ capturing.mailboxes[0].openWrite.isSome = true ∧
    (s.active.disturb (.mailbox 0)).mailboxes[0].parityGood = false ∧ s.HolderExecutes (req 0 []) 0 ∧
    s.active.queues[0] = ⟨some queueDef, true⟩ ∧ s.active.queues[7] = ⟨none, true⟩ ∧ s.queues[0].entries.length ≤ 32 ∧
    s.queues[0].headInFlight = none ∧
    (⟨[⟨1, 9, 3, false⟩], some .u, 0, false, 0⟩ : QueueRt).headInFlight.isSome = true :=
  ⟨planned_holder _ _ _ _, rfl, rfl, rfl, rfl, by decide, by decide, rfl, rfl, rfl,
    planned_holder _ _ _ _, rfl, rfl, by decide +kernel, rfl, rfl⟩

theorem witness_InjectFlipsAndDrainEmpties_range : (∀ n : Fin 64, ¬selectsNumber 64 n) ∧ (∀ n : Fin 8, ¬selectsNumber 8 n) := by
  refine ⟨fun n h => ?_, fun n h => ?_⟩
  · have h : (64 : Nat) = n := h
    omega
  · have h : (8 : Nat) = n := h
    omega

/-- A queue with one entry, MAILBOX_STALE of mailbox 3 with id 4 and count 255; the next id is `next`. -/
def staleUnit (next : BitVec 8) : NoticeUnit :=
  { entries := [⟨4, .mailboxStale, .mailbox 3, 255, 1, 1, 7, true⟩], nextId := next, overflow := false }

/-- Sixteen entries: MAILBOX_STALE of mailboxes 0 to 15. -/
def fullUnit : NoticeUnit :=
  { entries := (List.range 16).map fun k =>
      ⟨BitVec.ofNat 8 k, .mailboxStale, .mailbox (Fin.ofNat 64 k), 1, 0, 0, 0, false⟩
    nextId := 16, overflow := false }

/-- An entry at count 255 is raised again; with room, the next id is free (255) or held by an entry (4); the queue is full. -/
theorem witness_NoticesAreRaisedAndAcknowledged_raise :
    (staleUnit 255).Lawful ∧ (staleUnit 4).Lawful ∧ fullUnit.Lawful ∧
    (staleUnit 4).entries = [] ++ ⟨4, .mailboxStale, .mailbox 3, 255, 1, 1, 7, true⟩ :: [] ∧
    (∀ u, u = staleUnit 255 ∨ u = staleUnit 4 ∨ u = fullUnit →
      ∀ e, e ∈ u.entries → ¬(e.kind = .mailboxStale ∧ e.subject = .mailbox 16)) ∧
    (staleUnit 4).entries.length < 16 ∧ fullUnit.entries.length = 16 ∧
    ({ held7 with lTime := .disabled } : State).lTime.state = .off ∧ held7.lTime.state ≠ .off ∧
    held7.lTime.round = some 9 := by
  refine ⟨by unfold NoticeUnit.Lawful; decide +kernel, by unfold NoticeUnit.Lawful; decide +kernel,
    by unfold NoticeUnit.Lawful; decide +kernel, rfl, fun u h => ?_, by decide, by decide +kernel, rfl, by decide, rfl⟩
  rcases h with rfl | rfl | rfl <;> decide +kernel

/-- R165: the count stays 255 and the last round is the raise's; the id after 4, which stands, is 5; 0 follows 255; the
seventeenth notice is lost. -/
theorem test_raise_follows_the_queue :
    (staleUnit 0).raise .mailboxStale (.mailbox 3) 9 =
      ⟨[⟨4, .mailboxStale, .mailbox 3, 255, 1, 9, 7, true⟩], 0, false⟩ ∧
    ((staleUnit 4).raise .mailboxStale (.mailbox 5) 9).entries[1]? =
      some ⟨5, .mailboxStale, .mailbox 5, 1, 9, 9, 0, false⟩ ∧
    ((staleUnit 255).raise .mailboxStale (.mailbox 5) 9).nextId = 0 ∧
    fullUnit.raise .tieGained .none 9 = { fullUnit with overflow := true } := by decide +kernel

theorem witness_NoticesAreRaisedAndAcknowledged : held7.Executes (req 0 []) 0 ∧ (req 0 []).operands = [] ∧
    held7.notices.Lawful ∧ held7.notices.entries = [] ++ ⟨0, .started, .none, 1, 0, 0, 0, false⟩ :: [] ∧
    (0 : BitVec 8) = (req 0 []).selector.extractLsb' 0 8 ∧
    (∀ e, e ∈ held7.notices.entries → e.id ≠ (req 1 []).selector.extractLsb' 0 8) :=
  ⟨held7_executes _ _, rfl, by unfold NoticeUnit.Lawful; decide +kernel, rfl, by decide, by decide +kernel⟩

/-- Twelve words are never executed as a PING, and START comes from a party without the claim. -/
theorem witness_WrongCountAndMissingClaimAreRefused :
    held7.Executes (req 0 (List.replicate 12 0)) 0 ∧ ¬(req 0 (List.replicate 12 0)).operands.length ≤ 11 ∧
    ({ held7 with claim := none } : State).Executes (req 0 []) 0 ∧ (req 0 []).operands.length = 0 ∧
    ({ held7 with claim := none } : State).claim ≠ some own7 :=
  ⟨held7_executes _ _, by decide, executes_of (by decide +kernel), rfl, by decide +kernel⟩

/-- A port that does not run; a retry with room and without; an outstanding sequence; a new request to a full queue. -/
theorem witness_RepeatsAreAnsweredFromTheCache :
    let x : Response := ⟨7, ⟨.ok, 8, 1, []⟩, none⟩
    let full := { held7 with responses := ⟨[], List.replicate 8 x⟩ }
    let retry : Request := ⟨.l, 7, 8, 0, []⟩
    held7.portRunning .u = false ∧ held7.Takes retry ∧ (held7.admitParty (requestParty retry)).2 = some 0 ∧
    (held7.admitted retry).parties[0] = some { partyOf own7 with idle := 0 } ∧
    (partyOf own7).lastSeq = some retry.seq ∧ (partyOf own7).cached = some ⟨.ok, 8, 1, []⟩ ∧
    (held7.responses.get .l).length < 8 ∧ 8 ≤ (full.responses.get .l).length ∧ full.Takes (req 0 []) ∧
    (partyOf own7).lastSeq ≠ some (req 0 []).seq ∧
    ((checking7 .empty).admitted retry).parties[0] =
      some { partyOf own7 with outstanding := some 8, cached := none, idle := 0 } :=
  ⟨by decide +kernel, ⟨rfl, rfl⟩, by decide +kernel, by decide +kernel, rfl, rfl, by decide, by decide, ⟨rfl, rfl⟩,
    by decide, by decide +kernel⟩

/-- Every position taken by (U, 1) to (U, 8), idle 3 but for positions 2 and 5, idle 9. -/
def crowded : State :=
  let taken := fun i : Fin 8 =>
    some { partyOf ⟨.u, BitVec.ofNat 8 (i.val + 1)⟩ with idle := if i = 2 ∨ i = 5 then 9 else 3 }
  { State.reset with parties := Vector.ofFn taken }

theorem witness_PartiesAreFoundOrAdmitted_found : held7.parties[0] = some (partyOf own7) ∧
    (partyOf own7).id = ⟨(req 0 []).port, (req 0 []).station⟩ ∧ State.reset.parties[0] = none ∧
    (∀ j : Fin 8, j < 0 → State.reset.parties[j] ≠ none) := ⟨rfl, rfl, rfl, fun j h => (by omega)⟩

/-- The victim is position 2, the lower of the two most idle. -/
theorem witness_PartiesAreFoundOrAdmitted_evicts :
    (∀ j : Fin 8, crowded.parties[j].map (·.id) ≠ some own7) ∧ (∀ j : Fin 8, crowded.parties[j] ≠ none) ∧
    crowded.parties[2] = some { partyOf ⟨.u, 3⟩ with idle := 9 } ∧ crowded.claim = none ∧
    (∀ j : Fin 8, (crowded.parties[j].map (·.idle)).getD 0 ≤ 9) ∧
    (∀ j : Fin 8, j < 2 → (crowded.parties[j].map (·.idle)) ≠ some 9) ∧
    (∀ j : Fin 8, crowded.parties[j].bind (·.outstanding) = none) := by decide +kernel

/-! ### Encodings and invariants -/

/-- Fields at the ends of their ranges. -/
theorem witness_RecordAndProfileWordsFollowTheirTables :
    ({ base := 4095, capacity := 12, readMode := .take, staleLimit := 255, notifyStale := true } : MailboxDef).ok = true ∧
    ({ base := 4095, capacity := 12, depth := 32, fullPolicy := .replaceOldest, retryLimit := 7 } : QueueDef).ok = true ∧
    ({ port := .l, slot := 1023, rounds := ⟨128, 127⟩, target := .mailbox 63, acceptFrom := 254 } : CaptureEntry).ok = true ∧
    ({ port := .u, slot := 1, rounds := ⟨1, 0⟩, source := .queue 7, onEmpty := .silent, onStale := .silent,
       origin := .self } : EmitEntry).ok = true := by decide +kernel

theorem witness_RoundSetsOverlapByTheSmallerPeriod : (⟨128, 127⟩ : RoundSet).ok = true ∧ (⟨1, 0⟩ : RoundSet).ok = true := by
  decide +kernel

theorem witness_RecordAndProfileWordsFollowTheirTables_profiles : (UProfile.powerUp 63).ok = true ∧ (LProfile.powerUp 63).ok = true ∧
    ({ UProfile.powerUp 0 with timingStations := [1, 2, 3, 254] } : UProfile).ok = true := by decide +kernel

theorem witness_CellsFollowTheirTable :
    let h : Header := ⟨.response, true, 127, 1023, 254, 254, 12⟩
    let c : Cell := ⟨dataHeader, [0x01090000, 0xdeadbeef]⟩
    let void : Cell := ⟨{ dataHeader with kind := .void, length := 0 }, []⟩
    1 ≤ h.slot ∧ h.slot ≤ 1023 ∧ h.source ≠ 0 ∧ h.source ≠ 255 ∧ h.dest ≠ 255 ∧ h.length ≤ 12 ∧ h.kind = .response ∧
    ({ held7 with tx := ⟨some void, some c⟩ } : State).tx.get .l = some c ∧ c.payload.length = c.header.length ∧
    ({ held7 with tx := ⟨some void, some c⟩ } : State).tx.get .u = some void ∧ void.payload.length = void.header.length := by
  decide +kernel

/-- A step that answers, from a lawful state: the invariants hold of it. -/
theorem witness_EveryStepKeeps : (∃ t, step { held7 with pending := [.linkStartU] } = .next t) ∧
    held7.notices.Lawful ∧ held7.ResponsesLawful ∧ held7.PartiesLawful ∧ held7.CheckLawful := by
  refine ⟨⟨_, rfl⟩, by unfold NoticeUnit.Lawful; decide +kernel, fun p => by cases p <;> decide +kernel, ?_, ?_⟩
  · have h : ∀ i : Fin 8, held7.parties[i] = if i = 0 then some (partyOf own7) else none := by decide +kernel
    refine ⟨fun i j q r hq hr _ => ?_, fun id hid => ⟨0, partyOf own7, rfl, by cases hid; rfl⟩⟩
    rw [h] at hq hr
    split at hq <;> cases hq
    split at hr <;> cases hr
    simp_all
  · have h : ∀ i : Fin 8, held7.parties[i] = if i = 0 then some (partyOf own7) else none := by decide +kernel
    refine ⟨fun p f rb hc => (by cases hc), fun i q n hq hn => ?_⟩
    rw [h] at hq
    split at hq <;> cases hq
    cases hn

theorem witness_EveryStepKeepsThePlanLaw :
    let s := planned (.mailbox 0) (.queue 0)
    s.PlanLawful := by
  have hr : (planned (.mailbox 0) (.queue 0)).active.InRange :=
    bankOf_inRange (fun x h => by cases h; decide) (fun x h => by cases h; decide)
  have he : (Bank.empty).InRange := by
    refine ⟨fun n d h => ?_, fun n d h => ?_, fun n d h => ?_, fun n d h => ?_⟩ <;>
      simp [Bank.empty, Stored.undefined] at h
  exact ⟨hr, he, bankOf_oneMatch _ _, fun h => by rcases h with h | h <;> cases h⟩

theorem witness_EveryStepKeepsTheBufferStoreLaw : capturing.BuffersLawful := by
  have hm : ∀ n : Fin 64, capturing.mailboxes[n] =
      if n = 0 then { MailboxRt.reset with openWrite := some .l } else .reset := by decide +kernel
  have hq : ∀ n : Fin 8, capturing.queues[n] = .reset := by decide +kernel
  refine ⟨rfl, fun n => ?_, fun n => ?_, fun p c h => ?_, fun p r h => ?_, fun p c n b k l h ht hk => ?_⟩
  · rw [hm]; split <;> simp [MailboxRt.Lawful, MailboxRt.reset]
  · rw [hq]; simp [QueueRt.Lawful, QueueRt.reset]
  · cases p <;> cases h; simp [mailContext, CaptureTarget.InRange]
  · cases p <;> cases h
  · cases p <;> cases h
    cases ht
    rfl

theorem witness_EveryStepKeepsTheTimingLaw : locked100.TimingLawful ∧ locked100.ProfilesLawful := by
  unfold State.TimingLawful State.ProfilesLawful
  decide +kernel

end Sys2Proof.Tests
end

