-- ==== Sys2Proof/Proofs/RoundSets.lean ====
section
/-! Round sets (R59, R60): the rounds two of them share, and the relation of the checker. Sets in range have periods
that divide one another; so the set of larger period has one remainder modulo the smaller, and either lies within the
other or misses it. -/

namespace Sys2Proof.Machine

/-! ## The accessors -/

theorem RoundSet.hits_iff {t : RoundSet} {n : Round} : t.hits n = true ↔ n.toNat % t.period = t.phase := by
  simp [RoundSet.hits]

theorem RoundSet.overlaps_iff {t v : RoundSet} :
    t.overlaps v = true ↔ t.phase % min t.period v.period = v.phase % min t.period v.period := by
  simp [RoundSet.overlaps]

theorem clash_iff {p q : Port} {slot slot' : Nat} {t v : RoundSet} :
    clash p q slot slot' t v = true ↔ p = q ∧ slot = slot' ∧ t.overlaps v = true := by
  simp [clash, and_assoc]

/-! ## Round sets in range -/

theorem RoundSet.phase_lt_period {t : RoundSet} (ht : t.ok = true) : t.phase < t.period := by
  simp only [RoundSet.ok, Bool.and_eq_true, decide_eq_true_eq] at ht
  exact ht.2

theorem RoundSet.period_eq_two_pow {t : RoundSet} (ht : t.ok = true) : ∃ k ≤ 7, t.period = 2 ^ k := by
  simp only [RoundSet.ok, Bool.and_eq_true, Bool.or_eq_true, decide_eq_true_eq] at ht
  obtain ⟨((((((h | h) | h) | h) | h) | h) | h) | h, -⟩ := ht
  exacts [⟨0, by omega, h⟩, ⟨1, by omega, h⟩, ⟨2, by omega, h⟩, ⟨3, by omega, h⟩, ⟨4, by omega, h⟩, ⟨5, by omega, h⟩,
    ⟨6, by omega, h⟩, ⟨7, by omega, h⟩]

/-- The phase of a set in range is itself a round number. -/
theorem RoundSet.phase_lt_rounds {t : RoundSet} (ht : t.ok = true) : t.phase < 2 ^ 7 := by
  obtain ⟨k, hk, hp⟩ := period_eq_two_pow ht
  calc t.phase < 2 ^ k := hp ▸ phase_lt_period ht
    _ ≤ 2 ^ 7 := Nat.pow_le_pow_right (by decide) hk

/-- Every set in range matches the round whose number is its phase. -/
theorem RoundSet.hits_phase {t : RoundSet} (ht : t.ok = true) : t.hits (BitVec.ofNat 7 t.phase) = true := by
  rw [hits_iff, BitVec.toNat_ofNat, Nat.mod_eq_of_lt (phase_lt_rounds ht), Nat.mod_eq_of_lt (phase_lt_period ht)]

theorem RoundSet.period_dvd_of_le {t v : RoundSet} (ht : t.ok = true) (hv : v.ok = true) (h : t.period ≤ v.period) :
    t.period ∣ v.period := by
  obtain ⟨j, -, hj⟩ := period_eq_two_pow ht
  obtain ⟨k, -, hk⟩ := period_eq_two_pow hv
  rw [hj, hk] at h ⊢
  exact Nat.pow_dvd_pow 2 ((Nat.pow_le_pow_iff_right (by decide)).mp h)

theorem RoundSet.min_period_dvd_max {t v : RoundSet} (ht : t.ok = true) (hv : v.ok = true) :
    min t.period v.period ∣ max t.period v.period := by
  rcases le_total t.period v.period with h | h
  · rw [min_eq_left h, max_eq_right h]
    exact period_dvd_of_le ht hv h
  · rw [min_eq_right h, max_eq_left h]
    exact period_dvd_of_le hv ht h

/-! ## Shared rounds -/

/-- R60: some round number is matched by both round sets. -/
def RoundSet.ShareRound (t v : RoundSet) : Prop := ∃ n : Round, t.hits n = true ∧ v.hits n = true

theorem RoundSet.shareRound_comm {t v : RoundSet} : t.ShareRound v ↔ v.ShareRound t :=
  exists_congr fun _ => and_comm

/-- The key to R60: a round that a set matches has, modulo a divisor of its period, the remainder of its phase. -/
theorem RoundSet.mod_eq_phase_mod_of_hits {v : RoundSet} {n : Round} {m : Nat} (hm : m ∣ v.period)
    (hn : v.hits n = true) : n.toNat % m = v.phase % m := by
  rw [← hits_iff.mp hn, Nat.mod_mod_of_dvd _ hm]

/-- Sets that share a round: that of the larger period lies within the other. -/
theorem RoundSet.hits_of_shareRound {t v : RoundSet} (hd : t.period ∣ v.period) (hs : t.ShareRound v) {n : Round}
    (hn : v.hits n = true) : t.hits n = true := by
  obtain ⟨r, htr, hvr⟩ := hs
  rw [hits_iff] at htr ⊢
  rw [mod_eq_phase_mod_of_hits hd hn, ← mod_eq_phase_mod_of_hits hd hvr, htr]

/-- R60 for periods of which the first divides the second: the phase of the second set is the round to try. -/
theorem RoundSet.shareRound_iff_of_dvd {t v : RoundSet} (ht : t.ok = true) (hv : v.ok = true)
    (hd : t.period ∣ v.period) : t.ShareRound v ↔ t.phase % t.period = v.phase % t.period := by
  rw [Nat.mod_eq_of_lt (phase_lt_period ht)]
  constructor
  · rintro ⟨n, htn, hvn⟩
    rw [← hits_iff.mp htn, mod_eq_phase_mod_of_hits hd hvn]
  · intro h
    refine ⟨BitVec.ofNat 7 v.phase, ?_, hits_phase hv⟩
    rw [hits_iff, mod_eq_phase_mod_of_hits hd (hits_phase hv), h]

theorem RoundSet.shareRound_iff_phase_mod {t v : RoundSet} (ht : t.ok = true) (hv : v.ok = true) :
    t.ShareRound v ↔ t.phase % min t.period v.period = v.phase % min t.period v.period := by
  rcases le_total t.period v.period with h | h
  · rw [min_eq_left h, shareRound_iff_of_dvd ht hv (period_dvd_of_le ht hv h)]
  · rw [min_eq_right h, shareRound_comm, shareRound_iff_of_dvd hv ht (period_dvd_of_le hv ht h), eq_comm]

/-- The checker's relation is the one of R60. -/
theorem RoundSet.overlaps_iff_shareRound {t v : RoundSet} (ht : t.ok = true) (hv : v.ok = true) :
    t.overlaps v = true ↔ t.ShareRound v :=
  overlaps_iff.trans (shareRound_iff_phase_mod ht hv).symm

theorem RoundSet.shareRound_iff_phase_eq {t v : RoundSet} (ht : t.ok = true) (hv : v.ok = true)
    (h : t.period = v.period) : t.ShareRound v ↔ t.phase = v.phase := by
  rw [shareRound_iff_of_dvd ht hv h.dvd, Nat.mod_eq_of_lt (phase_lt_period ht),
    Nat.mod_eq_of_lt (h ▸ phase_lt_period hv)]

theorem RoundSet.shareRound_of_period_one {t v : RoundSet} (ht : t.ok = true) (hv : v.ok = true)
    (h : t.period = 1) : t.ShareRound v := by
  rw [shareRound_iff_of_dvd ht hv (h ▸ one_dvd _), h, Nat.mod_one, Nat.mod_one]

/-! ## R60 -/

/-- Settles O52: each sentence of R60 is one of the lemmas above. -/
theorem roundSetsOverlapByTheSmallerPeriod : Obligations.RoundSetsOverlapByTheSmallerPeriod := by
  intro t v ht hv
  have hoverlaps := RoundSet.overlaps_iff_shareRound ht hv
  refine ⟨hoverlaps, RoundSet.shareRound_iff_phase_mod ht hv, Nat.mod_eq_zero_of_dvd (RoundSet.min_period_dvd_max ht hv),
    fun hs hle _ hn => RoundSet.hits_of_shareRound (RoundSet.period_dvd_of_le ht hv hle) hs hn,
    RoundSet.shareRound_iff_phase_eq ht hv, RoundSet.shareRound_of_period_one ht hv, fun p q slot slot' => ?_⟩
  rw [clash_iff, hoverlaps]
  rfl

end Sys2Proof.Machine
end

