-- ==== Sys2Proof/Proofs/ReadQueue.lean ====
section
/-! READ_QUEUE (R120, R162): its two result words field by field, its own rule case by case, and the command of an
executed request. -/

namespace Sys2Proof.Machine

/-! ## The result words -/

/-- The first result word: the number of entries and the head-in-flight state. -/
def QueueRt.stateWord (q : QueueRt) : Word :=
  toWord (put q.entries.length 31 24 + put (optPortCode q.headInFlight) 23 22 + put q.attempts 21 19 +
    putBit q.drained 18)

/-- The second result word: the fields of the oldest entry. -/
def QueueEntry.word (e : QueueEntry) : Word :=
  toWord (put e.length 31 24 + put e.source.toNat 23 16 + put e.round.toNat 15 8 + putBit e.truncated 0)

theorem QueueRt.words_eq (q : QueueRt) : q.words = q.stateWord :: (q.entries.head?.map QueueEntry.word).toList := by
  rw [QueueRt.words, QueueRt.stateWord]
  cases q.entries with
  | nil => rfl
  | cons e tail => rfl

theorem optPortCode_lt (p : Option Port) : optPortCode p < 4 := by
  rcases p with _ | _ | _ <;> decide

theorem getLsbD_eq_iff_bitsAt {w : Word} {i : Nat} {b : Bool} : w.getLsbD i = b ↔ bitsAt w i i = b.toNat := by
  have hbit : bitsAt w i i < 2 := by
    rw [bitsAt_eq_field, field, Nat.add_sub_cancel_left]
    exact Nat.mod_lt _ (by decide)
  rw [getLsbD_eq_bitsAt]
  cases b with
  | false => simp only [decide_eq_false_iff_not, Bool.toNat_false]; omega
  | true => simp only [decide_eq_true_eq, Bool.toNat_true]

/-- A value that fits its field is written whole. -/
theorem put_of_lt {v hi lo : Nat} (h : v < 2 ^ (hi + 1 - lo)) : put v hi lo = v * 2 ^ lo := by
  rw [put, Nat.mod_eq_of_lt h]

theorem QueueRt.stateWord_fields {q : QueueRt} (hentries : q.entries.length ≤ 32) (hattempts : q.attempts ≤ 7) :
    bitsAt q.stateWord 31 24 = q.entries.length ∧ bitsAt q.stateWord 23 22 = optPortCode q.headInFlight ∧
    bitsAt q.stateWord 21 19 = q.attempts ∧ q.stateWord.getLsbD 18 = q.drained ∧ bitsAt q.stateWord 17 0 = 0 := by
  have hport := optPortCode_lt q.headInFlight
  have hdrained := q.drained.toNat_lt
  obtain ⟨k, hk, hword⟩ : ∃ k, k = q.entries.length * 2 ^ 24 + optPortCode q.headInFlight * 2 ^ 22 +
      q.attempts * 2 ^ 19 + q.drained.toNat * 2 ^ 18 ∧ q.stateWord = toWord k := by
    refine ⟨_, rfl, ?_⟩
    rw [stateWord, putBit, put_of_lt (by omega), put_of_lt (by omega), put_of_lt (by omega), put_of_lt (by omega)]
  simp only [getLsbD_eq_iff_bitsAt, hword, bitsAt_toWord (show k < 2 ^ 32 by omega), field]
  omega

theorem QueueEntry.word_fields {e : QueueEntry} (hlength : e.length ≤ 12) :
    bitsAt e.word 31 24 = e.length ∧ bitsAt e.word 23 16 = e.source.toNat ∧ bitsAt e.word 15 8 = e.round.toNat ∧
    e.word.getLsbD 0 = e.truncated := by
  have hsource := e.source.isLt
  have hround := e.round.isLt
  have htruncated := e.truncated.toNat_lt
  obtain ⟨k, hk, hword⟩ : ∃ k, k = e.length * 2 ^ 24 + e.source.toNat * 2 ^ 16 + e.round.toNat * 2 ^ 8 +
      e.truncated.toNat * 2 ^ 0 ∧ e.word = toWord k := by
    refine ⟨_, rfl, ?_⟩
    rw [word, putBit, put_of_lt (by omega), put_of_lt (by omega), put_of_lt (by omega), put_of_lt (by omega)]
  simp only [getLsbD_eq_iff_bitsAt, hword, bitsAt_toWord (show k < 2 ^ 32 by omega), field]
  omega

/-! ## The request's own rule -/

theorem ownReadQueue_of_no_queue {sel : BitVec 16} (s : State) (h : ∀ n : Fin 8, ¬selectsNumber sel n) :
    ownReadQueue sel s = answer s .range := by
  rw [ownReadQueue, selQueue_eq_none.mpr h]

section
variable {s : State} {sel : BitVec 16} {n : Fin 8} (hsel : selectsNumber sel n)
include hsel

theorem ownReadQueue_of_unseen (h : s.active.queues[n].seen = none) :
    ownReadQueue sel s = answer (s.readActive (.queue n)) .undefined := by
  simp only [ownReadQueue, selQueue_eq_some.mpr hsel, h]

theorem ownReadQueue_of_undefined (hgood : s.active.queues[n].parityGood = true)
    (hnone : s.active.queues[n].fields = none) : ownReadQueue sel s = answer s .undefined := by
  rw [ownReadQueue_of_unseen hsel ((seen_of_good hgood).trans hnone), readActive_of_good (ref := .queue n) hgood]

theorem ownReadQueue_of_failed (hfailed : s.active.queues[n].parityGood = false) :
    ownReadQueue sel s = answer (s.raise .planParity (.record .active (.queue n))) .undefined := by
  rw [ownReadQueue_of_unseen hsel (seen_of_failed hfailed), readActive_of_failed (ref := .queue n) hfailed]

theorem ownReadQueue_of_defined {d : QueueDef} (hgood : s.active.queues[n].parityGood = true)
    (hsome : s.active.queues[n].fields = some d) : ownReadQueue sel s = answerOk s s.queues[n].words := by
  simp only [ownReadQueue, selQueue_eq_some.mpr hsel, (seen_of_good hgood).trans hsome]

end

/-! ## The command -/

/-- READ_QUEUE needs no claim and takes no operands: an executed one is answered by its own rule. -/
theorem exec_readQueue {s t : State} {r : Request} {i : Fin 8} {status : Status} {results : List Word}
    (h : s.Executes r i) (hops : r.operands = [])
    (hown : ownReadQueue r.selector (s.begun r i) = (t, .now status results none false))
    (hqueue : t.responses = s.responses) :
    exec (.readQueue r) s = .next (t.replied r i 10 status results none) := by
  have hcount : Req.readQueue.countOk r.selector r.operands.length = true := by rw [hops]; rfl
  have hjudge : judge (some .readQueue) r (s.begun r i) = (t, .now status results none false) :=
    (judge_own hcount fun hclaim => by cases hclaim).trans hown
  exact exec_replied h .readQueue hjudge (by rw [hqueue])

/-- Settles O39, by the cases of the request's own rule. -/
theorem readQueueReportsTheQueue : Obligations.ReadQueueReportsTheQueue := by
  intro r s i hex hops
  have ⟨_, hadmit, _, _⟩ := hex
  obtain ⟨y, hbegun, -⟩ := begun_of hadmit
  have hactive : (s.begun r i).active = s.active := by rw [hbegun, State.withParty_active]
  have hqueues : (s.begun r i).queues = s.queues := by rw [hbegun, State.withParty_queues]
  have hresponses : (s.begun r i).responses = s.responses := by rw [hbegun, State.withParty_responses]
  have hraise : ∀ k j, (s.begun r i).raise k j = { s.begun r i with notices := s.notices.raise k j s.raiseRound } :=
    fun k j => by rw [raise_eq, hbegun, State.withParty_notices, State.raiseRound_withParty]
  refine ⟨fun hsel => exec_readQueue hex hops (ownReadQueue_of_no_queue _ hsel) hresponses, fun n hsel => ⟨?_, ?_, ?_⟩⟩
  · intro hgood hnone
    rw [← hactive] at hgood hnone
    exact exec_readQueue hex hops (ownReadQueue_of_undefined hsel hgood hnone) hresponses
  · intro hfailed
    rw [← hactive] at hfailed
    rw [← hraise]
    exact exec_readQueue hex hops (ownReadQueue_of_failed hsel hfailed) hresponses
  · intro d hgood hsome hentries hattempts hlengths
    rw [← hactive] at hgood hsome
    obtain ⟨hcount, hport, hatt, hdrained, hzero⟩ := QueueRt.stateWord_fields hentries hattempts
    refine ⟨s.queues[n].stateWord, (s.queues[n].entries.head?.map QueueEntry.word).toList, hcount,
      fun hhead => by rw [hport, hhead]; rfl, fun p hhead => by rw [hport, hhead]; rfl, hatt, hdrained, hzero,
      fun hempty => by rw [hempty]; rfl, fun e tail hcons => ?_, ?_⟩
    · have hlength : e.length ≤ 12 := hlengths e (hcons ▸ List.mem_cons_self)
      exact ⟨e.word, by rw [hcons]; rfl, QueueEntry.word_fields hlength⟩
    · rw [← QueueRt.words_eq, ← hqueues]
      exact exec_readQueue hex hops (ownReadQueue_of_defined hsel hgood hsome) hresponses

end Sys2Proof.Machine
end

section
/-! What the events can change, said once for each operation. -/

set_option Elab.async false

namespace Sys2Proof.Machine

/-! ## Contexts given up -/

theorem abandonWrite_frame (s : State) (n : Fin 64) (p : Port) :
    s.abandonWrite n p = { s with mailboxes :=
      if s.mailboxes[n].openWrite = some p then s.mailboxes.set n.val s.mailboxes[n].closeWrite else s.mailboxes } := by
  unfold State.abandonWrite
  dsimp only
  split <;> rfl

theorem withContext_none_of_none {s : State} {p : Port} (h : s.contexts.get p = none) : s.withContext p none = s := by
  rw [State.withContext, ← h, PerPort.set_get]

theorem dropContext_frame (s : State) (p : Port) : ∃ st k ms, s.dropContext p = { s with
    store := st, choice := k, mailboxes := ms, contexts := s.contexts.set p none } := by
  unfold State.dropContext
  split
  · exact ⟨_, _, _, (withContext_none_of_none ‹_›).symm⟩
  · obtain ⟨st, k, hplaced⟩ := placeArrived_frame s p
    simp only [hplaced, abandonWrite_frame]
    split
    all_goals exact ⟨_, _, _, rfl⟩

theorem closeContext_frame (s : State) (p : Port) : ∃ st k ms co, s.closeContext p = { s with
    store := st, choice := k, mailboxes := ms, captureOutcomes := co, contexts := s.contexts.set p none } := by
  unfold State.closeContext
  split
  · exact ⟨_, _, _, _, (withContext_none_of_none ‹_›).symm⟩
  · obtain ⟨st, k, ms, hdropped⟩ := dropContext_frame s p
    simp only [hdropped]
    split
    all_goals exact ⟨_, _, _, _, rfl⟩

/-! ## Headers accepted -/

theorem openCapture_frame (s : State) (p : Port) (n : Fin 128) (r : Round) (t : CaptureTarget) : ∃ co ms cs,
    s.openCapture p n r t = { s with captureOutcomes := co, mailboxes := ms, contexts := cs } := by
  unfold State.openCapture
  cases t with
  | queue => exact ⟨_, _, _, rfl⟩
  | mailbox =>
    unfold State.openWrite
    dsimp only
    split
    · exact ⟨_, _, _, rfl⟩
    · exact ⟨_, _, _, rfl⟩

theorem captureMatched_frame (s : State) (p : Port) (h : Header) (n : Fin 128) (e : CaptureEntry) : ∃ co ms cs,
    s.captureMatched p h n e = { s with captureOutcomes := co, mailboxes := ms, contexts := cs } := by
  unfold State.captureMatched
  split
  · exact ⟨_, _, _, rfl⟩
  · split
    · exact ⟨_, _, _, rfl⟩
    · split
      · exact ⟨_, _, _, rfl⟩
      · exact openCapture_frame _ _ _ _ _

theorem captureAtHeader_frame (s : State) (p : Port) (h : Header) : ∃ u co ms cs,
    s.captureAtHeader p h = { s with notices := u, captureOutcomes := co, mailboxes := ms, contexts := cs } := by
  unfold State.captureAtHeader
  obtain ⟨u, hread⟩ := readCaptures_frame s
  dsimp only
  split
  · exact ⟨u, _, _, _, hread⟩
  · rename_i n e _
    obtain ⟨u', hread'⟩ := readActive_frame s.readCaptures e.target.ref
    obtain ⟨co, ms, cs, hmatched⟩ := captureMatched_frame (s.readCaptures.readActive e.target.ref) p h n e
    rw [hmatched, hread', hread]
    exact ⟨u', co, ms, cs, rfl⟩

/-! ## Transmission ends -/

theorem mailboxEnd_frame (s : State) (n : Fin 64) (tag : BitVec 8) (mode : ReadMode) (e : TxEnd) :
    ∃ ms, s.mailboxEnd n tag mode e = { s with mailboxes := ms } := by
  unfold State.mailboxEnd
  dsimp only
  split
  all_goals exact ⟨_, rfl⟩

theorem queueEnd_frame (s : State) (n : Fin 8) (depth limit : Nat) (p : Port) (e : TxEnd) :
    ∃ qs u, s.queueEnd n depth limit p e = { s with queues := qs, notices := u } := by
  unfold State.queueEnd
  dsimp only
  split
  · split
    · exact ⟨_, _, rfl⟩
    · split
      all_goals exact ⟨_, _, rfl⟩
    · split
      all_goals exact ⟨_, _, rfl⟩
  · exact ⟨_, _, rfl⟩

theorem sourceEnd_frame (s : State) (p : Port) (x : SourceEffect) (e : TxEnd) :
    ∃ ms qs u, s.sourceEnd p x e = { s with mailboxes := ms, queues := qs, notices := u } := by
  unfold State.sourceEnd
  split
  · rename_i n tag mode
    obtain ⟨ms, h⟩ := mailboxEnd_frame s n tag mode e
    exact ⟨ms, _, _, h⟩
  · rename_i n depth limit
    obtain ⟨qs, u, h⟩ := queueEnd_frame s n depth limit p e
    exact ⟨_, qs, u, h⟩
  · exact ⟨_, _, _, rfl⟩

theorem withEmitRecord_none_of_none {s : State} {p : Port} (h : s.emitRecords.get p = none) :
    s.withEmitRecord p none = s := by
  rw [State.withEmitRecord, ← h, PerPort.set_get]

theorem emitEnd_frame (s : State) (p : Port) (e : TxEnd) : ∃ ms qs u eo k, s.emitEnd p e = { s with
    mailboxes := ms, queues := qs, notices := u, emitOutcomes := eo, choice := k
    emitRecords := s.emitRecords.set p none } := by
  unfold State.emitEnd
  split
  · exact ⟨_, _, _, _, _, (withEmitRecord_none_of_none ‹_›).symm⟩
  · rename_i r _
    dsimp only
    split
    · exact ⟨_, _, _, _, _, rfl⟩
    · obtain ⟨ms, qs, u, h⟩ := sourceEnd_frame (s.withEmitRecord p none) p r.effect e
      exact ⟨ms, qs, u, _, _, h⟩
    · split
      · rcases either_cases (·.raise .collision (.emit r.entry)) (·.sourceEnd p r.effect e)
          ((s.withEmitRecord p none).recordEmit r.entry (r.outcomeAt e) r.round) with he | he <;> rw [he]
        · obtain ⟨ms, qs, u, h⟩ := sourceEnd_frame _ p r.effect e
          exact ⟨ms, qs, u, _, _, h⟩
        · obtain ⟨ms, qs, u, h⟩ := sourceEnd_frame
            { (s.withEmitRecord p none).recordEmit r.entry (r.outcomeAt e) r.round with
              choice := ((s.withEmitRecord p none).recordEmit r.entry (r.outcomeAt e) r.round).choice + 1 } p r.effect e
          exact ⟨ms, qs, _, _, _, by rw [h]; rfl⟩
      · obtain ⟨ms, qs, u, h⟩ := sourceEnd_frame
          ((s.withEmitRecord p none).recordEmit r.entry (r.outcomeAt e) r.round) p r.effect e
        exact ⟨ms, qs, u, _, _, h⟩

/-- The counters of P after a transmission end: a DISTURBED one is counted (R17). -/
def Counters.afterEnd (c : Counters) (e : TxEnd) : Counters := if e = .disturbed then c.countDisturbed else c

/-- The transmission of P has ended: the buffer is free and the end counted. -/
def State.freed (s : State) (p : Port) (e : TxEnd) : State :=
  { s with tx := s.tx.set p none, counters := s.counters.set p ((s.counters.get p).afterEnd e) }

/-- What R15 does at the end of the transmission of a cell. -/
theorem finishTx_of_some {s : State} {p : Port} {c : Cell} (h : s.tx.get p = some c) (e : TxEnd) :
    s.finishTx p e =
      if c.header.kind = .data ∨ c.header.kind = .void then (s.freed p e).emitEnd p e else s.freed p e := by
  have hfreed : (if e = .disturbed then (s.withTx p none).count p Counters.countDisturbed else s.withTx p none) =
      s.freed p e := by
    unfold State.freed Counters.afterEnd
    split
    · rfl
    · rw [PerPort.set_get]
      rfl
  unfold State.finishTx
  simp only [h, hfreed]
  cases c.header.kind <;> rfl

theorem finishTx_of_none {s : State} {p : Port} (h : s.tx.get p = none) (e : TxEnd) : s.finishTx p e = s := by
  simp only [State.finishTx, h]

theorem finishTx_frame (s : State) (p : Port) (e : TxEnd) : ∃ ms qs u eo k er c, s.finishTx p e = { s with
    mailboxes := ms, queues := qs, notices := u, emitOutcomes := eo, choice := k, emitRecords := er, counters := c
    tx := s.tx.set p none } := by
  cases h : s.tx.get p with
  | none =>
    have htx : s.tx.set p none = s.tx := by rw [← h, PerPort.set_get]
    exact ⟨_, _, _, _, _, _, _, by rw [finishTx_of_none h, htx]⟩
  | some c =>
    rw [finishTx_of_some h]
    split
    · obtain ⟨ms, qs, u, eo, k, he⟩ := emitEnd_frame (s.freed p e) p e
      exact ⟨_, _, _, _, _, _, _, he⟩
    · exact ⟨_, _, _, _, _, _, _, rfl⟩

end Sys2Proof.Machine
end

section
/-! What every step can do, once for every law: a law that each named update of the state keeps is kept by every step. -/

set_option Elab.async false

namespace Sys2Proof.Machine

/-! ## Untying as an update of the two timing records -/

/-- The local timing record after R48: TYING and TIED become UNTIED, and the pending alignment is discarded. -/
def LocalRecord.untied (l : LocalRecord) : LocalRecord :=
  match l.state with
  | .tied => { l with state := .untied, pending := none }
  | .tying => { l with state := .untied, pending := none }
  | .untied => l
  | .off => l

/-- The notice unit after R48: TIE_LOST from TIED. -/
def State.untieNotices (s : State) : NoticeUnit :=
  if s.lTime.state = .tied then s.notices.raise .tieLost .none s.raiseRound else s.notices

theorem raiseRound_untied (s : State) : (s.withLTime s.lTime.untied).raiseRound = s.raiseRound := by
  unfold State.raiseRound LocalRecord.untied
  split <;> simp_all

theorem untie_eq (s : State) : s.untie = { s with lTime := s.lTime.untied, notices := s.untieNotices } := by
  have hr := raiseRound_untied s
  unfold State.untie State.untieNotices
  unfold LocalRecord.untied at hr ⊢
  cases hs : s.lTime.state <;> simp only [hs] at hr ⊢
  case tied => rw [raise_eq, hr]; rfl
  all_goals rfl

/-! ## The named updates -/

/-- A law `P` of the state that each update of the model keeps. `W` is what may be assumed of the ranges of the ACTIVE
records: a law that needs them takes `True`. -/
structure StepInvariant (W : Prop) (P : State → Prop) : Prop where
  /-- The quantities that no law speaks of. -/
  quiet : ∀ s rx tx slotFlags counters captureOutcomes emitOutcomes fw choice pending, P s →
    P { s with rx, tx, slotFlags, counters, captureOutcomes, emitOutcomes, forwarding := fw, choice, pending } := by
      intros; assumption
  powerOn : ∀ s strap, P s → P (s.powerOn strap)
  restart : ∀ s store choice, (storeWf s.store = true → storeWf store = true) → P s →
    P (State.started s.strap s.uStored s.lStored s.settings store s.storeEpoch choice s.pending)
  resetnLow : ∀ s, P s → P { s with
    resetnLow := true, rx := ⟨none, none⟩, tx := ⟨none, none⟩, contexts := ⟨none, none⟩, emitRecords := ⟨none, none⟩ } := by
      intros; assumption
  /-- The notice unit. -/
  raise : ∀ s k j, P s → P (s.raise k j) := by intros; assumption
  countDown : ∀ s, P s → P s.countDown := by intros; assumption
  markSent : ∀ s e, P s → P (s.markSent e) := by intros; assumption
  acknowledge : ∀ s id, P s → P (s.acknowledge id) := by intros; assumption
  /-- The response queues and the agent. -/
  lengthen : ∀ s p x, (s.responses.get p).length < 8 → P s → P (s.withResponses p (s.responses.get p ++ [x])) := by
    intros; assumption
  shorten : ∀ s p l, l.length ≤ (s.responses.get p).length → P s → P (s.withResponses p l) := by intros; assumption
  admission : ∀ s id, P s → P (s.admitParty id).1
  updateParty : ∀ s i f, (∀ q : Party, (f q).id = q.id ∧ (f q).outstanding = q.outstanding) → P s →
    P (s.updateParty i f) := by intros; assumption
  countIdle : ∀ s, P s → P s.countIdle := by intros; assumption
  grantClaim : ∀ (s : State) (i : Fin 8) (q : Party), s.parties[i] = some q → s.claim = none → P s →
    P (s.withClaim (some q.id)) := by intros; assumption
  endClaim : ∀ s, P s → P (s.withClaim none).abandonCheck
  takeCheck : ∀ (s : State) (i : Fin 8) (q : Party) n, s.frozen = false → s.parties[i] = some q → s.claim = some q.id → P s →
    P ((s.withCheck (.checking q.id s.figures [])).updateParty i fun y => { y with outstanding := some n, cached := none }) := by
      intros; assumption
  finishCheck : ∀ s p f rb c status results, s.checkState = .checking p f rb →
    (c = .passed → s.staged.check f rb = none) → (c = .passed ∨ ∃ x ref, c = .failed x ref) → P s →
    P ((s.withCheck c).giveDeferred status results)
  /-- Plan memory. -/
  commit : ∀ s, s.checkState = .passed → P s → P (s.withCheck .commitPending) := by intros; assumption
  cancelCommit : ∀ s, s.checkState = .commitPending → P s → P (s.withCheck .passed) := by intros; assumption
  edit : ∀ s b, s.frozen = false → (s.active.InRange → s.staged.InRange → b.InRange) → P s → P (s.edited b) := by
    intros; assumption
  exchange : ∀ s, s.checkState = .commitPending → P s → P { s with
    active := s.staged, staged := s.active, generation := s.generation + 1
    captureOutcomes := Vector.replicate 128 none, emitOutcomes := Vector.replicate 128 none
    checkState := .unchecked } := by intros; assumption
  carryOver : ∀ s old new, P s → P (s.carryOver old new) := by intros; assumption
  disturbRecord : ∀ s role ref note, P s → P (s.disturbRecord role ref note)
  /-- The buffer store and what capture and emit keep of it. -/
  setStore : ∀ s st, (storeWf s.store = true → storeWf st = true) → P s → P (s.withStore st) := by intros; assumption
  spoil : ∀ s (a : Nat), P s → P { s with
    contexts := ⟨s.contexts.u.map (·.spoil s.mailboxes a), s.contexts.l.map (·.spoil s.mailboxes a)⟩ } := by
      intros; assumption
  setMailbox : ∀ s (n : Fin 64) m, (W → s.mailboxes[n].Lawful → m.Lawful) → m.openWrite = s.mailboxes[n].openWrite → P s →
    P (s.withMailbox n m) := by intros; assumption
  closeMailbox : ∀ s p (n : Fin 64) m, s.contexts.get p = none → s.mailboxes[n].openWrite = some p →
    (W → s.mailboxes[n].Lawful → m.Lawful) → P s → P (s.withMailbox n m) := by intros; assumption
  ageAll : ∀ s, P s → P { s with
    mailboxes := Vector.ofFn fun n : Fin 64 => agedUnder s.active.mailboxes[n] s.mailboxes[n] } := by intros; assumption
  setQueue : ∀ s (n : Fin 8) q, (W → s.queues[n].Lawful → q.Lawful) → P s → P (s.withQueue n q) := by intros; assumption
  contextRange : W → ∀ s p c, P s → s.contexts.get p = some c → c.target.InRange := by intros; contradiction
  effectRange : W → ∀ s p x, P s → s.emitRecords.get p = some x → x.effect.InRange := by intros; contradiction
  clearContext : ∀ s p, P s → P (s.withContext p none) := by intros; assumption
  openMailbox : ∀ s p entry round (n : Fin 64) base capacity, s.mailboxes[n].openWrite = none → (W → capacity ≤ 12) → P s →
    P ((s.withMailbox n { s.mailboxes[n] with openWrite := some p }).withContext p
      (some ⟨entry, round, .mailbox n base capacity [], .none⟩)) := by intros; assumption
  holdCell : ∀ s p entry round n base capacity depth policy, (W → capacity ≤ 12 ∧ depth ≤ 32) → P s →
    P (s.withContext p (some ⟨entry, round, .queue n base capacity depth policy, .none⟩)) := by intros; assumption
  clearEmit : ∀ s p, P s → P (s.withEmitRecord p none) := by intros; assumption
  setEmit : ∀ s p x, (W → x.effect.InRange) → P s → P (s.withEmitRecord p (some x)) := by intros; assumption
  /-- Profiles and settings. -/
  setSettings : ∀ s t, t.ok = true → P s → P { s with settings := t } := by intros; assumption
  setUProfile : ∀ s p, p.ok = true → profilesAgree p s.lStored = true → P s →
    P { s with uStored := p, uInUse := { s.uInUse with noticeTarget := p.noticeTarget } } := by intros; assumption
  setLProfile : ∀ s p, p.ok = true → profilesAgree s.uStored p = true → P s →
    P { s with lStored := p, lInUse := { s.lInUse with noticeTarget := p.noticeTarget } } := by intros; assumption
  adoptU : ∀ s, P s → P { s with uInUse := s.uStored } := by intros; assumption
  adoptL : ∀ s, P s → P { s with lInUse := s.lStored } := by intros; assumption
  /-- The uplink timing. -/
  uTally : ∀ s v, v.state = s.uTime.state → v.round = s.uTime.round → (v.slot = s.uTime.slot ∨ v.slot = none) → P s → P (s.withUTime v) := by
    intros; assumption
  uRuns : ∀ s v, v.state = .align ∨ v.state = .confirm ∨ v.state = .locked → v.round.isSome = true →
    (s.locked = true → v.state = .locked) → P s → P (s.withUTime v) := by intros; assumption
  uSeek : ∀ s v, s.locked = false → v.state = .seek ∨ v.state = .off → v.round = none → v.slot = none → P s →
    P (s.withUTime v) := by intros; assumption
  uLeave : ∀ s v, v.state = .seek ∨ v.state = .off → v.round = none → v.slot = none → P s →
    P { s with uTime := v, lTime := s.lTime.untied } := by intros; assumption
  uSlot : ∀ s v, s.placementApplies .u = true → v.state = s.uTime.state → v.round = s.uTime.round → P s →
    P (s.withUTime v) := by intros; assumption
  /-- The local timing. -/
  lSlot : ∀ s k n, s.lTime.running = true → P s → P (s.withLTime { s.lTime with slot := k, lastSlot := n }) := by
    intros; assumption
  lSlotEnds : ∀ s, P s → P (s.withLTime { s.lTime with slot := none }) := by intros; assumption
  lRoundEnds : ∀ s, s.lTime.slot = none → P s → P (s.withLTime { s.lTime with running := false }) := by intros; assumption
  lTied : ∀ s n, s.tyingOrTied = true → P s → P (s.withLTime (.roundStarted .tied n)) := by intros; assumption
  lUntied : ∀ s n, P s → P (s.withLTime (.roundStarted .untied n)) := by intros; assumption
  lTying : ∀ s n, s.locked = true → P s → P (s.withLTime (.roundStarted .tying n)) := by intros; assumption
  lOff : ∀ s, P s → P (s.withLTime .disabled) := by intros; assumption
  lPending : ∀ s x, s.tyingOrTied = true → P s → P (s.withLTime { s.lTime with pending := x }) := by intros; assumption
  lBeginsTying : ∀ s, s.locked = true → s.lTime.state = .untied → P s →
    P (s.withLTime { s.lTime with state := .tying }) := by intros; assumption

end Sys2Proof.Machine
end

section
/-! The walk through the model: every operation, then every command, keeps a law that the named updates keep. -/

namespace Sys2Proof.Machine.StepInvariant

variable {W : Prop} {P : State → Prop} (k : StepInvariant W P)
include k

/-! ## Bookkeeping -/

theorem withRx {s : State} (p : Port) (v : Option Reception) (h : P s) : P (s.withRx p v) :=
  k.quiet s _ _ _ _ _ _ _ _ _ h

theorem withTx {s : State} (p : Port) (v : Option Cell) (h : P s) : P (s.withTx p v) :=
  k.quiet s _ _ _ _ _ _ _ _ _ h

theorem withFlags {s : State} (p : Port) (v : SlotFlags) (h : P s) : P (s.withFlags p v) :=
  k.quiet s _ _ _ _ _ _ _ _ _ h

theorem withCounters {s : State} (p : Port) (v : Counters) (h : P s) : P (s.withCounters p v) :=
  k.quiet s _ _ _ _ _ _ _ _ _ h

theorem recordCapture {s : State} (n : Fin 128) (o : CaptureOutcome) (r : Round) (h : P s) : P (s.recordCapture n o r) :=
  k.quiet s _ _ _ _ _ _ _ _ _ h

theorem recordEmit {s : State} (n : Fin 128) (o : EmitOutcome) (r : Round) (h : P s) : P (s.recordEmit n o r) :=
  k.quiet s _ _ _ _ _ _ _ _ _ h

theorem chosen {s : State} (h : P s) : P { s with choice := s.choice + 1 } :=
  k.quiet s _ _ _ _ _ _ _ _ _ h

theorem load {s : State} (p : Port) (c : Cell) (h : P s) : P (s.load p c) :=
  k.withFlags _ _ (k.withTx _ _ h)

theorem raiseAll {s : State} (l : List (NoticeKind × Subject)) (h : P s) : P (s.raiseAll l) := by
  induction l generalizing s with
  | nil => exact h
  | cons x l ih => exact ih (k.raise _ _ _ h)

theorem either {f g : State → State} {s : State} (hfg : ∀ t, P t → P (g (f t))) (hgf : ∀ t, P t → P (f (g t)))
    (h : P s) : P (either f g s) := by
  rcases either_cases f g s with he | he <;> rw [he]
  · exact hfg _ (k.chosen h)
  · exact hgf _ (k.chosen h)

/-! ## Capture contexts -/

theorem placeArrived {s : State} (p : Port) (h : P s) : P (s.placeArrived p) := by
  unfold State.placeArrived
  split
  · exact h
  · split
    · split
      · exact k.setStore _ _ (storeWf_placeWords _ _ _ _ _) (k.chosen h)
      · exact h
    · exact h

theorem abandonWrite {s : State} (n : Fin 64) (p : Port) (hc : s.contexts.get p = none) (h : P s) :
    P (s.abandonWrite n p) := by
  unfold State.abandonWrite
  dsimp only
  split
  · exact k.closeMailbox s p n _ hc ‹_› (fun _ hm => hm) h
  · exact h

theorem dropContext {s : State} (p : Port) (h : P s) : P (s.dropContext p) := by
  have hclear : P ((s.placeArrived p).withContext p none) := k.clearContext _ _ (k.placeArrived p h)
  have hnone : ((s.placeArrived p).withContext p none).contexts.get p = none := by simp
  unfold State.dropContext
  split
  · exact h
  · dsimp only
    split
    · exact hclear
    · exact k.abandonWrite _ _ hnone hclear
    · exact k.abandonWrite _ _ hnone hclear
    · exact hclear
    · exact hclear

theorem closeContext {s : State} (p : Port) (h : P s) : P (s.closeContext p) := by
  unfold State.closeContext
  split
  · exact h
  · split
    · exact k.recordCapture _ _ _ (k.dropContext p h)
    · exact k.dropContext p h
    · exact k.dropContext p h

theorem contextOutcome {s : State} (c : CaptureContext) (o : CaptureOutcome) (h : P s) : P (s.contextOutcome c o) := by
  unfold State.contextOutcome
  split
  · exact k.recordCapture _ _ _ h
  · exact h
  · exact h

/-! ## The capture unit -/

theorem readActive {s : State} (ref : RecordRef) (h : P s) : P (s.readActive ref) := k.raiseAll _ h

theorem readCaptures {s : State} (h : P s) : P s.readCaptures := k.raiseAll _ h

theorem readEmits {s : State} (h : P s) : P s.readEmits := k.raiseAll _ h

theorem openCapture {s : State} (p : Port) (n : Fin 128) (r : Round) (t : CaptureTarget)
    (ht : W → t.InRange) (hfresh : ∀ m base capacity spoiled, t = .mailbox m base capacity spoiled → spoiled = []) (h : P s) :
    P (s.openCapture p n r t) := by
  unfold State.openCapture
  cases t with
  | queue m base capacity depth policy => exact k.holdCell _ _ _ _ _ _ _ _ _ ht h
  | mailbox m base capacity spoiled =>
    cases hfresh m base capacity spoiled rfl
    unfold State.openWrite
    dsimp only
    split
    · exact k.recordCapture _ _ _ h
    · exact k.openMailbox _ _ _ _ _ _ _ ‹_› ht h

omit k in
/-- The figures of a target come from a definition in range, and nothing of a write just opened is disturbed. -/
theorem targetFigures_inRange {s : State} {place : Place} {t : CaptureTarget} (h : s.targetFigures place = some t) :
    (s.active.InRange → t.InRange) ∧ ∀ m base capacity spoiled, t = .mailbox m base capacity spoiled → spoiled = [] := by
  cases place with
  | mailbox n =>
    simp only [State.targetFigures, Option.map_eq_some_iff] at h
    obtain ⟨d, hd, rfl⟩ := h
    refine ⟨fun ⟨hm, _⟩ => ?_, fun _ _ _ _ h => by cases h; rfl⟩
    have := hm n d (by rw [seen_eq_some.1 hd])
    simp only [MailboxDef.ok, Bool.and_eq_true, decide_eq_true_eq] at this
    exact this.2
  | queue n =>
    simp only [State.targetFigures, Option.map_eq_some_iff] at h
    obtain ⟨d, hd, rfl⟩ := h
    refine ⟨fun ⟨_, hq, _⟩ => ?_, fun _ _ _ _ h => by cases h⟩
    have := hq n d (by rw [seen_eq_some.1 hd])
    simp only [QueueDef.ok, Bool.and_eq_true, decide_eq_true_eq] at this
    exact ⟨this.1.1.1.2, this.1.2⟩

theorem captureMatched {s : State} (p : Port) (x : Header) (n : Fin 128) (e : CaptureEntry)
    (hW : W → s.active.InRange) (h : P s) : P (s.captureMatched p x n e) := by
  unfold State.captureMatched
  split
  · exact k.recordCapture _ _ _ h
  · rename_i t ht
    obtain ⟨hrange, hfresh⟩ := targetFigures_inRange ht
    split
    · exact k.recordCapture _ _ _ h
    · split
      · exact k.recordCapture _ _ _ h
      · exact k.openCapture _ _ _ _ (fun w => hrange (hW w)) hfresh h

theorem captureAtHeader {s : State} (p : Port) (x : Header) (hW : W → s.active.InRange) (h : P s) :
    P (s.captureAtHeader p x) := by
  unfold State.captureAtHeader
  dsimp only
  split
  · exact k.readCaptures h
  · refine k.captureMatched _ _ _ _ (fun w => ?_) (k.readActive _ (k.readCaptures h))
    rw [State.readActive, raiseAll_eq, State.readCaptures, raiseAll_eq]
    exact hW w

omit k in
theorem lawful_flip {m : MailboxRt} {length : Nat} {source : Station} {round : Round} {truncated : Bool}
    (h : length ≤ 12) : (m.flip length source round truncated).Lawful := by
  simp [MailboxRt.Lawful, MailboxRt.flip, h]

theorem closeCapture {s : State} (p : Port) (c : CaptureContext) (x : Header) (n : Fin 64) (base capacity : Nat)
    (spoiled : List Nat) (payload : List Word) (valid : Bool) (hcap : W → capacity ≤ 12)
    (hc : s.contexts.get p = none) (h : P s) :
    P (s.closeCapture p c x n base capacity spoiled payload valid) := by
  unfold State.closeCapture
  dsimp only
  split
  · have hplaced : P (s.placeWords s.mailboxes[n] base capacity spoiled payload) :=
      k.setStore _ _ (storeWf_placeWords _ _ _ _ _) h
    have hopen : (s.placeWords s.mailboxes[n] base capacity spoiled payload).mailboxes[n].openWrite = some p := ‹_›
    split
    · refine k.contextOutcome _ _ (k.closeMailbox _ p n _ hc hopen (fun w _ => lawful_flip ?_) hplaced)
      exact (Nat.min_le_right _ _).trans (hcap w)
    · exact k.contextOutcome _ _ (k.closeMailbox _ p n _ hc hopen (fun _ hm => hm) hplaced)
  · exact h

omit k in
theorem lawful_removeHead {q : QueueRt} (depth : Nat) (h : q.Lawful) : (q.removeHead depth).Lawful := by
  obtain ⟨-, -, hlen, -, hwords⟩ := h
  refine ⟨fun _ => ⟨rfl, rfl, rfl⟩, fun h => (by cases h), ?_, Nat.zero_le _, fun e he => hwords e (List.mem_of_mem_tail he)⟩
  simp only [QueueRt.removeHead, List.length_tail]
  omega

omit k in
theorem lawful_append {q : QueueRt} {e : QueueEntry} (hlen : q.entries.length < 32) (he : e.length ≤ 12) (h : q.Lawful) :
    { q with entries := q.entries ++ [e] }.Lawful := by
  obtain ⟨-, hdrained, -, hattempts, hwords⟩ := h
  refine ⟨fun h => by simp at h, hdrained, by simp; omega, hattempts, fun x hx => ?_⟩
  rcases List.mem_append.1 hx with hx | hx
  · exact hwords x hx
  · rw [List.mem_singleton.1 hx]; exact he

omit k in
/-- An entry put into a queue that has just been set. -/
theorem putEntry_withQueue (s : State) (n : Fin 8) (q : QueueRt) (base capacity depth : Nat) (e : QueueEntry)
    (ws : List Word) : (s.withQueue n q).putEntry n base capacity depth e ws =
      (s.withStore (storeWriteAll (ringBase base capacity depth q.headPos q.entries.length) (ws.take capacity) s.store)).withQueue
        n { q with entries := q.entries ++ [e] } := by
  simp [State.putEntry, State.withQueue, State.withStore]

omit k in
theorem putEntry_eq (s : State) (n : Fin 8) (base capacity depth : Nat) (e : QueueEntry) (ws : List Word) :
    s.putEntry n base capacity depth e ws =
      (s.withStore (storeWriteAll (ringBase base capacity depth s.queues[n].headPos s.queues[n].entries.length)
        (ws.take capacity) s.store)).withQueue n { s.queues[n] with entries := s.queues[n].entries ++ [e] } := rfl

theorem append {s : State} (n : Fin 8) (base capacity depth : Nat) (policy : FullPolicy) (e : QueueEntry)
    (ws : List Word) (hdepth : W → depth ≤ 32) (he : W → e.length ≤ 12) (h : P s) :
    P (s.append n base capacity depth policy e ws).1 := by
  unfold State.append
  dsimp only
  split
  · rw [putEntry_eq]
    refine k.setQueue _ _ _ (fun w hq => lawful_append ?_ (he w) hq) (k.setStore _ _ storeWf_storeWriteAll h)
    exact Nat.lt_of_lt_of_le ‹_› (hdepth w)
  · split
    · exact k.raise _ _ _ h
    · rw [putEntry_withQueue]
      refine k.raise _ _ _ (k.setQueue _ _ _ (fun w hq => lawful_append ?_ (he w) (lawful_removeHead depth hq))
        (k.setStore _ _ storeWf_storeWriteAll h))
      obtain ⟨-, -, hlen, -⟩ := hq
      have : s.queues[n].entries.length ≤ 32 := hlen
      simp only [QueueRt.removeHead, List.length_tail]
      omega

theorem appendCapture {s : State} (c : CaptureContext) (x : Header) (n : Fin 8) (base capacity depth : Nat)
    (policy : FullPolicy) (payload : List Word) (valid : Bool) (hrange : W → capacity ≤ 12 ∧ depth ≤ 32) (h : P s) :
    P (s.appendCapture c x n base capacity depth policy payload valid) := by
  unfold State.appendCapture
  split
  · refine k.contextOutcome _ _ (k.append _ _ _ _ _ _ _ (fun w => (hrange w).2) (fun w => ?_) h)
    exact (Nat.min_le_right _ _).trans (hrange w).1
  · exact k.contextOutcome _ _ h

theorem captureComplete {s : State} (p : Port) (x : Header) (payload : List Word) (valid : Bool) (h : P s) :
    P (s.captureComplete p x payload valid) := by
  unfold State.captureComplete
  split
  · exact h
  · rename_i c hc
    have hrange : W → c.target.InRange := fun w => k.contextRange w s p c h hc
    have hclear : P (s.withContext p none) := k.clearContext _ _ h
    have hnone : (s.withContext p none).contexts.get p = none := by simp
    dsimp only
    split
    · exact hclear
    all_goals rename_i ht; rw [ht] at hrange
    · exact k.closeCapture _ _ _ _ _ _ _ _ _ hrange hnone hclear
    · exact k.closeCapture _ _ _ _ _ _ _ _ _ hrange hnone hclear
    · exact k.appendCapture _ _ _ _ _ _ _ _ _ hrange hclear
    · exact k.appendCapture _ _ _ _ _ _ _ _ _ hrange hclear

theorem captureEmpty {s : State} (p : Port) (slot : Nat) (r : Round) (h : P s) : P (s.captureEmpty p slot r) := by
  unfold State.captureEmpty
  dsimp only
  split
  · exact k.readCaptures h
  · exact k.recordCapture _ _ _ (k.readCaptures h)

/-! ## The emit unit -/

theorem sendVoid {s : State} (p : Port) (slot : Nat) (r : Round) (n : Fin 128) (o : EmitOutcome) (h : P s) :
    P (s.sendVoid p slot r n o) :=
  k.setEmit _ _ _ (fun _ => trivial) (k.load _ _ h)

theorem applyOnEmpty {s : State} (p : Port) (slot : Nat) (r : Round) (n : Fin 128) (e : EmitEntry) (o o' : EmitOutcome)
    (h : P s) : P (s.applyOnEmpty p slot r n e o o') := by
  unfold State.applyOnEmpty
  split
  · exact k.sendVoid _ _ _ _ _ h
  · exact k.recordEmit _ _ _ h

omit k in
/-- A mailbox whose payload a failed word has spoiled is not EMPTY: it keeps a value when it becomes FAULTED. -/
theorem lawful_faulted {s : State} {n : Fin 64} {d : MailboxDef} (hbad : s.mailboxPayload n d = none)
    (h : s.mailboxes[n].Lawful) : { s.mailboxes[n] with state := .faulted }.Lawful := by
  obtain ⟨hempty, hvalue, hlen⟩ := h
  refine ⟨fun h => (by cases h), fun _ => hvalue fun hstate => ?_, hlen⟩
  obtain ⟨i, hi, -⟩ := readWords_eq_none.1 hbad
  have := (hempty hstate).1
  omega

theorem faultMailbox {s : State} {n : Fin 64} {d : MailboxDef} (hbad : s.mailboxPayload n d = none) (h : P s) :
    P (s.faultMailbox n) :=
  k.raise _ _ _ (k.setMailbox _ _ _ (fun _ => lawful_faulted hbad) rfl h)

theorem emitCopy {s : State} (p : Port) (slot : Nat) (r : Round) (n : Fin 128) (e : EmitEntry) (m : Fin 64)
    (d : MailboxDef) (stale : Bool) (o : EmitOutcome) (h : P s) : P (s.emitCopy p slot r n e m d stale o) := by
  unfold State.emitCopy
  dsimp only
  split
  · exact k.setEmit _ _ _ (fun _ => trivial) (k.load _ _ h)
  · exact k.applyOnEmpty _ _ _ _ _ _ _ (k.faultMailbox ‹_› h)

theorem emitMailbox {s : State} (p : Port) (slot : Nat) (r : Round) (n : Fin 128) (e : EmitEntry) (m : Fin 64)
    (d : MailboxDef) (h : P s) : P (s.emitMailbox p slot r n e m d) := by
  unfold State.emitMailbox
  split
  · exact k.emitCopy _ _ _ _ _ _ _ _ _ h
  · exact k.emitCopy _ _ _ _ _ _ _ _ _ h
  · exact k.sendVoid _ _ _ _ _ h
  · exact k.recordEmit _ _ _ h
  · exact k.applyOnEmpty _ _ _ _ _ _ _ h
  · exact k.applyOnEmpty _ _ _ _ _ _ _ h
  · exact k.applyOnEmpty _ _ _ _ _ _ _ h

omit k in
theorem lawful_held {q : QueueRt} {p : Port} (hne : q.entries ≠ []) (h : q.Lawful) :
    { q with headInFlight := some p }.Lawful := by
  obtain ⟨-, -, hrest⟩ := h
  exact ⟨fun h => absurd h hne, fun _ => rfl, hrest⟩

theorem selectHead {s : State} (n : Fin 8) (d : QueueDef) (p : Port) (h : P s) : P (s.selectHead n d p).1 := by
  unfold State.selectHead
  dsimp only
  split
  · exact h
  · exact h
  · rename_i hentries _
    split
    · exact k.setQueue _ _ _ (fun _ => lawful_held (by rw [hentries]; exact List.cons_ne_nil _ _)) h
    · exact k.raise _ _ _ (k.setQueue _ _ _ (fun _ => lawful_removeHead _) h)

theorem emitQueue {s : State} (p : Port) (slot : Nat) (r : Round) (n : Fin 128) (e : EmitEntry) (m : Fin 8)
    (d : QueueDef) (hd : W → d.retryLimit ≤ 7) (h : P s) : P (s.emitQueue p slot r n e m d) := by
  have hsel := k.selectHead m d p h
  unfold State.emitQueue
  split <;> rename_i hs <;> rw [hs] at hsel
  · exact k.setEmit _ _ _ hd (k.load _ _ hsel)
  · exact k.applyOnEmpty _ _ _ _ _ _ _ hsel
  · exact k.applyOnEmpty _ _ _ _ _ _ _ hsel

theorem serveDataSlot {s : State} (p : Port) (slot : Nat) (r : Round) (hW : W → s.active.InRange) (h : P s) :
    P (s.serveDataSlot p slot r) := by
  unfold State.serveDataSlot
  dsimp only
  split
  · exact k.readEmits h
  · rename_i n e _
    have hread : P (s.readEmits.readActive e.source.ref) := k.readActive _ (k.readEmits h)
    split
    · split
      · exact k.emitMailbox _ _ _ _ _ _ _ hread
      · exact k.applyOnEmpty _ _ _ _ _ _ _ hread
    · rename_i m _
      split
      · rename_i d hd
        refine k.emitQueue _ _ _ _ _ _ _ (fun w => ?_) hread
        obtain ⟨-, hq, -⟩ := hW w
        have := hq m d (by rw [seen_eq_some.1 hd])
        simp only [QueueDef.ok, Bool.and_eq_true, decide_eq_true_eq] at this
        exact this.2
      · exact k.applyOnEmpty _ _ _ _ _ _ _ hread

theorem mailboxEnd {s : State} (n : Fin 64) (tag : BitVec 8) (mode : ReadMode) (e : TxEnd) (h : P s) :
    P (s.mailboxEnd n tag mode e) := by
  unfold State.mailboxEnd
  dsimp only
  split
  · rename_i hcond
    refine k.setMailbox _ _ _ (fun _ hm => ?_) rfl h
    obtain ⟨-, hvalue, hlen⟩ := hm
    refine ⟨fun h => (by cases h), fun _ => hvalue fun hstate => ?_, hlen⟩
    simp [-Fin.getElem_fin, hstate] at hcond
  · exact h

theorem queueEnd {s : State} (n : Fin 8) (depth limit : Nat) (p : Port) (e : TxEnd) (hlimit : W → limit ≤ 7) (h : P s) :
    P (s.queueEnd n depth limit p e) := by
  unfold State.queueEnd
  dsimp only
  split
  · rename_i hhead
    have hremoved : P (s.withQueue n (s.queues[n].removeHead depth)) :=
      k.setQueue _ _ _ (fun _ => lawful_removeHead _) h
    have hne : s.queues[n].Lawful → s.queues[n].entries ≠ [] := fun hq hnil => by
      cases hhead.symm.trans (hq.1 hnil).1
    split
    · exact hremoved
    · split
      · exact k.raise _ _ _ hremoved
      · rename_i hkeep
        simp only [Bool.or_eq_true, decide_eq_true_eq, not_or] at hkeep
        refine k.setQueue _ _ _ (fun w hq => ⟨fun hnil => absurd hnil (hne hq), fun hd => absurd hd hkeep.1, ?_⟩) h
        obtain ⟨-, -, hlen, -, hwords⟩ := hq
        have := hlimit w
        exact ⟨hlen, by dsimp only; omega, hwords⟩
    · split
      · exact hremoved
      · refine k.setQueue _ _ _ (fun w hq => ⟨fun hnil => absurd hnil (hne hq), fun hd => absurd hd ‹_›, hq.2.2⟩) h
  · exact h

theorem sourceEnd {s : State} (p : Port) (x : SourceEffect) (e : TxEnd) (hx : W → x.InRange) (h : P s) :
    P (s.sourceEnd p x e) := by
  unfold State.sourceEnd
  split
  · exact k.mailboxEnd _ _ _ _ h
  · exact k.queueEnd _ _ _ _ _ hx h
  · exact h

theorem emitEnd {s : State} (p : Port) (e : TxEnd) (h : P s) : P (s.emitEnd p e) := by
  unfold State.emitEnd
  split
  · exact h
  · rename_i x hx
    have hrange : W → x.effect.InRange := fun w => k.effectRange w s p x h hx
    have hclear : P (s.withEmitRecord p none) := k.clearEmit _ _ h
    dsimp only
    split
    · exact hclear
    · exact k.sourceEnd _ _ _ hrange hclear
    · split
      · exact k.either (fun _ ht => k.sourceEnd _ _ _ hrange (k.raise _ _ _ ht))
          (fun _ ht => k.raise _ _ _ (k.sourceEnd _ _ _ hrange ht)) (k.recordEmit _ _ _ hclear)
      · exact k.sourceEnd _ _ _ hrange (k.recordEmit _ _ _ hclear)

theorem finishTx {s : State} (p : Port) (e : TxEnd) (h : P s) : P (s.finishTx p e) := by
  unfold State.finishTx
  split
  · exact h
  · have hcount : P (if e = .disturbed then (s.withTx p none).count p Counters.countDisturbed else s.withTx p none) := by
      split
      · exact k.withCounters _ _ (k.withTx _ _ h)
      · exact k.withTx _ _ h
    dsimp only
    split
    · exact k.emitEnd _ _ hcount
    · exact k.emitEnd _ _ hcount
    all_goals exact hcount

/-! ## L round starts -/

theorem ageMailboxes {s : State} (h : P s) : P s.ageMailboxes := k.raiseAll _ (k.ageAll _ h)

omit k in
/-- The deferred response and the notice unit are apart. -/
theorem giveDeferred_withNotices (s : State) (u : NoticeUnit) (status : Status) (results : List Word) :
    (s.withNotices u).giveDeferred status results = (s.giveDeferred status results).withNotices u := by
  unfold State.giveDeferred
  have houtstanding : (s.withNotices u).outstandingParty = s.outstandingParty := rfl
  rw [houtstanding]
  split
  · rfl
  · simp only [enqueue_frame, State.portRunning_withNotices]
    split <;> rfl

omit k in
theorem giveDeferred_raiseAll (s : State) (l : List (NoticeKind × Subject)) (status : Status) (results : List Word) :
    (s.raiseAll l).giveDeferred status results = (s.giveDeferred status results).raiseAll l := by
  obtain ⟨ps, rs, hframe⟩ := giveDeferred_frame s status results
  rw [raiseAll_eq s, raiseAll_eq (s.giveDeferred status results)]
  refine (giveDeferred_withNotices s _ status results).trans ?_
  rw [hframe]
  rfl

omit k in
/-- The end of a check and a raise come in either order. -/
theorem abandonCheck_raise (s : State) (kind : NoticeKind) (j : Subject) :
    (s.raise kind j).abandonCheck = s.abandonCheck.raise kind j := by
  have hcheck : (s.raise kind j).checkState = s.checkState := rfl
  unfold State.abandonCheck
  rw [hcheck]
  split
  · exact giveDeferred_raiseAll (s.withCheck .unchecked) [(kind, j)] _ _
  all_goals rfl

theorem judgeClaim {s : State} (h : P s) : P s.judgeClaim := by
  unfold State.judgeClaim
  split
  · split
    · rw [abandonCheck_raise]
      exact k.raise _ _ _ (k.endClaim _ h)
    · exact h
  · exact h

theorem cutWrite {s : State} (old new : Bank) (p : Port) (h : P s) : P (s.cutWrite old new p) := by
  unfold State.cutWrite
  split
  · exact h
  · split
    · exact h
    · exact k.placeArrived _ h

theorem swapIfPending {s : State} (h : P s) : P s.swapIfPending := by
  rcases swapIfPending_cases s with ⟨hpending, he⟩ | ⟨-, he⟩ <;> rw [he]
  · exact k.carryOver _ _ _ (k.cutWrite _ _ _ (k.cutWrite _ _ _ (k.raiseAll _ (k.raise _ _ _ (k.exchange _ hpending h)))))
  · exact h

theorem work {s : State} (w : RoundWork) (h : P s) : P (w.run s) := by
  cases w with
  | aging => exact k.ageMailboxes h
  | agent => exact k.judgeClaim (k.countIdle _ h)
  | swap => exact k.swapIfPending h

theorem deliverLRound {s : State} (h : P s) : P s.deliverLRound := by
  have hwork : ∀ (l : List RoundWork) (s : State), P s → P (l.foldl (fun s w => w.run s) s) := by
    intro l
    induction l with
    | nil => exact fun _ h => h
    | cons w l ih => exact fun s h => ih _ (k.work w h)
  exact k.countDown _ (hwork _ _ (k.chosen h))

theorem untiedRound {s : State} (h : P s) : P s.untiedRound :=
  k.deliverLRound (k.withFlags _ _ (k.lUntied _ _ h))

theorem takeAlignment {s : State} (a : Alignment) (ht : s.tyingOrTied = true) (h : P s) : P (s.takeAlignment a) := by
  have hbegun : P (s.beginLRound .tied a.round) := k.withFlags _ _ (k.lTied _ _ ht h)
  unfold State.takeAlignment
  dsimp only
  split
  · exact k.either (fun _ h => k.deliverLRound (k.raise _ _ _ h)) (fun _ h => k.raise _ _ _ (k.deliverLRound h)) hbegun
  · exact k.deliverLRound hbegun

theorem takeLRound {s : State} (due : Bool) (h : P s) : P (s.takeLRound due) := by
  unfold State.takeLRound
  split
  · rename_i f hf
    split
    · unfold State.nextLRound at hf
      split at hf
      · cases hf
      · split at hf <;> cases hf
        · exact k.untiedRound h
        · exact k.takeAlignment _ (by simp [State.tyingOrTied, *]) h
        · exact k.takeAlignment _ (by simp [State.tyingOrTied, *]) h
    · exact h
  · exact h

theorem alignmentFallsDue {s : State} (a : Alignment) (ht : s.tyingOrTied = true) (h : P s) :
    P (s.alignmentFallsDue a) := by
  unfold State.alignmentFallsDue
  split
  · exact k.takeAlignment _ ht h
  · split
    · exact k.lPending _ _ ht h
    · exact k.lPending _ _ ht h

/-! ## The end of a check -/

theorem checkEnds {s : State} {p : PartyId} {f : CheckFigures} {rb : List RecordRef}
    (hc : s.checkState = .checking p f rb) (h : P s) : P (s.checkEnds (s.staged.check f rb)) := by
  unfold State.checkEnds
  split
  · exact k.finishCheck _ _ _ _ _ _ _ hc (fun _ => ‹_›) (.inl rfl) h
  · rw [giveDeferred_raiseAll]
    exact k.raiseAll _ (k.finishCheck _ _ _ _ _ _ _ hc (fun h => by cases h) (.inr ⟨_, _, rfl⟩) h)

/-! ## Link starts, restarts and lapses -/

theorem bridgeRestart {s : State} (h : P s) : P s.bridgeRestart := by
  have hplaced : P ((s.placeArrived .u).placeArrived .l) := k.placeArrived _ (k.placeArrived _ h)
  have hrestart := k.restart s ((s.placeArrived .u).placeArrived .l).store ((s.placeArrived .u).placeArrived .l).choice
    (fun hs => storeWf_placeArrived _ (storeWf_placeArrived _ hs)) h
  exact hrestart

theorem flush {s : State} (p : Port) (h : P s) : P (s.flush p) := k.shorten _ _ _ (Nat.zero_le _) h

omit k in
/-- R32, R48: LOCK_LOST and the untying of port L, in either order, are the untied record and then one or two raises. -/
theorem lockLost_untie (s : State) : ∃ l,
    Machine.either (·.raise .lockLost .none) State.untie s =
      { s with choice := s.choice + 1, lTime := s.lTime.untied }.raiseAll l ∧
    (s.lTime.state ≠ .tied → l = [(.lockLost, .none)]) ∧
    (s.lTime.state = .tied → l = [(.lockLost, .none), (.tieLost, .none)] ∨ l = [(.tieLost, .none), (.lockLost, .none)]) := by
  have hround : ∀ u c, ({ s with lTime := s.lTime.untied, choice := c, notices := u } : State).raiseRound = s.raiseRound :=
    fun u c => raiseRound_untied s
  rcases either_cases (·.raise .lockLost .none) State.untie s with he | he <;> rw [he] <;>
    by_cases ht : s.lTime.state = .tied
  · refine ⟨_, ?_, fun h => absurd ht h, fun _ => .inl rfl⟩
    simp only [untie_eq, State.untieNotices, raise_eq, raiseAll_eq, ht, if_true, hround]
    rfl
  · refine ⟨_, ?_, fun _ => rfl, fun h => absurd h ht⟩
    simp only [untie_eq, State.untieNotices, raise_eq, raiseAll_eq, ht, if_false, hround]
    rfl
  · refine ⟨_, ?_, fun h => absurd ht h, fun _ => .inr rfl⟩
    simp only [untie_eq, State.untieNotices, raise_eq, raiseAll_eq, ht, if_true, hround]
    rfl
  · refine ⟨_, ?_, fun _ => rfl, fun h => absurd h ht⟩
    simp only [untie_eq, State.untieNotices, raise_eq, raiseAll_eq, ht, if_false, hround]
    rfl

theorem leaves {s : State} (v : UplinkRecord) (hstate : v.state = .seek ∨ v.state = .off) (hround : v.round = none)
    (hslot : v.slot = none) (h : P s) : P (Machine.either (·.raise .lockLost .none) State.untie (s.withUTime v)) := by
  obtain ⟨l, he, -⟩ := lockLost_untie (s.withUTime v)
  rw [he]
  exact k.raiseAll _ (k.chosen (k.uLeave s v hstate hround hslot h))

omit k in
@[simp] theorem atStart_state (b : Bool) : (UplinkRecord.atStart b).state = .seek ∨ (UplinkRecord.atStart b).state = .off := by
  cases b
  · exact .inr rfl
  · exact .inl rfl

theorem startLinkU {s : State} (h : P s) : P s.startLinkU := by
  have h1 : P ((((s.closeContext .u).withRx .u none).finishTx .u .aborted).flush .u) :=
    k.flush _ (k.finishTx _ _ (k.withRx _ _ (k.closeContext _ h)))
  have hlocked : ((((s.closeContext .u).withRx .u none).finishTx .u .aborted).flush .u).locked = s.locked := by
    obtain ⟨st, c, ms, co, hclosed⟩ := closeContext_frame s .u
    obtain ⟨ms', qs, u, eo, c', er, cs, hfinished⟩ := finishTx_frame ((s.closeContext .u).withRx .u none) .u .aborted
    rw [hfinished, hclosed]
    rfl
  have h2 := k.withFlags .u .clear (k.adoptU _ h1)
  unfold State.startLinkU
  dsimp only
  split
  · exact k.leaves _ (atStart_state _) rfl rfl h2
  · refine k.uSeek _ _ ?_ (atStart_state _) rfl rfl h2
    exact hlocked.trans (Bool.eq_false_of_not_eq_true ‹_›)

theorem leaveLocked {s : State} (h : P s) : P s.leaveLocked := by
  have h1 : P (((s.finishTx .u .aborted).closeContext .u).flush .u) :=
    k.flush _ (k.closeContext _ (k.finishTx _ _ h))
  exact k.leaves _ (.inl rfl) rfl rfl (k.withFlags .u .clear h1)

theorem startLTime {s : State} (h : P s) : P s.startLTime := by
  unfold State.startLTime
  split
  · refine k.withFlags _ _ ?_
    split
    · rename_i hl
      exact k.lTying _ _ (by simp_all) h
    · exact k.lUntied _ _ h
  · exact k.lOff _ h

theorem deliverRoundZero {s : State} (h : P s) : P s.deliverRoundZero := by
  unfold State.deliverRoundZero
  split
  · exact k.deliverLRound h
  · exact h

theorem startLinkL {s : State} (h : P s) : P s.startLinkL := by
  have h1 : P ((((s.closeContext .l).withRx .l none).finishTx .l .aborted).flush .l) :=
    k.flush _ (k.finishTx _ _ (k.withRx _ _ (k.closeContext _ h)))
  have h2 := k.withFlags .l .clear (k.adoptL _ h1)
  unfold State.startLinkL
  dsimp only
  split
  · split
    · exact k.deliverRoundZero (k.startLTime (k.raise _ _ _ (k.chosen h2)))
    · exact k.either (fun _ h => k.deliverRoundZero (k.raise _ _ _ h)) (fun _ h => k.raise _ _ _ (k.deliverRoundZero h))
        (k.startLTime (k.chosen h2))
  · exact k.deliverRoundZero (k.startLTime h2)

theorem startLink {s : State} (p : Port) (h : P s) : P (s.startLink p) := by
  cases p with
  | u => exact k.startLinkU h
  | l => exact k.startLinkL h

theorem startLinkAgain {s : State} (p : Port) (h : P s) : P (s.startLinkAgain p) := by
  cases p with
  | u => exact k.startLinkU h
  | l => exact k.deliverRoundZero (k.startLTime h)

theorem linkStart {s : State} (p : Port) (h : P s) : P (s.linkStart p) := by
  unfold State.linkStart
  split
  · exact k.bridgeRestart h
  · split
    · exact k.startLinkAgain _ (k.startLink _ h)
    · exact k.startLink _ h

theorem actOnMark {s : State} (m : Option RestartMark) (h : P s) : P (s.actOnMark m) := by
  unfold State.actOnMark
  split
  · exact h
  · exact k.bridgeRestart h
  · exact k.linkStart _ h

theorem lapse {s : State} (h : P s) : P s.lapse := by
  unfold State.lapse
  split
  · exact k.bridgeRestart h
  · split
    · exact k.startLinkU (k.leaveLocked h)
    · exact k.leaveLocked h

theorem transmissionEnd {s : State} (p : Port) (e : TxEnd) (h : P s) : P (s.transmissionEnd p e) := by
  unfold State.transmissionEnd
  split
  · exact h
  · dsimp only
    split
    · refine k.actOnMark _ (k.shorten _ _ _ ?_ (k.finishTx _ _ h))
      simp
    · exact k.finishTx _ _ h

/-! ## Slots -/

theorem serveResponseSlot {s : State} (p : Port) (slot : Nat) (r : Round) (h : P s) :
    P (s.serveResponseSlot p slot r) := by
  unfold State.serveResponseSlot
  split
  · exact k.load _ _ h
  · split
    · split
      · exact k.load _ _ (k.markSent _ _ h)
      · exact h
    · exact h

theorem serveSlot {s : State} (p : Port) (slot : Nat) (r : Round) (hW : W → s.active.InRange) (h : P s) :
    P (s.serveSlot p slot r) := by
  unfold State.serveSlot
  split
  · exact k.load _ _ h
  · split
    · exact h
    · split
      · exact k.serveResponseSlot _ _ _ h
      · split
        · exact k.serveDataSlot _ _ _ hW h
        · exact h

theorem enterSlot {s : State} (p : Port) (slot : Nat) (hmay : s.slotMayStart p = true) (h : P s) :
    P (s.enterSlot p slot) := by
  cases p with
  | u =>
    refine k.withFlags _ _ (k.uSlot _ _ ?_ rfl rfl h)
    simp only [State.slotMayStart, Bool.and_eq_true] at hmay
    exact hmay.1.1
  | l =>
    refine k.withFlags _ _ (k.lSlot _ _ _ ?_ h)
    simp only [State.slotMayStart, Bool.and_eq_true] at hmay
    exact hmay.1.1.1

theorem slotStarts {s : State} (p : Port) (hW : W → s.active.InRange) (hmay : s.slotMayStart p = true) (h : P s) :
    P (s.slotStarts p) := by
  refine k.serveSlot _ _ _ ?_ (k.enterSlot _ _ hmay h)
  cases p <;> exact hW

theorem slotPassedEmpty {s : State} (p : Port) (h : P s) : P (s.slotPassedEmpty p) := by
  unfold State.slotPassedEmpty
  split
  · split
    · exact k.captureEmpty _ _ _ h
    · exact h
  · exact h
  · exact h

theorem leaveSlot {s : State} (p : Port) (h : P s) : P (s.leaveSlot p) := by
  cases p with
  | u => exact k.withFlags _ _ (k.uTally _ _ rfl rfl (.inr rfl) h)
  | l => exact k.withFlags _ _ (k.lSlotEnds _ h)

theorem roundEnds {s : State} (hslot : s.lTime.slot = none) (h : P s) : P s.lRoundEnds := by
  unfold State.lRoundEnds
  have hidle := k.lRoundEnds s hslot h
  dsimp only
  split
  · split
    · rename_i hheld
      simp only [Bool.and_eq_true] at hheld
      exact k.takeAlignment _ hheld.2 hidle
    · exact hidle
  · exact hidle

theorem slotEnds {s : State} (p : Port) (h : P s) : P (s.slotEnds p) := by
  have hleft : P ((s.slotPassedEmpty p).leaveSlot p) := k.leaveSlot _ (k.slotPassedEmpty _ h)
  unfold State.slotEnds
  dsimp only
  split
  · rename_i hl
    simp only [Bool.and_eq_true, decide_eq_true_eq] at hl
    obtain ⟨rfl, -⟩ := hl
    exact k.roundEnds rfl hleft
  · exact hleft

/-! ## The uplink timing -/

theorem seekAgain {s : State} (hs : s.locked = false) (h : P s) : P s.seekAgain :=
  k.withFlags _ _ (k.uSeek _ _ hs (.inl rfl) rfl rfl h)

theorem classified {s : State} (consistent : Bool) (a : Station) (h : P s) : P (s.classified consistent a) := by
  unfold State.classified
  split <;> rename_i hs
  · split
    · exact k.uTally _ _ rfl rfl (.inl rfl) h
    · exact k.seekAgain (by simp [State.locked, hs]) h
  · split
    · exact k.uTally _ _ rfl rfl (.inl rfl) h
    · exact k.seekAgain (by simp [State.locked, hs]) h
  · split
    · exact k.uTally _ _ rfl rfl (.inl rfl) h
    · exact k.uTally _ _ rfl rfl (.inl rfl) h
  · exact h
  · exact h

theorem uplinkBeacon {s : State} (r : Reception) (payload : List Word) (h : P s) : P (s.uplinkBeacon r payload) := by
  unfold State.uplinkBeacon
  split
  · split
    · rename_i hs
      split
      · exact k.withFlags _ _ (k.uRuns _ _ (.inl rfl) rfl (fun hl => by simp [State.locked, hs] at hl) h)
      · exact h
    · exact k.classified _ _ h
  · exact h

theorem deliverURound {s : State} (n : Round) (hs : s.locked = true) (h : P s) : P (s.deliverURound n) := by
  unfold State.deliverURound
  dsimp only
  split
  · rename_i hl
    simp only [Bool.and_eq_true, decide_eq_true_eq] at hl
    have htying := k.lBeginsTying _ hs hl.1 h
    exact k.lPending _ _ rfl htying
  · split
    · exact k.lPending _ _ ‹_› h
    · exact h

theorem beginURound {s : State} (v : UplinkRecord) (st : UState)
    (hst : st = .align ∨ st = .confirm ∨ st = .locked) (hl : s.locked = true → st = .locked) (h : P s) :
    P ((s.withUTime v).beginURound st) := k.uRuns s _ hst rfl hl h

theorem alignRound {s : State} (hs : s.uTime.state = .align) (h : P s) : P s.alignRound := by
  have hunlocked : s.locked = false := by simp [State.locked, hs]
  have himpossible : ∀ st : UState, s.locked = true → st = .locked := fun _ hl => by simp [hunlocked] at hl
  unfold State.alignRound
  split
  · exact k.beginURound _ _ (by simp) (himpossible _) h
  · split
    · exact k.beginURound _ _ (by simp) (himpossible _) h
    · exact k.seekAgain hunlocked h

theorem confirmRound {s : State} (hs : s.uTime.state = .confirm) (h : P s) : P s.confirmRound := by
  unfold State.confirmRound
  split
  · refine k.deliverURound _ ?_ (k.raise _ _ _ (k.beginURound _ _ (by simp) (fun _ => rfl) h))
    rfl
  · exact k.seekAgain (by simp [State.locked, hs]) h

theorem lockedRound {s : State} (h : P s) : P s.lockedRound := by
  unfold State.lockedRound
  split
  · exact k.lapse (k.uTally _ _ rfl rfl (.inl rfl) h)
  · refine k.deliverURound _ ?_ (k.beginURound _ _ (by simp) (fun _ => rfl) h)
    rfl

theorem uRound {s : State} (h : P s) : P s.uRound := by
  unfold State.uRound
  split
  · exact k.alignRound ‹_› h
  · exact k.confirmRound ‹_› h
  · exact k.lockedRound h
  · exact h
  · exact h

end Sys2Proof.Machine.StepInvariant
end

section
/-! The walk through the requests and, at its end, through every command. -/

set_option Elab.async false

namespace Sys2Proof.Machine

/-- What the judgement of a request of the party `id` leaves of a law: the law, or the state from which its answer
completes the one update that keeps it. -/
def AnswerKeeps (P : State → Prop) (id : PartyId) (s : State) : State × Answer → Prop
  | (t, .now _ _ _ false) => P t
  | (t, .now _ _ _ true) => t = s.withClaim none
  | (t, .deferred) => t = s.withCheck (.checking id s.figures []) ∧ s.frozen = false ∧ s.claim = some id
  | (t, .gone) => P t

/-! ## Records written -/

theorem inRange_empty : Bank.empty.InRange := by
  simp [Bank.InRange, Bank.empty, Stored.undefined]

/-- A record replaced by one whose fields, if it has any, are in range. -/
theorem stored_set {α : Type} {k : Nat} {ok : α → Bool} {v : Vector (Stored α) k} (h : ∀ n : Fin k, ∀ d, v[n].fields = some d → ok d)
    (m : Fin k) {x : Stored α} (hx : ∀ d, x.fields = some d → ok d) :
    ∀ n : Fin k, ∀ d, (v.set m.val x)[n].fields = some d → ok d := by
  intro n d hd
  rw [Fin.getElem_fin, Vector.getElem_set] at hd
  split at hd
  · exact hx d hd
  · exact h n d hd

theorem inRange_eraseRecord {b : Bank} (h : b.InRange) (ref : RecordRef) : (b.eraseRecord ref).InRange := by
  obtain ⟨hm, hq, hc, he⟩ := h
  cases ref with
  | mailbox n => exact ⟨stored_set hm n (fun _ h => by cases h), hq, hc, he⟩
  | queue n => exact ⟨hm, stored_set hq n (fun _ h => by cases h), hc, he⟩
  | capture n => exact ⟨hm, hq, stored_set hc n (fun _ h => by cases h), he⟩
  | emit n => exact ⟨hm, hq, hc, stored_set he n (fun _ h => by cases h)⟩

theorem parseMailboxDef_ok {w : Word} {d : MailboxDef} (h : parseMailboxDef w = some d) : d.ok = true := by
  simp only [parseMailboxDef, Option.ite_none_right_eq_some, Option.some.injEq] at h
  obtain ⟨hok, rfl⟩ := h
  exact hok

theorem parseQueueDef_ok {w : Word} {d : QueueDef} (h : parseQueueDef w = some d) : d.ok = true := by
  simp only [parseQueueDef, Option.ite_none_right_eq_some, Option.some.injEq] at h
  obtain ⟨hok, rfl⟩ := h
  exact hok

theorem parseCaptureEntry_ok {w0 w1 : Word} {e : CaptureEntry} (h : parseCaptureEntry w0 w1 = some e) : e.ok = true := by
  simp only [parseCaptureEntry] at h
  split at h
  · simp only [Option.ite_none_right_eq_some, Option.some.injEq] at h
    obtain ⟨hok, rfl⟩ := h
    exact hok
  · cases h

theorem parseEmitEntry_ok {w0 w1 : Word} {e : EmitEntry} (h : parseEmitEntry w0 w1 = some e) : e.ok = true := by
  simp only [parseEmitEntry] at h
  split at h
  · simp only [Option.ite_none_right_eq_some, Option.some.injEq] at h
    obtain ⟨hok, rfl⟩ := h
    exact hok
  · cases h

theorem inRange_writeRecord {b b' : Bank} (h : b.InRange) {ref : RecordRef} {w0 w1 : Word}
    (hw : b.writeRecord ref w0 w1 = some b') : b'.InRange := by
  obtain ⟨hm, hq, hc, he⟩ := h
  cases ref <;> simp only [Bank.writeRecord, Option.map_eq_some_iff] at hw <;> obtain ⟨d, hd, rfl⟩ := hw
  case mailbox n => exact ⟨stored_set hm n (fun _ h => by cases h; exact parseMailboxDef_ok hd), hq, hc, he⟩
  case queue n => exact ⟨hm, stored_set hq n (fun _ h => by cases h; exact parseQueueDef_ok hd), hc, he⟩
  case capture n => exact ⟨hm, hq, stored_set hc n (fun _ h => by cases h; exact parseCaptureEntry_ok hd), he⟩
  case emit n => exact ⟨hm, hq, hc, stored_set he n (fun _ h => by cases h; exact parseEmitEntry_ok hd)⟩

namespace StepInvariant

variable {W : Prop} {P : State → Prop} (k : StepInvariant W P)
include k

theorem enqueue {s : State} (p : Port) (x : Response) (h : P s) : P (s.enqueue p x) := by
  unfold State.enqueue State.hasRoom
  split
  · exact k.lengthen _ _ _ (by simp_all) h
  · exact h

/-! ## The requests' own rules -/

theorem ownClaim {s : State} {i : Fin 8} {y : Party} (hy : s.parties[i] = some y) (h : P s) :
    AnswerKeeps P y.id s (ownClaim y.id s) := by
  unfold Machine.ownClaim
  split
  · exact k.grantClaim s i y hy ‹_› h
  · split
    · exact h
    · exact h

theorem ownReadRecord {s : State} (id : PartyId) (sel : BitVec 16) (h : P s) :
    AnswerKeeps P id s (ownReadRecord sel s) := by
  unfold Machine.ownReadRecord
  split
  · split
    · split
      · exact h
      · exact h
    · exact k.raise _ _ _ h
  · exact h

theorem ownReadMailbox {s : State} (id : PartyId) (sel : BitVec 16) (operands : List Word) (h : P s) :
    AnswerKeeps P id s (ownReadMailbox sel operands s) := by
  unfold Machine.ownReadMailbox
  split
  · exact h
  · dsimp only
    split
    · exact h
    · split
      · exact k.readActive _ h
      · split
        · exact h
        · split
          · exact k.faultMailbox ‹_› h
          · exact h

theorem ownReadQueue {s : State} (id : PartyId) (sel : BitVec 16) (h : P s) :
    AnswerKeeps P id s (ownReadQueue sel s) := by
  unfold Machine.ownReadQueue
  split
  · exact h
  · split
    · exact k.readActive _ h
    · exact h

theorem ownWriteProfile {s : State} (id : PartyId) (sel : BitVec 16) (operands : List Word) (h : P s) :
    AnswerKeeps P id s (ownWriteProfile id sel operands s) := by
  unfold Machine.ownWriteProfile
  dsimp only
  split
  · exact h
  · unfold writeUProfile
    split
    · exact h
    · rename_i hok
      simp only [Bool.not_eq_true, Bool.not_eq_false', Bool.and_eq_true] at hok
      split
      · exact h
      · exact k.setUProfile _ _ hok.1 hok.2 h
  · unfold writeLProfile
    split
    · exact h
    · rename_i hok
      simp only [Bool.not_eq_true, Bool.not_eq_false', Bool.and_eq_true] at hok
      split
      · exact h
      · exact k.setLProfile _ _ hok.1 hok.2 h

theorem ownRestartLink {s : State} (id : PartyId) (sel : BitVec 16) (h : P s) :
    AnswerKeeps P id s (ownRestartLink id sel s) := by
  unfold Machine.ownRestartLink
  split
  · exact h
  · split
    · exact h
    · split
      · exact k.linkStart _ h
      · exact k.linkStart _ h

/-- An edit is BUSY or replaces the STAGED bank by one in range. -/
theorem ownWriteRecord {s : State} (id : PartyId) (sel : BitVec 16) (operands : List Word) (h : P s) :
    AnswerKeeps P id s (ownWriteRecord sel operands s) := by
  unfold Machine.ownWriteRecord
  split
  · exact h
  · rename_i hfrozen
    split
    · exact h
    · split
      · exact h
      · exact k.edit _ _ (by simpa using hfrozen) (fun _ hs => inRange_writeRecord hs ‹_›) h

theorem ownEdits {s : State} (id : PartyId) (sel : BitVec 16) (h : P s) : AnswerKeeps P id s (ownStageClear s) ∧
    AnswerKeeps P id s (ownStageCopy s) ∧ AnswerKeeps P id s (ownEraseRecord sel s) := by
  unfold Machine.ownStageClear Machine.ownStageCopy Machine.ownEraseRecord
  cases hfrozen : s.frozen with
  | true => exact ⟨h, h, h⟩
  | false =>
    refine ⟨k.edit _ _ hfrozen (fun _ _ => inRange_empty) h, k.edit _ _ hfrozen (fun ha _ => ha) h, ?_⟩
    simp only [Bool.false_eq_true, if_false]
    split
    · exact h
    · exact k.edit _ _ hfrozen (fun _ hs => inRange_eraseRecord hs _) h

omit k in
theorem answerKeeps_check {s : State} {id : PartyId} (hclaim : s.claim = some id) (h : P s) :
    AnswerKeeps P id s (ownCheck id s) := by
  unfold Machine.ownCheck
  split
  · exact h
  · rename_i hfrozen
    exact ⟨rfl, Bool.eq_false_of_not_eq_true hfrozen, hclaim⟩

theorem ownCommits {s : State} (id : PartyId) (h : P s) :
    AnswerKeeps P id s (ownCommit s) ∧ AnswerKeeps P id s (ownCancelCommit s) := by
  constructor
  · unfold Machine.ownCommit
    split
    · exact k.commit _ ‹_› h
    all_goals exact h
  · unfold Machine.ownCancelCommit
    split
    · exact k.cancelCommit _ ‹_› h
    · exact h

theorem ownInject {s : State} (id : PartyId) (sel : BitVec 16) (operands : List Word) (hW : W → s.active.InRange)
    (h : P s) : AnswerKeeps P id s (ownInject id sel operands s) := by
  unfold Machine.ownInject
  split
  · exact h
  · rename_i n _
    split
    · exact k.readActive _ h
    · rename_i d hd
      split
      · exact h
      · rename_i hfits
        split
        · exact h
        · rename_i hopen
          have hrange : W → operands.length ≤ 12 := fun w => by
            obtain ⟨hm, -⟩ := hW w
            have := hm n d (by rw [seen_eq_some.1 hd])
            simp only [MailboxDef.ok, Bool.and_eq_true, decide_eq_true_eq] at this
            omega
          have hnone : none = s.mailboxes[n].openWrite := (Option.not_isSome_iff_eq_none.1 hopen).symm
          exact k.setMailbox _ _ _ (fun w _ => lawful_flip (hrange w)) hnone (k.setStore _ _ storeWf_storeWriteAll h)

theorem ownDrainQueue {s : State} (id : PartyId) (sel : BitVec 16) (h : P s) :
    AnswerKeeps P id s (ownDrainQueue sel s) := by
  unfold Machine.ownDrainQueue
  split
  · exact h
  · split
    · exact k.readActive _ h
    · unfold State.drain
      dsimp only
      split
      · rename_i hhead
        refine k.setQueue _ _ _ (fun _ hq => ?_) h
        obtain ⟨hempty, -, hlen, hattempts, hwords⟩ := hq
        refine ⟨fun hnil => ?_, fun _ => by rw [hhead]; rfl, ?_, hattempts, fun e he => hwords e (List.mem_of_mem_take he)⟩
        · rw [List.take_eq_nil_iff] at hnil
          cases hhead.symm.trans (hempty (hnil.resolve_left (by decide))).1
        · simp only [List.length_take]
          omega
      · exact k.setQueue _ _ _ (fun _ _ => ⟨fun _ => ⟨‹_›, rfl, rfl⟩, fun h => (by cases h), by simp, by simp, by simp⟩) h

theorem ownRule {s : State} {i : Fin 8} {y : Party} (q : Req) (sel : BitVec 16) (operands : List Word)
    (hW : W → s.active.InRange) (hy : s.parties[i] = some y) (hclaim : q.needsClaim = true → s.claim = some y.id)
    (h : P s) : AnswerKeeps P y.id s (ownRule q y.id sel operands s) := by
  cases q with
  | ping => exact h
  | claim => exact k.ownClaim hy h
  | release =>
    have hown : s.claim = some y.id := hclaim rfl
    simp only [Machine.ownRule, Machine.ownRelease, hown, if_true]
    rfl
  | readStatus => exact h
  | readProfile =>
    simp only [Machine.ownRule, Machine.ownReadProfile]
    split <;> exact h
  | readSettings => exact h
  | readCounters =>
    simp only [Machine.ownRule, Machine.ownReadCounters]
    split <;> exact h
  | readRecord => exact k.ownReadRecord _ _ h
  | readMailbox => exact k.ownReadMailbox _ _ _ h
  | readQueue => exact k.ownReadQueue _ _ h
  | readNotices => exact h
  | writeProfile => exact k.ownWriteProfile _ _ _ h
  | writeSettings =>
    simp only [Machine.ownRule, Machine.ownWriteSettings]
    split
    · exact k.setSettings _ _ ‹_› h
    · exact h
  | restartLink => exact k.ownRestartLink _ _ h
  | clearCounters =>
    simp only [Machine.ownRule, Machine.ownClearCounters]
    split
    · exact h
    · exact k.withCounters _ _ h
  | stageClear => exact (k.ownEdits _ sel h).1
  | stageCopy => exact (k.ownEdits _ sel h).2.1
  | writeRecord => exact k.ownWriteRecord _ _ _ h
  | eraseRecord => exact (k.ownEdits _ sel h).2.2
  | check => exact answerKeeps_check (hclaim rfl) h
  | commit => exact (k.ownCommits _ h).1
  | cancelCommit => exact (k.ownCommits _ h).2
  | start => exact k.quiet _ _ _ _ _ _ _ _ _ _ h
  | halt => exact k.quiet _ _ _ _ _ _ _ _ _ _ h
  | inject => exact k.ownInject _ _ _ hW h
  | drainQueue => exact k.ownDrainQueue _ _ h
  | ackNotice =>
    simp only [Machine.ownRule, Machine.ownAckNotice]
    split
    · exact k.acknowledge _ _ h
    · exact h
  | restart => exact h

theorem judge {s : State} {i : Fin 8} {y : Party} (q : Option Req) (r : Request) (hW : W → s.active.InRange)
    (hy : s.parties[i] = some y) (hid : y.id = requestParty r) (h : P s) : AnswerKeeps P y.id s (judge q r s) := by
  unfold Machine.judge
  split
  · exact h
  · split
    · exact h
    · split
      · exact h
      · rename_i hclaim
        rw [← hid] at hclaim ⊢
        refine k.ownRule _ _ _ hW hy (fun hneeds => ?_) h
        simpa [hneeds] using hclaim

/-! ## Taking a request -/

theorem respond {s : State} (i : Fin 8) (r : Request) (reply : Reply) (mark : Option RestartMark) (h : P s) :
    P (s.respond i r reply mark false) :=
  k.enqueue _ _ (k.updateParty _ _ _ (fun _ => ⟨rfl, rfl⟩) h)

theorem respond_endsClaim {s : State} (i : Fin 8) (r : Request) (reply : Reply) (mark : Option RestartMark) (h : P s) :
    P ((s.withClaim none).respond i r reply mark true) := by
  have hqueued := k.enqueue r.port { station := r.station, reply, mark } (k.updateParty s i
    (fun q => { q with cached := some reply }) (fun _ => ⟨rfl, rfl⟩) h)
  have hcomm : ((s.withClaim none).updateParty i fun q => { q with cached := some reply }).enqueue r.port
      { station := r.station, reply, mark } = ((s.updateParty i fun q => { q with cached := some reply }).enqueue r.port
      { station := r.station, reply, mark }).withClaim none := by
    simp only [enqueue_frame]
    rfl
  have hended := k.endClaim _ hqueued
  rw [← hcomm] at hended
  exact hended

theorem execute {s : State} {i : Fin 8} {x : Party} (q : Option Req) (code : BitVec 8) (r : Request)
    (hW : W → s.active.InRange) (hx : s.parties[i] = some x) (hid : x.id = requestParty r) (h : P s) :
    P (s.execute i q code r) := by
  have hbegun : P (s.updateParty i fun y => { y with lastSeq := some r.seq }) :=
    k.updateParty _ _ _ (fun _ => ⟨rfl, rfl⟩) h
  have hy : (s.updateParty i fun y => { y with lastSeq := some r.seq }).parties[i] =
      some { x with lastSeq := some r.seq } := by
    rw [updateParty_self _ hx, withParty_parties_get]
  have hjudge := k.judge q r (s := s.updateParty i fun y => { y with lastSeq := some r.seq }) hW hy hid hbegun
  unfold State.execute
  dsimp only
  generalize Machine.judge q r _ = answered at hjudge
  obtain ⟨t, a⟩ := answered
  cases a with
  | now status results mark endsClaim =>
    cases endsClaim with
    | false => exact k.respond _ _ _ _ hjudge
    | true =>
      cases hjudge
      exact k.respond_endsClaim _ _ _ _ hbegun
  | deferred =>
    obtain ⟨rfl, hfrozen, hclaim⟩ := hjudge
    exact k.takeCheck _ _ _ r.seq hfrozen hy hclaim hbegun
  | gone => exact hjudge

theorem handle {s : State} {i : Fin 8} {x : Party} (q : Option Req) (code : BitVec 8) (r : Request)
    (hW : W → s.active.InRange) (hx : s.parties[i] = some x) (hid : x.id = requestParty r) (h : P s) :
    P (s.handle i x q code r) := by
  unfold State.handle
  split
  · exact h
  · split
    · split
      · exact k.enqueue _ _ h
      · exact k.withCounters _ _ h
    · split
      · exact k.execute _ _ _ hW hx hid h
      · exact k.withCounters _ _ h

theorem serve {s : State} (q : Option Req) (code : BitVec 8) (r : Request) (hW : W → s.active.InRange) (h : P s) :
    P (s.serve q code r) := by
  have hadmitted := k.admission s (requestParty r) h
  unfold State.serve
  rcases admitParty_cases s (requestParty r) with ⟨i, x, hadmit, hid, -⟩ | ⟨hadmit, -⟩
  · rw [hadmit] at hadmitted ⊢
    have hx := withParty_parties_get s i (some x)
    simp only [hx]
    exact k.handle _ _ _ hW hx hid hadmitted
  · rw [hadmit]
    exact h

/-! ## Receptions -/

theorem deliverCell {s : State} (p : Port) (r : Reception) (payload : List Word) (valid : Bool)
    (hW : W → s.active.InRange) (h : P s) : P (s.deliverCell p r payload valid) := by
  unfold State.deliverCell
  split
  · exact k.captureComplete _ _ _ _ h
  · exact k.captureComplete _ _ _ _ h
  · split
    · exact k.uplinkBeacon _ _ h
    · exact h
  · split
    · unfold State.takeRequestCell
      split
      · split
        · exact k.serve _ _ _ hW h
        · exact h
      · exact h
    · exact h
  · exact h
  · exact h

theorem completeReception {s : State} (p : Port) (r : Reception) (payload : List Word) (valid : Bool)
    (hW : W → s.active.InRange) (h : P s) : P (s.completeReception p r payload valid) :=
  k.deliverCell _ _ _ _ hW (k.withCounters _ _ (k.withRx _ _ h))

theorem payloadArrives {s : State} (p : Port) (payload : List Word) (check : BitVec 16) (hW : W → s.active.InRange)
    (h : P s) : P (s.payloadArrives p payload check) := by
  unfold State.payloadArrives
  split
  · exact k.completeReception _ _ _ _ hW h
  · exact h

theorem acceptHeader {s : State} (p : Port) (x : Header) (inWindow : Bool) (hW : W → s.active.InRange) (h : P s) :
    P (s.acceptHeader p x inWindow) := by
  obtain ⟨st, c, ms, hdropped⟩ := dropContext_frame s p
  have hactive : (s.dropContext p).active = s.active := by rw [hdropped]
  unfold State.acceptHeader
  dsimp only
  generalize hs2 : (if (s.currentSlot p).isSome then ((s.dropContext p).withRx p (some (s.receptionOf p x inWindow))).withFlags p
      { ((s.dropContext p).withRx p (some (s.receptionOf p x inWindow))).slotFlags.get p with accepted := true }
    else (s.dropContext p).withRx p (some (s.receptionOf p x inWindow))) = s2
  have hrx := k.withRx p (some (s.receptionOf p x inWindow)) (k.dropContext p h)
  have h2 : P s2 ∧ s2.active = s.active := by
    rw [← hs2]
    split
    · exact ⟨k.withFlags _ _ hrx, hactive⟩
    · exact ⟨hrx, hactive⟩
  generalize hs3 : (if (s.receptionOf p x inWindow).deliverable && (decide (x.kind = .data) || decide (x.kind = .void)) then
      s2.captureAtHeader p x else s2) = s3
  have h3 : P s3 ∧ s3.active = s.active := by
    rw [← hs3]
    split
    · refine ⟨k.captureAtHeader _ _ (fun w => h2.2 ▸ hW w) h2.1, ?_⟩
      obtain ⟨u, co, ms', cs, hcapture⟩ := captureAtHeader_frame s2 p x
      rw [hcapture]
      exact h2.2
    · exact h2
  split
  · exact k.completeReception _ _ _ _ (fun w => h3.2 ▸ hW w) h3.1
  · exact h3.1

theorem arrive {s : State} (p : Port) (header : BitVec 64) (inWindow : Bool) (hW : W → s.active.InRange) (h : P s) :
    P (s.arrive p header inWindow) := by
  unfold State.arrive
  split
  · exact k.withCounters _ _ h
  · split
    · exact k.withCounters _ _ h
    · exact k.withCounters _ _ h
    · exact k.acceptHeader _ _ _ hW h

/-! ## Every command -/

omit k in
theorem keeps_live {s : State} {f : State → State} (h : P s) (hf : P (f s)) : P (s.live f) := by
  unfold State.live
  split
  · exact h
  · exact hf

/-- A law that the named updates keep is kept by every command, and no command stops. -/
theorem exec {s : State} (c : Instr) (hW : W → s.active.InRange) (h : P s) :
    ∃ t, Machine.exec c s = .next t ∧ P t := by
  have htake : ∀ q r, ∃ t, Machine.exec (Req.command q r) s = .next t ∧ P t := by
    intro q r
    rcases exec_command_cases q r s with he | ⟨-, he⟩
    · exact ⟨_, he, h⟩
    · exact ⟨_, he, k.serve _ _ _ hW h⟩
  cases c with
  | powerOn strap => exact ⟨_, rfl, k.powerOn _ _ h⟩
  | resetnLow => exact ⟨_, rfl, k.resetnLow _ h⟩
  | cellArrival p header inWindow =>
    refine ⟨_, rfl, keeps_live h ?_⟩
    split
    · exact k.arrive _ _ _ hW h
    · exact h
  | payloadComplete p payload check => exact ⟨_, rfl, keeps_live h (k.payloadArrives _ _ _ hW h)⟩
  | slotStart p =>
    refine ⟨_, rfl, keeps_live h ?_⟩
    split
    · exact k.slotStarts _ hW ‹_› h
    · exact h
  | slotEnd p =>
    refine ⟨_, rfl, keeps_live h ?_⟩
    split
    · exact k.slotEnds _ h
    · exact h
  | transmissionEnd p e => exact ⟨_, rfl, keeps_live h (k.transmissionEnd _ _ h)⟩
  | uRoundStart =>
    refine ⟨_, rfl, keeps_live h ?_⟩
    split
    · exact k.uRound h
    · exact h
  | lockLapse =>
    refine ⟨_, rfl, keeps_live h ?_⟩
    split
    · exact k.lockedRound h
    · exact h
  | alignmentDue =>
    refine ⟨_, rfl, keeps_live h ?_⟩
    split
    · split
      · rename_i hdue
        simp only [Bool.and_eq_true] at hdue
        exact k.alignmentFallsDue _ hdue.1 h
      · exact h
    · exact h
  | lRoundStart => exact ⟨_, rfl, keeps_live h (k.takeLRound _ h)⟩
  | mailboxBecomesStale n => exact ⟨_, rfl, keeps_live h (k.takeLRound _ h)⟩
  | claimTimeout => exact ⟨_, rfl, keeps_live h (k.takeLRound _ h)⟩
  | noticeDue id => exact ⟨_, rfl, keeps_live h (k.takeLRound _ h)⟩
  | commitSwap => exact ⟨_, rfl, keeps_live h (k.takeLRound _ h)⟩
  | checkComplete =>
    refine ⟨_, rfl, keeps_live h ?_⟩
    split
    · exact k.checkEnds ‹_› h
    all_goals exact h
  | linkStartU => exact ⟨_, rfl, keeps_live h (k.linkStart _ h)⟩
  | linkStartL => exact ⟨_, rfl, keeps_live h (k.linkStart _ h)⟩
  | bridgeRestart => exact ⟨_, rfl, keeps_live h (k.bridgeRestart h)⟩
  | planRecordDisturbed role ref alreadyRead => exact ⟨_, rfl, keeps_live h (k.disturbRecord _ _ _ _ h)⟩
  | storeWordDisturbed word placed =>
    refine ⟨_, rfl, keeps_live h ?_⟩
    have hwritten : P (s.withStore (storeWrite word.toNat .failed s.store)) := k.setStore _ _ storeWf_storeWrite h
    unfold State.disturbWord
    dsimp only
    split
    · exact k.spoil _ word.toNat hwritten
    · exact hwritten
  | ping r => exact htake .ping r
  | claim r => exact htake .claim r
  | release r => exact htake .release r
  | readStatus r => exact htake .readStatus r
  | readProfile r => exact htake .readProfile r
  | readSettings r => exact htake .readSettings r
  | readCounters r => exact htake .readCounters r
  | readRecord r => exact htake .readRecord r
  | readMailbox r => exact htake .readMailbox r
  | readQueue r => exact htake .readQueue r
  | readNotices r => exact htake .readNotices r
  | writeProfile r => exact htake .writeProfile r
  | writeSettings r => exact htake .writeSettings r
  | restartLink r => exact htake .restartLink r
  | clearCounters r => exact htake .clearCounters r
  | stageClear r => exact htake .stageClear r
  | stageCopy r => exact htake .stageCopy r
  | writeRecord r => exact htake .writeRecord r
  | eraseRecord r => exact htake .eraseRecord r
  | check r => exact htake .check r
  | commit r => exact htake .commit r
  | cancelCommit r => exact htake .cancelCommit r
  | start r => exact htake .start r
  | halt r => exact htake .halt r
  | inject r => exact htake .inject r
  | drainQueue r => exact htake .drainQueue r
  | ackNotice r => exact htake .ackNotice r
  | restart r => exact htake .restart r

/-- A law that the named updates keep is kept by every step. -/
theorem step {s t : State} (hstep : Machine.step s = .next t) (hW : W → s.active.InRange) (h : P s) : P t := by
  unfold Machine.step at hstep
  split at hstep
  · cases hstep
    exact h
  · rename_i c rest _
    obtain ⟨t', he, ht⟩ := k.exec (s := { s with pending := rest }) c hW (k.quiet s _ _ _ _ _ _ _ _ _ h)
    cases he.symm.trans hstep
    exact ht

end StepInvariant

end Sys2Proof.Machine
end

section
/-! Every step keeps the timing records consistent (R21, R26, R41, R48), and the profiles and settings in their ranges (R20,
R39, R158). -/

set_option Elab.async false

namespace Sys2Proof.Machine

/-- The law of the profiles and settings as one about its quantities. -/
structure ProfilesOk (u : UProfile) (l : LProfile) (uInUse : UProfile) (lInUse : LProfile) (settings : Settings) : Prop where
  uStored_ok : u.ok = true
  lStored_ok : l.ok = true
  uInUse_ok : uInUse.ok = true
  lInUse_ok : lInUse.ok = true
  agree : profilesAgree u l = true
  settings_ok : settings.ok = true

/-! ## The timing records -/

/-- A U record in which the slots run or not, with the round that this asks for. -/
def UplinkRecord.Consistent (v : UplinkRecord) : Prop :=
  (v.round.isSome ↔ v.state = .align ∨ v.state = .confirm ∨ v.state = .locked) ∧
  (v.slot.isSome → v.state = .align ∨ v.state = .confirm ∨ v.state = .locked)

/-- An L record whose round, slot and alignment are those of its state. -/
def LocalRecord.Consistent (l : LocalRecord) : Prop :=
  (l.round.isSome ↔ l.state ≠ .off) ∧ (l.slot.isSome → l.running) ∧ (l.running → l.state ≠ .off) ∧
  (l.pending.isSome → l.state = .tying ∨ l.state = .tied)

/-- The two records together: port L is TYING or TIED only while port U is LOCKED. -/
def TimesConsistent (u : UplinkRecord) (l : LocalRecord) : Prop :=
  u.Consistent ∧ l.Consistent ∧ (l.state = .tying ∨ l.state = .tied → u.state = .locked)

theorem timingLawful_iff {s : State} : s.TimingLawful ↔ TimesConsistent s.uTime s.lTime := by
  simp only [State.TimingLawful, TimesConsistent, UplinkRecord.Consistent, LocalRecord.Consistent, State.placementApplies,
    State.tyingOrTied, State.locked, Bool.or_eq_true, decide_eq_true_eq, or_assoc, and_assoc]

theorem consistent_untied {l : LocalRecord} (h : l.Consistent) :
    l.untied.Consistent ∧ ¬(l.untied.state = .tying ∨ l.untied.state = .tied) := by
  obtain ⟨hround, hslot, hrunning, hpending⟩ := h
  unfold LocalRecord.untied
  split <;> rename_i hs
  case h_1 | h_2 => exact ⟨⟨iff_of_true (hround.2 (by simp [hs])) (by simp), hslot, by simp, by simp⟩, by simp⟩
  all_goals exact ⟨⟨hround, hslot, hrunning, hpending⟩, by simp [hs]⟩

theorem timing_started (strap : BitVec 6) (u : UProfile) (l : LProfile) (settings : Settings) (store : Store)
    (epoch choice : Nat) (pending : List Instr) :
    (State.started strap u l settings store epoch choice pending).TimingLawful := by
  rw [timingLawful_iff]
  cases hu : u.enabled <;> cases hl : l.enabled <;>
    simp [TimesConsistent, State.started, hu, hl, UplinkRecord.Consistent, UplinkRecord.atStart, LocalRecord.Consistent,
      LocalRecord.roundStarted, LocalRecord.disabled]

theorem consistent_sought {v : UplinkRecord} (hstate : v.state = .seek ∨ v.state = .off) (hround : v.round = none)
    (hslot : v.slot = none) : v.Consistent := by
  rcases hstate with hs | hs <;> simp [UplinkRecord.Consistent, hs, hround, hslot]

/-- The timing records are changed by the updates of Chapters 2 and 3 alone. -/
theorem timing_stepInvariant : StepInvariant False (fun s => TimesConsistent s.uTime s.lTime) where
  powerOn := fun _ _ _ => timingLawful_iff.1 (timing_started _ _ _ _ _ _ _ _)
  restart := fun _ _ _ _ _ => timingLawful_iff.1 (timing_started _ _ _ _ _ _ _ _)
  admission := fun s id h => by
    rcases admitParty_cases s id with ⟨i, q, he, -⟩ | ⟨he, -⟩ <;> rw [he] <;> exact h
  endClaim := fun s h => by
    obtain ⟨ps, rs, c, he⟩ := abandonCheck_frame (s.withClaim none)
    rw [he]
    exact h
  finishCheck := fun s _ _ _ c status results _ _ _ h => by
    obtain ⟨ps, rs, he⟩ := giveDeferred_frame (s.withCheck c) status results
    rw [he]
    exact h
  disturbRecord := fun s role _ _ h => by cases role <;> exact h
  uTally := fun s v hstate hround hslot h => by
    obtain ⟨⟨hr, hs⟩, hrest⟩ := h
    refine ⟨⟨hround ▸ hstate ▸ hr, fun h => hstate ▸ hs ?_⟩, hstate ▸ hrest⟩
    rcases hslot with hslot | hslot
    · exact hslot ▸ h
    · exact absurd h (by simp [hslot])
  uRuns := fun s v hstate hround hlocked h => by
    obtain ⟨-, hl, htie⟩ := h
    exact ⟨⟨iff_of_true hround hstate, fun _ => hstate⟩, hl, fun ht => hlocked (by simp [State.locked, htie ht])⟩
  uSeek := fun s v hs hstate hround hslot h => by
    obtain ⟨-, hl, htie⟩ := h
    exact ⟨consistent_sought hstate hround hslot, hl, fun ht => by simp [State.locked, htie ht] at hs⟩
  uLeave := fun s v hstate hround hslot h => by
    obtain ⟨-, hl, -⟩ := h
    obtain ⟨hl', hnot⟩ := consistent_untied hl
    exact ⟨consistent_sought hstate hround hslot, hl', fun ht => absurd ht hnot⟩
  uSlot := fun s v hplaced hstate hround h => by
    obtain ⟨⟨hr, -⟩, hl, htie⟩ := h
    simp only [State.placementApplies, Bool.or_eq_true, decide_eq_true_eq, or_assoc] at hplaced
    exact ⟨⟨hround ▸ hstate ▸ hr, fun _ => hstate ▸ hplaced⟩, hl, hstate ▸ htie⟩
  lSlot := fun s k n hrunning h => by
    obtain ⟨hu, ⟨hround, -, hrest⟩, htie⟩ := h
    exact ⟨hu, ⟨hround, fun _ => hrunning, hrest⟩, htie⟩
  lSlotEnds := fun s h => by
    obtain ⟨hu, ⟨hround, -, hrest⟩, htie⟩ := h
    exact ⟨hu, ⟨hround, fun h => (by cases h), hrest⟩, htie⟩
  lRoundEnds := fun s hslot h => by
    obtain ⟨hu, ⟨hround, -, -, hpending⟩, htie⟩ := h
    exact ⟨hu, ⟨hround, fun h => by simp [hslot] at h, fun h => (by cases h), hpending⟩, htie⟩
  lTied := fun s n ht h => by
    simp only [State.tyingOrTied, Bool.or_eq_true, decide_eq_true_eq] at ht
    exact ⟨h.1, by simp [LocalRecord.Consistent, LocalRecord.roundStarted], fun _ => h.2.2 ht⟩
  lUntied := fun s n h => by
    exact ⟨h.1, by simp [LocalRecord.Consistent, LocalRecord.roundStarted], by simp [LocalRecord.roundStarted]⟩
  lTying := fun s n hlocked h => by
    exact ⟨h.1, by simp [LocalRecord.Consistent, LocalRecord.roundStarted], fun _ => by simpa [State.locked] using hlocked⟩
  lOff := fun s h => by
    exact ⟨h.1, by simp [LocalRecord.Consistent, LocalRecord.disabled], by simp [LocalRecord.disabled]⟩
  lPending := fun s x ht h => by
    simp only [State.tyingOrTied, Bool.or_eq_true, decide_eq_true_eq] at ht
    obtain ⟨hu, ⟨hround, hslot, hrunning, -⟩, htie⟩ := h
    exact ⟨hu, ⟨hround, hslot, hrunning, fun _ => ht⟩, htie⟩
  lBeginsTying := fun s hlocked huntied h => by
    obtain ⟨hu, ⟨hround, hslot, hrunning, -⟩, -⟩ := h
    refine ⟨hu, ⟨iff_of_true (hround.2 (by simp [huntied])) (by simp), hslot, by simp, by simp⟩, fun _ => ?_⟩
    simpa [State.locked] using hlocked

/-! ## Profiles and settings -/

theorem strapStation_toNat (strap : BitVec 6) : (strapStation strap).toNat = strap.toNat + 1 := by
  have := strap.isLt
  simp only [strapStation, BitVec.toNat_ofNat]
  omega

theorem powerUp_ok (strap : BitVec 6) : (UProfile.powerUp strap).ok = true ∧ (LProfile.powerUp strap).ok = true ∧
    profilesAgree (.powerUp strap) (.powerUp strap) = true := by
  have hstrap := strap.isLt
  have hzero : strapStation strap ≠ 0#8 := fun h => by
    have htoNat := congrArg BitVec.toNat h
    rw [strapStation_toNat, BitVec.toNat_ofNat] at htoNat
    omega
  have hmax : strapStation strap ≠ 255#8 := fun h => by
    have htoNat := congrArg BitVec.toNat h
    rw [strapStation_toNat, BitVec.toNat_ofNat] at htoNat
    omega
  refine ⟨?_, ?_, by simp [profilesAgree, UProfile.powerUp, LProfile.powerUp, UProfile.duration, LProfile.duration]⟩
  · simp [UProfile.ok, UProfile.powerUp, hzero, hmax]
    omega
  · simp [LProfile.ok, LProfile.powerUp, hzero, hmax]

theorem profilesLawful_iff {s : State} :
    s.ProfilesLawful ↔ ProfilesOk s.uStored s.lStored s.uInUse s.lInUse s.settings :=
  ⟨fun ⟨hu, hl, hu', hl', hagree, ht⟩ => ⟨hu, hl, hu', hl', hagree, ht⟩,
    fun ⟨hu, hl, hu', hl', hagree, ht⟩ => ⟨hu, hl, hu', hl', hagree, ht⟩⟩

theorem profiles_stepInvariant : StepInvariant False (fun s =>
    ProfilesOk s.uStored s.lStored s.uInUse s.lInUse s.settings) where
  powerOn := fun _ strap _ => by
    obtain ⟨hu, hl, hagree⟩ := powerUp_ok strap
    exact ⟨hu, hl, hu, hl, hagree, rfl⟩
  restart := fun _ _ _ _ ⟨hu, hl, _, _, hagree, ht⟩ => ⟨hu, hl, hu, hl, hagree, ht⟩
  admission := fun s id h => by
    rcases admitParty_cases s id with ⟨i, q, he, -⟩ | ⟨he, -⟩ <;> rw [he] <;> exact h
  endClaim := fun s h => by
    obtain ⟨ps, rs, c, he⟩ := abandonCheck_frame (s.withClaim none)
    rw [he]
    exact h
  finishCheck := fun s _ _ _ c status results _ _ _ h => by
    obtain ⟨ps, rs, he⟩ := giveDeferred_frame (s.withCheck c) status results
    rw [he]
    exact h
  disturbRecord := fun s role _ _ h => by cases role <;> exact h
  setSettings := fun s t ht h => by
    obtain ⟨hu, hl, hu', hl', hagree, -⟩ := h
    exact ⟨hu, hl, hu', hl', hagree, ht⟩
  setUProfile := fun s p hp hagree h => by
    obtain ⟨hu, hl, hu', hl', -, ht⟩ := h
    refine ⟨hp, hl, ?_, hl', hagree, ht⟩
    simp_all [UProfile.ok]
  setLProfile := fun s p hp hagree h => by
    obtain ⟨hu, hl, hu', hl', -, ht⟩ := h
    refine ⟨hu, hp, hu', ?_, hagree, ht⟩
    simp_all [LProfile.ok]
  adoptU := fun s ⟨hu, hl, _, hl', hagree, ht⟩ => ⟨hu, hl, hu, hl', hagree, ht⟩
  adoptL := fun s ⟨hu, hl, hu', _, hagree, ht⟩ => ⟨hu, hl, hu', hl, hagree, ht⟩

/-- Settles O60: no update leaves a record that its timing state forbids, or a profile out of its range. -/
theorem everyStepKeepsTheTimingLaw : Obligations.EveryStepKeepsTheTimingLaw := fun _ _ hstep =>
  ⟨fun h => timingLawful_iff.2 (timing_stepInvariant.step hstep (fun hfalse => hfalse.elim) (timingLawful_iff.1 h)),
    fun h => profilesLawful_iff.2 (profiles_stepInvariant.step hstep (fun hfalse => hfalse.elim) (profilesLawful_iff.1 h))⟩

end Sys2Proof.Machine
end

section
/-! Every step keeps the law of the buffer store (R55, R92, R105, R106, R107, R115, R118, R124). -/

set_option Elab.async false

namespace Sys2Proof.Machine

/-- The last clause of the law for the context of one port: not CUT and in the mode MAILBOX WRITE OPEN, it has its write
open. -/
def CaptureContext.HoldsWrite (mailboxes : Vector MailboxRt 64) (p : Port) (c : CaptureContext) : Prop :=
  ∀ n base capacity spoiled, c.target = .mailbox n base capacity spoiled → c.mark ≠ .cut →
    mailboxes[n].openWrite = some p

/-! ## Records of mailboxes and queues -/

theorem lawful_resetMailbox : MailboxRt.reset.Lawful := by simp [MailboxRt.Lawful, MailboxRt.reset]

theorem lawful_resetQueue : QueueRt.reset.Lawful := by simp [QueueRt.Lawful, QueueRt.reset]

/-- Aging changes the age, and the state of a FRESH value to STALE, alone. -/
theorem MailboxRt.aged_cases (m : MailboxRt) (d : MailboxDef) : m.aged d = m ∨ m.aged d = { m with age := satInc m.age } ∨
    m.state = .fresh ∧ m.aged d = { m with age := satInc m.age, state := .stale } := by
  unfold MailboxRt.aged
  split
  · dsimp only
    split
    · simp_all
    · exact .inr (.inl rfl)
  · exact .inl rfl

theorem agedUnder_lawful {x : Stored MailboxDef} {m : MailboxRt} (h : m.Lawful) :
    (agedUnder x m).Lawful ∧ (agedUnder x m).openWrite = m.openWrite := by
  unfold agedUnder
  split
  · split
    · rename_i d _
      rcases m.aged_cases d with he | he | ⟨hs, he⟩ <;> rw [he]
      · exact ⟨h, rfl⟩
      · exact ⟨h, rfl⟩
      · obtain ⟨-, hvalue, hlen⟩ := h
        exact ⟨⟨fun h => (by cases h), fun _ => hvalue (by simp [hs]), hlen⟩, rfl⟩
    · exact ⟨h, rfl⟩
  · exact ⟨h, rfl⟩

/-- A record of a vector replaced by one with the property keeps it of all. -/
theorem forall_set {α : Type} {k : Nat} {p : α → Prop} {v : Vector α k} (h : ∀ n : Fin k, p v[n]) (m : Fin k) {x : α}
    (hx : p x) : ∀ n : Fin k, p (v.set m.val x)[n] := by
  intro n
  rw [Fin.getElem_fin, Vector.getElem_set]
  split
  · exact hx
  · exact h n

/-! ## The law, clause by clause -/

/-- The law of the buffer store with the two clauses about contexts put together. -/
theorem buffersLawful_iff {s : State} : s.BuffersLawful ↔
    storeWf s.store = true ∧ (∀ n : Fin 64, s.mailboxes[n].Lawful) ∧ (∀ n : Fin 8, s.queues[n].Lawful) ∧
    (∀ p c, s.contexts.get p = some c → c.target.InRange ∧ c.HoldsWrite s.mailboxes p) ∧
    (∀ p r, s.emitRecords.get p = some r → r.effect.InRange) := by
  constructor
  · rintro ⟨hstore, hm, hq, hc, he, hw⟩
    exact ⟨hstore, hm, hq, fun p c h => ⟨hc p c h, fun n b k sp ht => hw p c n b k sp h ht⟩, he⟩
  · rintro ⟨hstore, hm, hq, hc, he⟩
    exact ⟨hstore, hm, hq, fun p c h => (hc p c h).1, he, fun p c n b k sp h ht => (hc p c h).2 n b k sp ht⟩

/-- What is said of every kept value of both ports holds after one is replaced. -/
theorem forall_get_set {α : Type} {x : PerPort (Option α)} {q : Port → α → Prop} (h : ∀ p c, x.get p = some c → q p c)
    (p : Port) {v : Option α} (hv : ∀ c, v = some c → q p c) : ∀ p' c, (x.set p v).get p' = some c → q p' c := by
  intro p' c hc
  rw [PerPort.get_set] at hc
  split at hc
  · rename_i hp
    exact hp ▸ hv c hc
  · exact h p' c hc

/-- A mailbox record replaced without touching its open write leaves the contexts their writes. -/
theorem HoldsWrite_set {mailboxes : Vector MailboxRt 64} {n : Fin 64} {m : MailboxRt} {p : Port} {c : CaptureContext}
    (hm : mailboxes[n].openWrite = some p → m.openWrite = some p) (h : c.HoldsWrite mailboxes p) :
    c.HoldsWrite (mailboxes.set n.val m) p := by
  intro k base capacity spoiled ht hcut
  have hk := h k base capacity spoiled ht hcut
  rw [Fin.getElem_fin, Vector.getElem_set]
  split
  · rename_i hnk
    have : n = k := Fin.ext hnk
    exact hm (this ▸ hk)
  · exact hk

/-! ## The updates that the law speaks of -/

theorem buffers_setMailbox {s : State} {n : Fin 64} {m : MailboxRt} (hm : s.mailboxes[n].Lawful → m.Lawful)
    (hopen : ∀ p c, s.contexts.get p = some c → s.mailboxes[n].openWrite = some p → m.openWrite = some p)
    (h : s.BuffersLawful) : (s.withMailbox n m).BuffersLawful := by
  rw [buffersLawful_iff] at h ⊢
  obtain ⟨hstore, hms, hq, hc, he⟩ := h
  exact ⟨hstore, forall_set hms n (hm (hms n)), hq, fun p c h => ⟨(hc p c h).1, HoldsWrite_set (hopen p c h) (hc p c h).2⟩,
    he⟩

theorem buffers_setQueue {s : State} {n : Fin 8} {q : QueueRt} (hq : s.queues[n].Lawful → q.Lawful)
    (h : s.BuffersLawful) : (s.withQueue n q).BuffersLawful := by
  obtain ⟨hstore, hm, hqs, hrest⟩ := h
  exact ⟨hstore, hm, forall_set hqs n (hq (hqs n)), hrest⟩

theorem buffers_setContext {s : State} {p : Port} {v : Option CaptureContext}
    (hv : ∀ c, v = some c → c.target.InRange ∧ c.HoldsWrite s.mailboxes p) (h : s.BuffersLawful) :
    (s.withContext p v).BuffersLawful := by
  rw [buffersLawful_iff] at h ⊢
  obtain ⟨hstore, hm, hq, hc, he⟩ := h
  exact ⟨hstore, hm, hq, forall_get_set hc p hv, he⟩

theorem buffers_setEmit {s : State} {p : Port} {v : Option EmitRecord} (hv : ∀ r, v = some r → r.effect.InRange)
    (h : s.BuffersLawful) : (s.withEmitRecord p v).BuffersLawful := by
  obtain ⟨hstore, hm, hq, hc, he, hw⟩ := h
  exact ⟨hstore, hm, hq, hc, forall_get_set he p hv, hw⟩

theorem buffers_openMailbox {s : State} (p : Port) (entry : Fin 128) (round : Round) (n : Fin 64) (base : Nat)
    {capacity : Nat} (hfree : s.mailboxes[n].openWrite = none) (hcap : capacity ≤ 12) (h : s.BuffersLawful) :
    ((s.withMailbox n { s.mailboxes[n] with openWrite := some p }).withContext p
      (some ⟨entry, round, .mailbox n base capacity [], .none⟩)).BuffersLawful := by
  refine buffers_setContext ?_ (buffers_setMailbox (fun hm => hm) (fun q _ _ hq => by cases hfree.symm.trans hq) h)
  rintro _ ⟨⟩
  refine ⟨hcap, ?_⟩
  rintro k _ _ _ ⟨⟩ -
  rw [State.withMailbox_mailboxes, Fin.getElem_fin, Vector.getElem_set_self]

/-- A commit swap keeps an uncut context only with its mailbox. -/
theorem swapped_holdsWrite {s : State} {old new : Bank} {p : Port} {c : CaptureContext} (h : c.HoldsWrite s.mailboxes p) :
    (c.swapped old new).HoldsWrite (s.carryOver old new).mailboxes p := by
  intro n base capacity spoiled ht hcut
  have ht : c.target = .mailbox n base capacity spoiled := ht
  simp only [CaptureContext.swapped, ht, CaptureTarget.place, placeKept] at hcut
  have hboth : mailboxKept old.mailboxes[n] new.mailboxes[n] = true ∧ c.mark ≠ .cut := by
    cases hk : mailboxKept old.mailboxes[n] new.mailboxes[n] <;> cases hm : c.mark <;>
      simp_all [-Fin.getElem_fin, SwapMark.after]
  simp only [State.carryOver, Fin.getElem_fin, Vector.getElem_ofFn]
  rw [if_pos (by exact hboth.1)]
  exact h n base capacity spoiled ht hboth.2

theorem forall_get_map {α : Type} {x : PerPort (Option α)} {f : α → α} {q r : Port → α → Prop}
    (h : ∀ p c, x.get p = some c → q p c) (hf : ∀ p c, q p c → r p (f c)) :
    ∀ p c, PerPort.get ⟨x.u.map f, x.l.map f⟩ p = some c → r p c := by
  intro p c hc
  cases p with
  | u =>
    obtain ⟨c', hc', rfl⟩ := Option.map_eq_some_iff.1 hc
    exact hf .u c' (h .u c' hc')
  | l =>
    obtain ⟨c', hc', rfl⟩ := Option.map_eq_some_iff.1 hc
    exact hf .l c' (h .l c' hc')

theorem buffers_carryOver {s : State} (old new : Bank) (h : s.BuffersLawful) : (s.carryOver old new).BuffersLawful := by
  rw [buffersLawful_iff] at h ⊢
  obtain ⟨hstore, hm, hq, hc, he⟩ := h
  refine ⟨hstore, fun n => ?_, fun n => ?_, ?_, ?_⟩
  · simp only [State.carryOver, Fin.getElem_fin, Vector.getElem_ofFn]
    split
    · exact hm n
    · exact lawful_resetMailbox
  · simp only [State.carryOver, Fin.getElem_fin, Vector.getElem_ofFn]
    split
    · exact hq n
    · exact lawful_resetQueue
  · exact forall_get_map hc fun p c ⟨hrange, hholds⟩ => ⟨hrange, swapped_holdsWrite hholds⟩
  · exact forall_get_map he fun _ _ hr => hr

theorem buffers_ageAll {s : State} (h : s.BuffersLawful) : State.BuffersLawful { s with
    mailboxes := Vector.ofFn fun n : Fin 64 => agedUnder s.active.mailboxes[n] s.mailboxes[n] } := by
  rw [buffersLawful_iff] at h ⊢
  obtain ⟨hstore, hm, hq, hc, he⟩ := h
  refine ⟨hstore, fun n => ?_, hq, fun p c hcontext => ⟨(hc p c hcontext).1, ?_⟩, he⟩
  · simp only [Fin.getElem_fin, Vector.getElem_ofFn]
    exact (agedUnder_lawful (hm n)).1
  · intro n base capacity spoiled ht hcut
    simp only [Fin.getElem_fin, Vector.getElem_ofFn]
    exact (agedUnder_lawful (hm n)).2.trans ((hc p c hcontext).2 n base capacity spoiled ht hcut)

/-- A word noted as disturbed changes no figure of a context. -/
theorem spoil_keeps {mailboxes mailboxes' : Vector MailboxRt 64} {p : Port} {c : CaptureContext} (a : Nat)
    (h : c.target.InRange ∧ c.HoldsWrite mailboxes p) :
    (c.spoil mailboxes' a).target.InRange ∧ (c.spoil mailboxes' a).HoldsWrite mailboxes p := by
  unfold CaptureContext.spoil
  split
  · rename_i n base capacity spoiled ht
    rw [ht] at h
    dsimp only
    split
    · refine ⟨h.1, ?_⟩
      rintro _ _ _ _ ⟨⟩ hcut
      exact h.2 n base capacity spoiled ht hcut
    · exact ⟨ht ▸ h.1, h.2⟩
  · exact h

theorem buffers_spoil {s : State} (a : Nat) (h : s.BuffersLawful) : State.BuffersLawful { s with
    contexts := ⟨s.contexts.u.map (·.spoil s.mailboxes a), s.contexts.l.map (·.spoil s.mailboxes a)⟩ } := by
  rw [buffersLawful_iff] at h ⊢
  obtain ⟨hstore, hm, hq, hc, he⟩ := h
  exact ⟨hstore, hm, hq, forall_get_map hc fun _ _ hr => spoil_keeps a hr, he⟩

/-- With no context and no emit record the law is that of the store, the mailboxes and the queues. -/
theorem buffers_of_idle {s : State} (hstore : storeWf s.store = true) (hm : ∀ n : Fin 64, s.mailboxes[n].Lawful)
    (hq : ∀ n : Fin 8, s.queues[n].Lawful) (hc : ∀ p, s.contexts.get p = none) (he : ∀ p, s.emitRecords.get p = none) :
    s.BuffersLawful :=
  buffersLawful_iff.2 ⟨hstore, hm, hq, fun p _ h => (by rw [hc p] at h; cases h), fun p _ h => (by rw [he p] at h; cases h)⟩

theorem get_none_none {α : Type} (p : Port) : PerPort.get (⟨none, none⟩ : PerPort (Option α)) p = none := by
  cases p <;> rfl

theorem buffers_started (strap : BitVec 6) (u : UProfile) (l : LProfile) (settings : Settings) {store : Store}
    (epoch choice : Nat) (pending : List Instr) (h : storeWf store = true) :
    (State.started strap u l settings store epoch choice pending).BuffersLawful :=
  buffers_of_idle h (fun n => by simpa [State.started] using lawful_resetMailbox)
    (fun n => by simpa [State.started] using lawful_resetQueue) get_none_none get_none_none

theorem buffers_stepInvariant : StepInvariant True State.BuffersLawful where
  powerOn := fun _ _ _ => buffers_started _ _ _ _ _ _ _ rfl
  restart := fun _ _ _ hst h => buffers_started _ _ _ _ _ _ _ (hst h.1)
  resetnLow := fun _ h => buffers_of_idle h.1 h.2.1 h.2.2.1 get_none_none get_none_none
  setStore := fun _ _ hst h => ⟨hst h.1, h.2⟩
  setMailbox := fun _ _ _ hm hopen h => buffers_setMailbox (hm trivial) (fun _ _ _ hq => hopen.trans hq) h
  closeMailbox := fun s p n m hc hopen hm h => buffers_setMailbox (hm trivial) (fun q c hq hopen' => by
    cases hopen.symm.trans hopen'
    cases hc.symm.trans hq) h
  ageAll := fun _ h => buffers_ageAll h
  spoil := fun _ a h => buffers_spoil a h
  setQueue := fun _ _ _ hq h => buffers_setQueue (hq trivial) h
  contextRange := fun _ _ p c h hc => h.2.2.2.1 p c hc
  effectRange := fun _ _ p x h hx => h.2.2.2.2.1 p x hx
  clearContext := fun _ _ h => buffers_setContext (fun _ hc => by cases hc) h
  openMailbox := fun _ p entry round n base capacity hfree hcap h => buffers_openMailbox p entry round n base hfree (hcap trivial) h
  holdCell := fun _ _ _ _ _ _ _ _ _ hrange h => buffers_setContext (fun c hc => by
    cases hc
    exact ⟨hrange trivial, fun _ _ _ _ ht => by cases ht⟩) h
  clearEmit := fun _ _ h => buffers_setEmit (fun _ hr => by cases hr) h
  setEmit := fun _ _ _ hx h => buffers_setEmit (fun _ hr => by cases hr; exact hx trivial) h
  carryOver := fun _ _ _ h => buffers_carryOver _ _ h
  admission := fun s id h => by
    rcases admitParty_cases s id with ⟨i, q, he, -⟩ | ⟨he, -⟩ <;> rw [he] <;> exact h
  endClaim := fun s h => by
    obtain ⟨ps, rs, c, he⟩ := abandonCheck_frame (s.withClaim none)
    rw [he]
    exact h
  finishCheck := fun s _ _ _ c status results _ _ _ h => by
    obtain ⟨ps, rs, he⟩ := giveDeferred_frame (s.withCheck c) status results
    rw [he]
    exact h
  disturbRecord := fun s role _ _ h => by cases role <;> exact h

/-- Settles O56: each update of a mailbox, a queue, a context or an emit record keeps the law of that record, and a context
keeps its write open. -/
theorem everyStepKeepsTheBufferStoreLaw : Obligations.EveryStepKeepsTheBufferStoreLaw :=
  fun _ _ hstep hrange h => buffers_stepInvariant.step hstep (fun _ => hrange) h

end Sys2Proof.Machine
end

section
/-! Every step keeps the law of the notice queue (R164, R165). -/

set_option Elab.async false

namespace Sys2Proof.Machine

/-! ## Ids -/

/-- The id found is the first from `c` on that no entry holds, when one of the next `fuel` ids is free. -/
theorem freshId_spec (ids : List (BitVec 8)) (c : BitVec 8) (fuel : Nat) :
    ∃ m, m ≤ fuel ∧ freshId ids c fuel = c + BitVec.ofNat 8 m ∧ (∀ l, l < m → c + BitVec.ofNat 8 l ∈ ids) ∧
      (m < fuel → c + BitVec.ofNat 8 m ∉ ids) := by
  induction fuel generalizing c with
  | zero => exact ⟨0, le_rfl, by simp [freshId], by simp, by simp⟩
  | succ fuel ih =>
    have hshift : ∀ l, c + 1 + BitVec.ofNat 8 l = c + BitVec.ofNat 8 (l + 1) := fun l => by
      apply BitVec.eq_of_toNat_eq
      have hone : (1 : BitVec 8).toNat = 1 := rfl
      simp only [BitVec.toNat_add, BitVec.toNat_ofNat, hone]
      omega
    unfold freshId
    split
    · rename_i hc
      obtain ⟨m, hm, hid, hbefore, hfree⟩ := ih (c + 1)
      refine ⟨m + 1, by omega, hid.trans (hshift m), fun l hl => ?_, fun h => hshift m ▸ hfree (by omega)⟩
      cases l with
      | zero => simpa using hc
      | succ l => exact hshift l ▸ hbefore l (by omega)
    · rename_i hc
      exact ⟨0, by omega, by simp, by simp, fun _ => by simpa using hc⟩

/-- Among fewer than 256 ids from `c` on, all held, there are at most as many as there are ids. -/
theorem length_of_held {ids : List (BitVec 8)} {c : BitVec 8} {m : Nat} (hm : m ≤ 256)
    (h : ∀ l, l < m → c + BitVec.ofNat 8 l ∈ ids) : m ≤ ids.length := by
  have hnodup : ((List.range m).map fun l => c + BitVec.ofNat 8 l).Nodup := by
    refine List.Nodup.map_on (fun x hx y hy hxy => ?_) List.nodup_range
    simp only [List.mem_range] at hx hy
    have := congrArg BitVec.toNat hxy
    simp only [BitVec.toNat_add, BitVec.toNat_ofNat] at this
    omega
  have hsub : ((List.range m).map fun l => c + BitVec.ofNat 8 l) ⊆ ids := by
    intro x hx
    simp only [List.mem_map, List.mem_range] at hx
    obtain ⟨l, hl, rfl⟩ := hx
    exact h l hl
  simpa using (hnodup.subperm hsub).length_le

/-- With fewer than 16 entries standing, the new id is held by none, and every id passed over is held. -/
theorem freshId_free {ids : List (BitVec 8)} (c : BitVec 8) (h : ids.length < 16) :
    ∃ m, m ≤ ids.length ∧ freshId ids c 16 = c + BitVec.ofNat 8 m ∧ freshId ids c 16 ∉ ids ∧
      ∀ l, l < m → c + BitVec.ofNat 8 l ∈ ids := by
  obtain ⟨m, hm, hid, hbefore, hfree⟩ := freshId_spec ids c 16
  have hle := length_of_held (by omega) hbefore
  exact ⟨m, hle, hid, hid ▸ hfree (by omega), hbefore⟩

/-! ## Raises -/

/-- An update of the entries that keeps kinds, subjects and ids keeps the law. -/
theorem lawful_map {u : NoticeUnit} {f : Notice → Notice} (hkind : ∀ e, (f e).kind = e.kind)
    (hsubject : ∀ e, (f e).subject = e.subject) (hid : ∀ e, (f e).id = e.id) (h : u.Lawful) :
    { u with entries := u.entries.map f }.Lawful := by
  obtain ⟨hlen, hkinds, hids⟩ := h
  refine ⟨by simpa using hlen, ?_, ?_⟩
  · simpa [List.map_map, Function.comp_def, hkind, hsubject] using hkinds
  · simpa [List.map_map, Function.comp_def, hid] using hids

theorem Notice.same_iff {e : Notice} {k : NoticeKind} {j : Subject} : e.same k j = true ↔ e.kind = k ∧ e.subject = j := by
  simp [Notice.same]

theorem lawful_raise {u : NoticeUnit} (k : NoticeKind) (j : Subject) (r : Round) (h : u.Lawful) : (u.raise k j r).Lawful := by
  unfold NoticeUnit.raise
  split
  · refine lawful_map (fun e => ?_) (fun e => ?_) (fun e => ?_) h <;> split <;> rfl
  · rename_i hnone
    split
    · rename_i hroom
      obtain ⟨hlen, hkinds, hids⟩ := h
      obtain ⟨m, -, -, hfree, -⟩ := freshId_free (ids := u.entries.map (·.id)) u.nextId (by simpa using hroom)
      have hnew : (k, j) ∉ u.entries.map fun e => (e.kind, e.subject) := by
        intro hmem
        obtain ⟨e, he, heq⟩ := List.mem_map.1 hmem
        cases heq
        exact hnone (List.any_eq_true.2 ⟨e, he, Notice.same_iff.2 ⟨rfl, rfl⟩⟩)
      refine ⟨by simpa using hroom, ?_, ?_⟩
      · simpa [List.nodup_append, hkinds] using fun e he h1 h2 => hnew (List.mem_map.2 ⟨e, he, by rw [h1, h2]⟩)
      · simp only [List.map_append, List.map_cons, List.map_nil]
        exact hids.append (by simp) (by simpa using hfree)
    · exact h

theorem lawful_filter {u : NoticeUnit} (p : Notice → Bool) (b : Bool) (h : u.Lawful) :
    { u with entries := u.entries.filter p, overflow := b }.Lawful := by
  obtain ⟨hlen, hkinds, hids⟩ := h
  have hsub : List.Sublist (u.entries.filter p) u.entries := List.filter_sublist
  exact ⟨hsub.length_le.trans hlen, hkinds.sublist (hsub.map _), hids.sublist (hsub.map _)⟩

theorem lawful_started : NoticeUnit.started.Lawful := by
  simp [NoticeUnit.Lawful, NoticeUnit.started]

/-- The notice queue is changed by raises, countdowns, transmissions and acknowledgments alone. -/
theorem noticeQueue_stepInvariant : StepInvariant False (fun s => s.notices.Lawful) where
  powerOn := fun _ _ _ => lawful_started
  restart := fun _ _ _ _ _ => lawful_started
  raise := fun _ _ _ h => lawful_raise _ _ _ h
  countDown := fun _ h => lawful_map (fun _ => rfl) (fun _ => rfl) (fun _ => rfl) h
  markSent := fun _ e h => lawful_map (fun x => by split <;> rfl) (fun x => by split <;> rfl) (fun x => by split <;> rfl) h
  acknowledge := fun _ _ h => lawful_filter _ _ h
  admission := fun s id h => by
    rcases admitParty_cases s id with ⟨i, q, he, -⟩ | ⟨he, -⟩ <;> rw [he] <;> exact h
  endClaim := fun s h => by
    obtain ⟨ps, rs, c, he⟩ := abandonCheck_frame (s.withClaim none)
    rw [he]
    exact h
  finishCheck := fun s _ _ _ c status results _ _ _ h => by
    obtain ⟨ps, rs, he⟩ := giveDeferred_frame (s.withCheck c) status results
    rw [he]
    exact h
  disturbRecord := fun s role _ _ h => by cases role <;> exact h

/-- Settles O57: an L round start, a lapse or a request reaches the notice queue only through the updates that keep its
law. -/
theorem everyStepKeepsTheNoticeQueueLaw : Obligations.EveryStepKeepsTheNoticeQueueLaw :=
  fun _ _ hstep h => noticeQueue_stepInvariant.step hstep (fun hfalse => hfalse.elim) h

end Sys2Proof.Machine
end

section
/-! The party table and the deferred response: who is found, who is evicted, who has an outstanding sequence (R135 to R137,
R143, R144). -/

set_option Elab.async false

namespace Sys2Proof.Machine

/-! ## Positions found -/

theorem find?_finRange_eq_some {n : Nat} {p : Fin n → Bool} {i : Fin n} :
    (List.finRange n).find? p = some i ↔ p i = true ∧ ∀ j, j < i → p j = false := by
  simp only [List.find?_eq_some_iff_getElem, List.getElem_finRange, List.length_finRange, Bool.not_eq_true']
  constructor
  · rintro ⟨hp, k, hk, rfl, hbefore⟩
    exact ⟨hp, fun j hj => hbefore j hj⟩
  · rintro ⟨hp, hbefore⟩
    exact ⟨hp, i.val, i.isLt, rfl, fun j hj => hbefore ⟨j, by omega⟩ hj⟩

theorem partyAt_iff {s : State} {id : PartyId} {i : Fin 8} :
    s.partyAt id i = true ↔ ∃ q, s.parties[i] = some q ∧ q.id = id := by
  unfold State.partyAt
  cases s.parties[i] <;> simp

theorem findParty_eq_none {s : State} {id : PartyId} :
    s.findParty id = none ↔ ∀ (j : Fin 8) (q : Party), s.parties[j] = some q → q.id ≠ id := by
  simp only [State.findParty, List.find?_eq_none, List.mem_finRange, forall_const, partyAt_iff, not_exists, not_and, ne_eq]

theorem findParty_of {s : State} {id : PartyId} {i : Fin 8} {q : Party} (hs : s.PartiesLawful) (hq : s.parties[i] = some q)
    (hid : q.id = id) : s.findParty id = some i := by
  cases hf : s.findParty id with
  | none => exact absurd hid (findParty_eq_none.1 hf i q hq)
  | some j =>
    obtain ⟨x, hx, hxid⟩ := partyAt_iff.1 (List.find?_some hf)
    rw [hs.1 i j q x hq hx (hid.trans hxid.symm)]

theorem freePosition_eq_some {s : State} {i : Fin 8} :
    s.freePosition = some i ↔ s.parties[i] = none ∧ ∀ j : Fin 8, j < i → s.parties[j] ≠ none := by
  rw [State.freePosition, find?_finRange_eq_some]
  simp only [Option.isNone_iff_eq_none, Option.isNone_eq_false_iff, Option.isSome_iff_ne_none]

theorem freePosition_eq_none {s : State} : s.freePosition = none ↔ ∀ j : Fin 8, s.parties[j] ≠ none := by
  simp only [State.freePosition, List.find?_eq_none, List.mem_finRange, forall_const, Option.isNone_iff_eq_none, ne_eq]

/-! ## The victim of an eviction -/

/-- The candidate of a list with the largest idle rounds, the lowest position among equals. -/
def MostIdle (l : List (Fin 8 × BitVec 8)) (x : Fin 8 × BitVec 8) : Prop :=
  x ∈ l ∧ ∀ c ∈ l, c.2 ≤ x.2 ∧ (c.2 = x.2 → x.1 ≤ c.1)

theorem mostIdle_unique {l : List (Fin 8 × BitVec 8)} {x y : Fin 8 × BitVec 8} (hx : MostIdle l x) (hy : MostIdle l y) :
    x.1 = y.1 := by
  obtain ⟨hxy, htie⟩ := hy.2 x hx.1
  obtain ⟨hyx, htie'⟩ := hx.2 y hy.1
  have heq : x.2 = y.2 := BitVec.le_antisymm hxy hyx
  exact le_antisymm (htie' heq.symm) (htie heq)

/-- Candidates taken in the order of their positions: the fold keeps the most idle one. -/
theorem foldl_moreIdle {l : List (Fin 8 × BitVec 8)} {b : Fin 8 × BitVec 8} (h : (b :: l).Pairwise (·.1 < ·.1)) :
    ∃ x, l.foldl moreIdle (some b) = some x ∧ MostIdle (b :: l) x := by
  induction l generalizing b with
  | nil => exact ⟨b, rfl, by simp, by simp⟩
  | cons c l ih =>
    have hbc : b.1 < c.1 := List.rel_of_pairwise_cons h (by simp)
    by_cases hlt : b.2 < c.2
    · obtain ⟨x, hx, hmem, hmost⟩ := ih (List.Pairwise.of_cons h)
      refine ⟨x, by simpa [moreIdle, hlt] using hx, List.mem_cons_of_mem _ hmem, List.forall_mem_cons.2 ⟨?_, hmost⟩⟩
      have hcx := (hmost c (by simp)).1
      have hbx : b.2 < x.2 := by bv_omega
      exact ⟨BitVec.le_of_lt hbx, fun he => absurd (he ▸ hbx) (BitVec.lt_irrefl _)⟩
    · obtain ⟨x, hx, hmem, hmost⟩ := ih (b := b) (h.sublist (by simp))
      obtain ⟨hb, htie⟩ := hmost b (by simp)
      have hcb : c.2 ≤ b.2 := BitVec.not_lt.1 hlt
      refine ⟨x, by simpa [moreIdle, hlt] using hx, ?_, fun d hd => ?_⟩
      · rcases List.mem_cons.1 hmem with rfl | hmem
        · simp
        · simp [hmem]
      · rcases List.mem_cons.1 hd with rfl | hd
        · exact ⟨hb, htie⟩
        rcases List.mem_cons.1 hd with rfl | hd
        · refine ⟨BitVec.le_trans hcb hb, fun he => ?_⟩
          exact le_of_lt (lt_of_le_of_lt (htie (BitVec.le_antisymm hb (he ▸ hcb))) hbc)
        · exact hmost d (by simp [hd])

/-- The positions that may be evicted, with their idle rounds, in order. -/
def State.candidates (s : State) : List (Fin 8 × BitVec 8) :=
  (List.finRange 8).filterMap fun i => (s.evictable i).map (i, ·)

theorem evictable_eq_some {s : State} {i : Fin 8} {k : BitVec 8} :
    s.evictable i = some k ↔ ∃ q, s.parties[i] = some q ∧ s.claim ≠ some q.id ∧ q.outstanding = none ∧ q.idle = k := by
  unfold State.evictable
  cases s.parties[i] with
  | none => simp
  | some q => simp [and_assoc]

theorem mem_candidates {s : State} {i : Fin 8} {k : BitVec 8} : (i, k) ∈ s.candidates ↔ s.evictable i = some k := by
  simp [State.candidates]

theorem candidates_pairwise (s : State) : s.candidates.Pairwise (·.1 < ·.1) := by
  refine List.Pairwise.filterMap _ ?_ (List.pairwise_lt_finRange 8)
  intro i j hij x hx y hy
  obtain ⟨_, -, rfl⟩ := Option.map_eq_some_iff.1 hx
  obtain ⟨_, -, rfl⟩ := Option.map_eq_some_iff.1 hy
  exact hij

theorem victim_mostIdle {s : State} {x : Fin 8 × BitVec 8} (hx : x ∈ s.candidates) :
    ∃ y, s.victim = some y.1 ∧ MostIdle s.candidates y := by
  have hsorted := candidates_pairwise s
  unfold State.victim
  change ∃ y, (s.candidates.foldl moreIdle none).map (·.1) = _ ∧ _
  cases hc : s.candidates with
  | nil => simp [hc] at hx
  | cons b l =>
    obtain ⟨y, hy, hmost⟩ := foldl_moreIdle (hc ▸ hsorted)
    exact ⟨y, by rw [List.foldl_cons, moreIdle, hy, Option.map_some], hmost⟩

theorem victim_evictable {s : State} {i : Fin 8} (h : s.victim = some i) : ∃ k, s.evictable i = some k := by
  cases hc : s.candidates with
  | nil =>
    have hv : s.victim = (s.candidates.foldl moreIdle none).map (·.1) := rfl
    simp [hc, h] at hv
  | cons b l =>
    obtain ⟨y, hy, hmost⟩ := victim_mostIdle (s := s) (x := b) (by simp [hc])
    obtain rfl : i = y.1 := by simpa [h] using hy
    exact ⟨y.2, mem_candidates.1 hmost.1⟩

/-! ## The outstanding sequence -/

theorem outstandingParty_eq_some {s : State} {i : Fin 8} {q : Party} {n : Seq} (h : s.outstandingParty = some (i, q, n)) :
    s.parties[i] = some q ∧ q.outstanding = some n := by
  obtain ⟨j, -, hj⟩ := List.exists_of_findSome?_eq_some h
  split at hj
  · obtain ⟨m, hm, he⟩ := Option.map_eq_some_iff.1 hj
    cases he
    exact ⟨‹_›, hm⟩
  · cases hj

theorem outstandingParty_eq_none {s : State} : s.outstandingParty = none ↔
    ∀ (i : Fin 8) (q : Party), s.parties[i] = some q → q.outstanding = none := by
  simp only [State.outstandingParty, List.findSome?_eq_none_iff, List.mem_finRange, forall_const]
  refine forall_congr' fun i => ?_
  cases s.parties[i] <;> simp

/-- A sequence outstanding at one position alone. -/
theorem outstandingParty_of_unique {s : State} {i : Fin 8} {q : Party} {n : Seq} (hq : s.parties[i] = some q)
    (hn : q.outstanding = some n)
    (honly : ∀ (j : Fin 8) (y : Party) m, s.parties[j] = some y → y.outstanding = some m → j = i) :
    s.outstandingParty = some (i, q, n) := by
  cases ho : s.outstandingParty with
  | none => exact absurd hn (by simp [outstandingParty_eq_none.1 ho i q hq])
  | some x =>
    obtain ⟨j, y, m⟩ := x
    obtain ⟨hy, hm⟩ := outstandingParty_eq_some ho
    obtain rfl := honly j y m hy hm
    obtain rfl : y = q := by simpa [hy] using hq
    obtain rfl : m = n := by simpa [hm] using hn
    rfl

/-- With the laws, an outstanding sequence is that of one party alone. -/
theorem outstanding_unique {s : State} {i j : Fin 8} {q y : Party} {n m : Seq} (hs : s.PartiesLawful) (hc : s.CheckLawful)
    (hq : s.parties[i] = some q) (hn : q.outstanding = some n) (hy : s.parties[j] = some y) (hm : y.outstanding = some m) :
    j = i := by
  obtain ⟨f, rb, hchecks⟩ := hc.2 i q n hq hn
  obtain ⟨f', rb', hchecks'⟩ := hc.2 j y m hy hm
  have hid : y.id = q.id := by simp_all
  exact hs.1 j i y q hy hq hid

theorem outstandingParty_of {s : State} {i : Fin 8} {q : Party} {n : Seq} (hs : s.PartiesLawful) (hc : s.CheckLawful)
    (hq : s.parties[i] = some q) (hn : q.outstanding = some n) : s.outstandingParty = some (i, q, n) :=
  outstandingParty_of_unique hq hn fun _ _ _ hy hm => outstanding_unique hs hc hq hn hy hm

/-- The party that the deferred response answers, after it. -/
def Party.answered (q : Party) (n : Seq) (status : Status) (results : List Word) : Party :=
  { q with outstanding := none
           cached := if q.lastSeq = some n then some { status, seq := n, code := Req.check.code, results } else q.cached }

theorem giveDeferred_of_none {s : State} (h : s.outstandingParty = none) (status : Status) (results : List Word) :
    s.giveDeferred status results = s := by
  simp only [State.giveDeferred, h]

theorem giveDeferred_of_some {s : State} {i : Fin 8} {q : Party} {n : Seq} (h : s.outstandingParty = some (i, q, n))
    (status : Status) (results : List Word) : s.giveDeferred status results =
      let t := s.withParty i (some (q.answered n status results))
      if s.portRunning q.id.port then
        t.enqueue q.id.port
          { station := q.id.station, reply := { status, seq := n, code := Req.check.code, results }, mark := none }
      else t := by
  simp only [State.giveDeferred, h]
  rfl

/-! ## O51 -/

theorem admitted_eq_of_admitParty {s t : State} {r : Request} {i : Fin 8} (h : s.admitParty (requestParty r) = (t, some i)) :
    s.admitted r = t ∧ (s.admitParty (requestParty r)).2 = some i := by
  simp [State.admitted, h]

/-- Of two positions taken, one may be evicted: only the claim holder, who stands at one position, may not. -/
theorem exists_candidate {s : State} (hs : s.PartiesLawful) (hc : s.CheckLawful) (hfull : ∀ j : Fin 8, s.parties[j] ≠ none) :
    ∃ x, x ∈ s.candidates := by
  obtain ⟨x, hx⟩ := Option.ne_none_iff_exists'.1 (hfull 0)
  obtain ⟨y, hy⟩ := Option.ne_none_iff_exists'.1 (hfull 1)
  have hfree : ∀ (i : Fin 8) (q : Party), s.parties[i] = some q → s.claim ≠ some q.id → ∃ x, x ∈ s.candidates := fun i q hq hclaim => by
    refine ⟨(i, q.idle), mem_candidates.2 (evictable_eq_some.2 ⟨q, hq, hclaim, ?_, rfl⟩)⟩
    cases hn : q.outstanding with
    | none => rfl
    | some n =>
      obtain ⟨f, rb, hchecks⟩ := hc.2 i q n hq hn
      exact absurd (hc.1 _ _ _ hchecks) hclaim
  by_cases hclaim : s.claim = some x.id
  · refine hfree 1 y hy fun hclaim' => ?_
    have hid : x.id = y.id := by simpa [hclaim] using hclaim'
    exact absurd (hs.1 0 1 x y hx hy hid) (by decide)
  · exact hfree 0 x hx hclaim

/-- Settles O51: the four outcomes of the search for a position, each read off the definition that finds it. -/
theorem partiesAreFoundOrAdmitted : Obligations.PartiesAreFoundOrAdmitted := by
  intro r s hs hc own placed new absent victim
  have hadmit : ∀ {t i}, s.admitParty own = (t, some i) → s.admitted r = t ∧ (s.admitParty own).2 = some i :=
    admitted_eq_of_admitParty
  refine ⟨fun i q hq hid => hadmit ?_, fun i habsent hfree hlow => hadmit ?_, fun i q habsent hfull hvictim hmost => hadmit ?_, ?_⟩
  · simp [State.admitParty, findParty_of hs hq hid, updateParty_self _ hq, State.withParty]
  · simp only [State.admitParty, findParty_eq_none.2 habsent, freePosition_eq_some.2 ⟨hfree, hlow⟩]
    rfl
  · have hmine : MostIdle s.candidates (i, q.idle) := by
      obtain ⟨hq, hclaim, hout⟩ := hvictim
      refine ⟨mem_candidates.2 (evictable_eq_some.2 ⟨q, hq, hclaim, hout, rfl⟩), fun ⟨j, k⟩ hj => ?_⟩
      obtain ⟨x, hx, hxclaim, hxout, rfl⟩ := evictable_eq_some.1 (mem_candidates.1 hj)
      exact hmost j x ⟨hx, hxclaim, hxout⟩
    obtain ⟨y, hy, hmosty⟩ := victim_mostIdle hmine.1
    rw [← mostIdle_unique hmine hmosty] at hy
    simp only [State.admitParty, findParty_eq_none.2 habsent, freePosition_eq_none.2 hfull, hy]
    rfl
  · rcases admitParty_cases s own with ⟨i, q, hadmitted, -⟩ | ⟨-, -, hfree, hnone⟩
    · exact ⟨i, by rw [hadmitted]⟩
    · obtain ⟨x, hx⟩ := exists_candidate hs hc (freePosition_eq_none.1 hfree)
      obtain ⟨y, hy, -⟩ := victim_mostIdle hx
      simp [hnone] at hy

end Sys2Proof.Machine
end

section
/-! Every step keeps the laws of the response queues, the party table, the claim and the check (R135, R140, R143, R145). -/

set_option Elab.async false

namespace Sys2Proof.Machine

/-- The laws of the management agent as one about its quantities. -/
structure ManagementLaw (responses : PerPort (List Response)) (parties : Vector (Option Party) 8) (claim : Option PartyId)
    (check : CheckState) : Prop where
  bounded : ∀ p, (responses.get p).length ≤ 8
  distinct : ∀ i j : Fin 8, ∀ q r : Party, parties[i] = some q → parties[j] = some r → q.id = r.id → i = j
  holder : ∀ id, claim = some id → ∃ i : Fin 8, ∃ q : Party, parties[i] = some q ∧ q.id = id
  checker : ∀ p f rb, check = .checking p f rb → claim = some p
  outstanding : ∀ i : Fin 8, ∀ q n, parties[i] = some q → q.outstanding = some n → ∃ f rb, check = .checking q.id f rb

theorem managementLaw_iff {s : State} : (s.ResponsesLawful ∧ s.PartiesLawful ∧ s.CheckLawful) ↔
    ManagementLaw s.responses s.parties s.claim s.checkState :=
  ⟨fun ⟨hr, ⟨hd, hh⟩, hc, ho⟩ => ⟨hr, hd, hh, hc, ho⟩,
    fun ⟨hr, hd, hh, hc, ho⟩ => ⟨hr, ⟨hd, hh⟩, hc, ho⟩⟩

namespace ManagementLaw

variable {rs rs' : PerPort (List Response)} {ps ps' : Vector (Option Party) 8} {claim claim' : Option PartyId}
  {check check' : CheckState}

theorem started : ManagementLaw ⟨[], []⟩ (Vector.replicate 8 none) none .unchecked where
  bounded := fun p => by cases p <;> simp [PerPort.get]
  distinct := by simp
  holder := by simp
  checker := by simp
  outstanding := by simp

theorem set_responses (h : ManagementLaw rs ps claim check) {p : Port} {l : List Response} (hl : l.length ≤ 8) :
    ManagementLaw (rs.set p l) ps claim check where
  bounded := fun q => by
    rw [PerPort.get_set]
    split
    · exact hl
    · exact h.bounded q
  distinct := h.distinct
  holder := h.holder
  checker := h.checker
  outstanding := h.outstanding

/-- The check state changes outside CHECKING: no sequence is outstanding then. -/
theorem of_not_checking (h : ManagementLaw rs ps claim check) (hnot : ∀ p f rb, check ≠ .checking p f rb)
    (hnot' : ∀ p f rb, check' ≠ .checking p f rb) : ManagementLaw rs ps claim check' where
  bounded := h.bounded
  distinct := h.distinct
  holder := h.holder
  checker := fun p f rb hc => absurd hc (hnot' p f rb)
  outstanding := fun i q n hq hn => by
    obtain ⟨f, rb, hc⟩ := h.outstanding i q n hq hn
    exact absurd hc (hnot _ f rb)

theorem free_claim (h : ManagementLaw rs ps claim check) (hnot : ∀ p f rb, check ≠ .checking p f rb) :
    ManagementLaw rs ps none check where
  bounded := h.bounded
  distinct := h.distinct
  holder := by simp
  checker := fun p f rb hc => absurd hc (hnot p f rb)
  outstanding := h.outstanding

/-- Records changed where they stand, each keeping its party. -/
theorem of_map (h : ManagementLaw rs ps claim check) (f : Fin 8 → Party → Party) (hid : ∀ i q, (f i q).id = q.id)
    (hps : ∀ i : Fin 8, ps'[i] = ps[i].map (f i))
    (hout : ∀ (i : Fin 8) q n, ps[i] = some q → (f i q).outstanding = some n → ∃ g rb, check' = .checking q.id g rb)
    (hchecker : ∀ p g rb, check' = .checking p g rb → claim = some p) : ManagementLaw rs ps' claim check' where
  bounded := h.bounded
  distinct := fun i j q r hi hj he => by
    rw [hps, Option.map_eq_some_iff] at hi hj
    obtain ⟨x, hx, rfl⟩ := hi
    obtain ⟨y, hy, rfl⟩ := hj
    exact h.distinct i j x y hx hy (by rw [← hid i, he, hid])
  holder := fun id hc => by
    obtain ⟨i, q, hq, rfl⟩ := h.holder id hc
    exact ⟨i, f i q, by rw [hps, hq, Option.map_some], hid i q⟩
  checker := hchecker
  outstanding := fun i q n hi hn => by
    rw [hps, Option.map_eq_some_iff] at hi
    obtain ⟨x, hx, rfl⟩ := hi
    obtain ⟨g, rb, hc⟩ := hout i x n hx hn
    exact ⟨g, rb, by rw [hid]; exact hc⟩

/-- Records changed where they stand, each keeping its party and its outstanding sequence. -/
theorem of_map_same (h : ManagementLaw rs ps claim check) (f : Fin 8 → Party → Party)
    (hf : ∀ i q, (f i q).id = q.id ∧ (f i q).outstanding = q.outstanding) (hps : ∀ i : Fin 8, ps'[i] = ps[i].map (f i)) :
    ManagementLaw rs ps' claim check :=
  h.of_map f (fun i q => (hf i q).1) hps (fun i q n hq hn => h.outstanding i q n hq ((hf i q).2 ▸ hn)) h.checker

/-- A party comes to a position that was free or could be evicted. -/
theorem of_admission (h : ManagementLaw rs ps claim check) (i : Fin 8) (id : PartyId)
    (hnew : ∀ (j : Fin 8) (q : Party), ps[j] = some q → q.id ≠ id) (hi : ∀ q, ps[i] = some q → claim ≠ some q.id) :
    ManagementLaw rs (ps.set i.val (some (.fresh id))) claim check := by
  have hget : ∀ (j : Fin 8) q, (ps.set i.val (some (.fresh id)))[j] = some q →
      j = i ∧ q = .fresh id ∨ j ≠ i ∧ ps[j] = some q := fun j q hq => by
    rw [Fin.getElem_fin, Vector.getElem_set] at hq
    split at hq <;> rename_i hij
    · exact .inl ⟨Fin.ext hij.symm, by simpa using hq.symm⟩
    · exact .inr ⟨fun he => hij (congrArg Fin.val he.symm), hq⟩
  constructor
  case bounded => exact h.bounded
  case checker => exact h.checker
  case distinct =>
    intro j k q r hj hk he
    rcases hget j q hj with ⟨rfl, rfl⟩ | ⟨-, hj'⟩ <;> rcases hget k r hk with ⟨rfl, rfl⟩ | ⟨-, hk'⟩
    · rfl
    · exact absurd he.symm (hnew k r hk')
    · exact absurd he (hnew j q hj')
    · exact h.distinct j k q r hj' hk' he
  case holder =>
    intro party hparty
    obtain ⟨j, q, hq, rfl⟩ := h.holder party hparty
    have hne : i.val ≠ j.val := fun he => hi q (Fin.ext he ▸ hq) hparty
    exact ⟨j, q, by rw [Fin.getElem_fin, Vector.getElem_set_ne _ _ hne]; exact hq, rfl⟩
  case outstanding =>
    intro j q n hj hn
    rcases hget j q hj with ⟨-, rfl⟩ | ⟨-, hj⟩
    · cases hn
    · exact h.outstanding j q n hj hn

end ManagementLaw

/-- The record at a position changed by `f`, the others standing. -/
def changeAt (i : Fin 8) (f : Party → Party) (j : Fin 8) : Party → Party := if j = i then f else id

theorem updateParty_get (s : State) (i j : Fin 8) (f : Party → Party) :
    (s.updateParty i f).parties[j] = s.parties[j].map (changeAt i f j) := by
  by_cases hij : j = i
  · subst hij
    simp [State.updateParty, State.withParty, changeAt]
  · rw [State.updateParty, withParty_parties_get_ne _ _ (Ne.symm hij)]
    simp [changeAt, hij]

theorem management_admission {s : State} (id : PartyId) (h : ManagementLaw s.responses s.parties s.claim s.checkState) :
    let t := (s.admitParty id).1
    ManagementLaw t.responses t.parties t.claim t.checkState := by
  dsimp only
  rcases admitParty_cases s id with ⟨i, q, he, -, -, hcases⟩ | ⟨he, -⟩ <;> rw [he]
  · rcases hcases with ⟨x, -, hx, rfl⟩ | ⟨hnew, rfl, hplace⟩
    · rw [← updateParty_self (fun y => { y with idle := 0 }) hx]
      exact h.of_map_same (changeAt i fun y => { y with idle := 0 })
        (fun j y => by unfold changeAt; split <;> exact ⟨rfl, rfl⟩) (updateParty_get s i · _)
    · refine h.of_admission i id (findParty_eq_none.1 hnew) fun x hx => ?_
      rcases hplace with hfree | ⟨-, hvictim⟩
      · simp [(freePosition_eq_some.1 hfree).1] at hx
      · obtain ⟨k, hk⟩ := victim_evictable hvictim
        obtain ⟨y, hy, hclaim, -⟩ := evictable_eq_some.1 hk
        obtain rfl : y = x := by simpa [hy] using hx
        exact hclaim
  · exact h

theorem management_enqueue {s : State} (p : Port) (x : Response)
    (h : ManagementLaw s.responses s.parties s.claim s.checkState) :
    let t := s.enqueue p x
    ManagementLaw t.responses t.parties t.claim t.checkState := by
  dsimp only
  rw [State.enqueue]
  split <;> rename_i hroom
  · refine h.set_responses ?_
    rw [State.hasRoom, decide_eq_true_eq] at hroom
    rw [List.length_append, List.length_singleton]
    exact hroom
  · exact h

/-- The end of a check: its deferred response leaves no sequence outstanding. -/
theorem management_giveDeferred {s : State} {c : CheckState}
    (status : Status) (results : List Word) {claim : Option PartyId}
    (hc : ∀ p f rb, c ≠ .checking p f rb) (hclaim : claim = s.claim ∨ claim = none)
    (h : ManagementLaw s.responses s.parties s.claim s.checkState) :
    let t := ((s.withClaim claim).withCheck c).giveDeferred status results
    ManagementLaw t.responses t.parties t.claim t.checkState := by
  dsimp only
  have hlaws := managementLaw_iff.2 h
  have hfreed : ∀ {rs ps}, ManagementLaw rs ps s.claim c → ManagementLaw rs ps claim c := fun hl => by
    rcases hclaim with rfl | rfl
    · exact hl
    · exact hl.free_claim hc
  have hparty : ((s.withClaim claim).withCheck c).outstandingParty = s.outstandingParty := rfl
  cases ho : s.outstandingParty with
  | none =>
    rw [giveDeferred_of_none (hparty.trans ho)]
    refine hfreed (h.of_map (fun _ => id) (fun _ _ => rfl) (by simp) (fun i q n hq hn => ?_) fun p f rb he => absurd he (hc p f rb))
    exact absurd hn (by simp [outstandingParty_eq_none.1 ho i q hq])
  | some x =>
    obtain ⟨i, q, n⟩ := x
    obtain ⟨hq, hn⟩ := outstandingParty_eq_some ho
    have hanswered : ManagementLaw s.responses (s.parties.set i.val (some (q.answered n status results))) s.claim c := by
      refine h.of_map (changeAt i fun y => { q.answered n status results with id := y.id }) ?_ (fun j => ?_)
        (fun j y m hy hm => ?_) fun p f rb he => absurd he (hc p f rb)
      · intro j y
        unfold changeAt
        split <;> rfl
      · rw [← updateParty_get, updateParty_self _ hq]
        rfl
      · unfold changeAt at hm
        split at hm <;> rename_i hj
        · cases hm
        · have hother := outstandingParty_of hlaws.2.1 hlaws.2.2 hy hm
          rw [ho] at hother
          cases hother
          exact absurd rfl hj
    rw [giveDeferred_of_some (hparty.trans ho)]
    dsimp only
    split
    · exact management_enqueue _ _ (hfreed hanswered)
    · exact hfreed hanswered

theorem management_abandonCheck {s : State} (h : ManagementLaw s.responses s.parties s.claim s.checkState) :
    let t := (s.withClaim none).abandonCheck
    ManagementLaw t.responses t.parties t.claim t.checkState := by
  dsimp only
  unfold State.abandonCheck
  split <;> rename_i hcheck
  case h_1 =>
    exact management_giveDeferred .abandoned [] (by simp) (.inr rfl) h
  all_goals exact h.free_claim (by simp_all [State.withClaim])

theorem not_checking_of_not_frozen {s : State} (h : s.frozen = false) (p : PartyId) (f : CheckFigures) (rb : List RecordRef) :
    s.checkState ≠ .checking p f rb := fun hc => by
  simp [State.frozen, hc] at h

theorem noteRead_checking {c : CheckState} {ref : RecordRef} {note : Bool} {p : PartyId} {f : CheckFigures} :
    (∃ rb, c.noteRead ref note = .checking p f rb) ↔ ∃ rb, c = .checking p f rb := by
  cases c <;> simp only [CheckState.noteRead]
  case checking => split <;> simp

theorem management_stepInvariant :
    StepInvariant False (fun s => ManagementLaw s.responses s.parties s.claim s.checkState) where
  powerOn := fun _ _ _ => .started
  restart := fun _ _ _ _ _ => .started
  lengthen := fun s p x hroom h => h.set_responses (by
    simp only [List.length_append, List.length_singleton]
    exact hroom)
  shorten := fun s p l hl h => h.set_responses (hl.trans (h.bounded p))
  admission := fun s id h => management_admission id h
  updateParty := fun s i f hf h => h.of_map_same (changeAt i f)
    (fun j q => by
      unfold changeAt
      split
      · exact hf q
      · exact ⟨rfl, rfl⟩) (updateParty_get s i · f)
  countIdle := fun s h => h.of_map_same (fun _ q => { q with idle := satInc q.idle }) (fun _ _ => ⟨rfl, rfl⟩) fun i => by
    rw [State.countIdle, Fin.getElem_fin, Vector.getElem_ofFn]
  grantClaim := fun s i q hq hfree h => by
    refine ⟨h.bounded, h.distinct, fun id hid => ⟨i, q, hq, by simpa [State.withClaim] using hid⟩, fun p f rb hc => ?_, h.outstanding⟩
    exact absurd (h.checker p f rb hc) (by simp [hfree])
  endClaim := fun s h => management_abandonCheck h
  takeCheck := fun s i q n hfrozen hq hclaim h => by
    refine h.of_map (changeAt i fun y => { y with outstanding := some n, cached := none }) ?_ (updateParty_get _ i · _) ?_ ?_
    · intro j y
      unfold changeAt
      split <;> rfl
    · intro j y m hy hm
      unfold changeAt at hm
      split at hm <;> rename_i hj
      · subst hj
        obtain rfl : y = q := by simpa [hq] using hy.symm
        exact ⟨_, _, rfl⟩
      · obtain ⟨f, rb, hc⟩ := h.outstanding j y m hy hm
        exact absurd hc (not_checking_of_not_frozen hfrozen _ f rb)
    · rintro p f rb hc
      cases hc
      exact hclaim
  finishCheck := fun s p f rb c status results _ _ hc h => by
    refine management_giveDeferred status results ?_ (.inl rfl) h
    rcases hc with rfl | ⟨x, ref, rfl⟩ <;> simp
  commit := fun s hpassed h => h.of_not_checking (by simp [hpassed]) (by simp [State.withCheck])
  cancelCommit := fun s hpending h => h.of_not_checking (by simp [hpending]) (by simp [State.withCheck])
  edit := fun s b hfrozen _ h => h.of_not_checking (not_checking_of_not_frozen hfrozen) (by simp [State.edited])
  exchange := fun s hpending h => h.of_not_checking (by simp [hpending]) (by simp)
  disturbRecord := fun s role ref note h => by
    cases role with
    | active => exact h
    | staged =>
      refine h.of_map (fun _ => id) (fun _ _ => rfl) (by simp [State.disturbRecord]) ?_ ?_
      · intro i q n hq hn
        obtain ⟨f, rb, hc⟩ := h.outstanding i q n hq hn
        exact ⟨f, noteRead_checking.2 ⟨rb, hc⟩⟩
      · intro p f rb hc
        obtain ⟨_, hs⟩ := noteRead_checking.1 ⟨rb, hc⟩
        exact h.checker _ _ _ hs

/-- Settles O58: each update of the agent keeps the laws of its queues, parties and check together. -/
theorem everyStepKeepsTheManagementLaw : Obligations.EveryStepKeepsTheManagementLaw := fun _ _ hstep hr hp hc =>
  managementLaw_iff.2 (management_stepInvariant.step hstep (fun hfalse => hfalse.elim) (managementLaw_iff.1 ⟨hr, hp, hc⟩))

end Sys2Proof.Machine
end

section
/-! The plan check as one ordered table of tests (5.3): what the checker finds is the first test of the table that fails. -/

set_option Elab.async false

namespace Sys2Proof.Machine

/-- A bank meets every test of Table 5-1; a record read before it was disturbed reads well (log entry 6). -/
structure Bank.Passes (b : Bank) (f : CheckFigures) (rb : List RecordRef) : Prop where
  parity : ∀ ref, ref ∉ rb → b.parityGood ref = true
  mailboxFits : ∀ (n : Fin 64) (d : MailboxDef), b.mailboxes[n].fields = some d → d.base + 2 * d.capacity ≤ 4096
  queueFits : ∀ (n : Fin 8) (d : QueueDef), b.queues[n].fields = some d → d.base + d.depth * d.capacity ≤ 4096
  mailboxesApart : ∀ (m n : Fin 64) (d e : MailboxDef), b.mailboxes[m].fields = some d → b.mailboxes[n].fields = some e →
    m ≠ n → d.base + 2 * d.capacity ≤ e.base ∨ e.base + 2 * e.capacity ≤ d.base
  queuesApart : ∀ (m n : Fin 8) (d e : QueueDef), b.queues[m].fields = some d → b.queues[n].fields = some e → m ≠ n →
    d.base + d.depth * d.capacity ≤ e.base ∨ e.base + e.depth * e.capacity ≤ d.base
  mailboxQueueApart : ∀ (m : Fin 64) (n : Fin 8) (d : MailboxDef) (e : QueueDef), b.mailboxes[m].fields = some d →
    b.queues[n].fields = some e → d.base + 2 * d.capacity ≤ e.base ∨ e.base + e.depth * e.capacity ≤ d.base
  captureTarget : ∀ (n : Fin 128) e, b.captures[n].fields = some e → b.placeDefined e.target = true
  captureSlot : ∀ (n : Fin 128) e, b.captures[n].fields = some e → e.slot ≤ f.slotCount e.port
  captureFree : ∀ (n : Fin 128) e, b.captures[n].fields = some e → f.reserved e.port e.slot = false
  emitSource : ∀ (n : Fin 128) e, b.emits[n].fields = some e → b.placeDefined e.source = true
  emitSlot : ∀ (n : Fin 128) e, b.emits[n].fields = some e → e.slot ≤ f.slotCount e.port
  emitFree : ∀ (n : Fin 128) e, b.emits[n].fields = some e → f.reserved e.port e.slot = false
  capturesApart : ∀ (m n : Fin 128) (d e : CaptureEntry), b.captures[m].fields = some d → b.captures[n].fields = some e →
    m ≠ n → d.port = e.port → d.slot = e.slot → d.rounds.overlaps e.rounds = false
  emitsApart : ∀ (m n : Fin 128) (d e : EmitEntry), b.emits[m].fields = some d → b.emits[n].fields = some e →
    m ≠ n → d.port = e.port → d.slot = e.slot → d.rounds.overlaps e.rounds = false
  notSelf : ∀ (m n : Fin 128) (d : CaptureEntry) (e : EmitEntry), b.captures[m].fields = some d →
    b.emits[n].fields = some e → d.port = e.port → d.slot = e.slot → d.rounds.overlaps e.rounds = false
  oneIngress : ∀ (m n : Fin 128) (d e : CaptureEntry), b.captures[m].fields = some d → b.captures[n].fields = some e →
    d.target = e.target → d.port = e.port
  oneEgress : ∀ (m n : Fin 128) (d e : EmitEntry) (k : Fin 8), b.emits[m].fields = some d → b.emits[n].fields = some e →
    d.source = .queue k → e.source = .queue k → d.port = e.port

/-! ## The first failure of a list -/

theorem findSome?_eq_some_getElem? {α β : Type} {l : List α} {g : α → Option β} {x : β} : l.findSome? g = some x ↔
    ∃ (i : Nat) (a : α), l[i]? = some a ∧ g a = some x ∧ ∀ j < i, ∀ a', l[j]? = some a' → g a' = none := by
  induction l with
  | nil => simp
  | cons c l ih =>
    rw [List.findSome?_cons]
    cases hc : g c with
    | some y =>
      constructor
      · rintro h
        exact ⟨0, c, rfl, hc.trans h, by simp⟩
      · rintro ⟨i, a, hi, ha, hbefore⟩
        cases i with
        | zero =>
          obtain rfl : c = a := by simpa using hi
          exact hc.symm.trans ha
        | succ i => exact absurd (hbefore 0 (by omega) c rfl) (by simp [hc])
    | none =>
      refine ih.trans ⟨?_, ?_⟩
      · rintro ⟨i, a, hi, ha, hbefore⟩
        refine ⟨i + 1, a, hi, ha, fun j hj a' ha' => ?_⟩
        cases j with
        | zero =>
          obtain rfl : c = a' := by simpa using ha'
          exact hc
        | succ j => exact hbefore j (by omega) a' ha'
      · rintro ⟨i, a, hi, ha, hbefore⟩
        cases i with
        | zero =>
          obtain rfl : c = a := by simpa using hi
          simp [hc] at ha
        | succ i => exact ⟨i, a, hi, ha, fun j hj a' ha' => hbefore (j + 1) (by omega) a' ha'⟩

theorem findSome?_eq_none_getElem? {α β : Type} {l : List α} {g : α → Option β} :
    l.findSome? g = none ↔ ∀ (i : Nat) (a : α), l[i]? = some a → g a = none := by
  rw [List.findSome?_eq_none_iff]
  exact ⟨fun h i a ha => h a (List.mem_of_getElem? ha), fun h a ha => (List.mem_iff_getElem?.1 ha).elim fun i hi => h i a hi⟩

theorem getElem?_map_finRange {n : Nat} {α : Type} {g : Fin n → α} {i : Nat} {a : α} :
    ((List.finRange n).map g)[i]? = some a ↔ ∃ k : Fin n, i = k ∧ g k = a := by
  simp only [List.getElem?_map, Option.map_eq_some_iff, List.getElem?_eq_some_iff, List.length_finRange, List.getElem_finRange]
  constructor
  · rintro ⟨_, ⟨hi, rfl⟩, rfl⟩
    exact ⟨⟨i, hi⟩, rfl, rfl⟩
  · rintro ⟨k, rfl, rfl⟩
    exact ⟨k, ⟨k.isLt, rfl⟩, rfl⟩

theorem faultWhen_eq_some {failed : Bool} {c : FaultCode} {r : RecordRef} {x : PlanFault} :
    faultWhen failed c r = some x ↔ failed = true ∧ (c, r) = x := by
  unfold faultWhen
  split <;> simp [*]

/-! ## Regions that meet -/

/-- The tests of step 3 on records some of which are defined: each region against those before it. -/
def overlapTests (seen : List (Nat × Nat)) : List (RecordRef × Option (Nat × Nat)) → List (Option PlanFault)
  | [] => []
  | (_, none) :: t => none :: overlapTests seen t
  | (r, some g) :: t => faultWhen (seen.any (regionsMeet g)) .regionOverlap r :: overlapTests (g :: seen) t

theorem overlapFault_eq (seen : List (Nat × Nat)) (l : List (RecordRef × Option (Nat × Nat))) :
    overlapFault seen (l.filterMap fun x => x.2.map (x.1, ·)) = (overlapTests seen l).findSome? id := by
  induction l generalizing seen with
  | nil => rfl
  | cons x t ih =>
    obtain ⟨r, _ | g⟩ := x
    · simpa [overlapTests] using ih seen
    · cases h : seen.any (regionsMeet g) <;> simp [overlapFault, overlapTests, faultWhen, h, ih]

theorem overlapTests_getElem? {seen : List (Nat × Nat)} {l : List (RecordRef × Option (Nat × Nat))} {i : Nat} {x : PlanFault} :
    (overlapTests seen l)[i]? = some (some x) ↔ ∃ r g, l[i]? = some (r, some g) ∧ (.regionOverlap, r) = x ∧
      ((∃ h ∈ seen, regionsMeet g h = true) ∨ ∃ j < i, ∃ r' h, l[j]? = some (r', some h) ∧ regionsMeet g h = true) := by
  induction l generalizing seen i with
  | nil => simp [overlapTests]
  | cons y t ih =>
    obtain ⟨r, og⟩ := y
    cases i with
    | zero =>
      cases og with
      | none => simp [overlapTests]
      | some g =>
        simp only [overlapTests, List.getElem?_cons_zero, Option.some.injEq, faultWhen_eq_some, List.any_eq_true, Prod.mk.injEq]
        constructor
        · rintro ⟨hmeet, rfl⟩
          exact ⟨r, g, ⟨rfl, rfl⟩, rfl, .inl hmeet⟩
        · rintro ⟨_, _, ⟨rfl, rfl⟩, rfl, hmeet | ⟨j, hj, -⟩⟩
          · exact ⟨hmeet, rfl⟩
          · exact absurd hj (by omega)
    | succ i =>
      cases og with
      | none =>
        simp only [overlapTests, List.getElem?_cons_succ, ih]
        refine exists_congr fun r' => exists_congr fun g => and_congr_right fun _ => and_congr_right fun _ => or_congr_right ?_
        constructor
        · rintro ⟨j, hj, h⟩
          exact ⟨j + 1, by omega, h⟩
        · rintro ⟨j, hj, h⟩
          cases j with
          | zero => simp at h
          | succ j => exact ⟨j, by omega, h⟩
      | some k =>
        simp only [overlapTests, List.getElem?_cons_succ, ih]
        refine exists_congr fun r' => exists_congr fun g => and_congr_right fun _ => and_congr_right fun _ => ?_
        constructor
        · rintro (⟨h, hmem, hmeet⟩ | ⟨j, hj, h⟩)
          · rcases List.mem_cons.1 hmem with rfl | hmem
            · exact .inr ⟨0, by omega, r, h, rfl, hmeet⟩
            · exact .inl ⟨h, hmem, hmeet⟩
          · exact .inr ⟨j + 1, by omega, h⟩
        · rintro (⟨h, hmem, hmeet⟩ | ⟨j, hj, r'', h, hat, hmeet⟩)
          · exact .inl ⟨h, List.mem_cons_of_mem _ hmem, hmeet⟩
          · cases j with
            | zero =>
              obtain ⟨-, rfl⟩ : r = r'' ∧ k = h := by simpa using hat
              exact .inl ⟨k, by simp, hmeet⟩
            | succ j => exact .inr ⟨j, by omega, r'', h, hat, hmeet⟩

theorem regionsMeet_iff {g h : Nat × Nat} : regionsMeet g h = true ↔ g.1 < h.1 + h.2 ∧ h.1 < g.1 + g.2 := by
  simp [regionsMeet]

/-! ## The table -/

namespace Bank

variable (b : Bank) (f : CheckFigures) (rb : List RecordRef)

/-- The records of step 3 with their regions, undefined ones without. -/
def regionTable : List (RecordRef × Option (Nat × Nat)) :=
  ((List.finRange 64).map fun n => (.mailbox n, b.mailboxes[n].fields.map MailboxDef.region)) ++
  ((List.finRange 8).map fun n => (.queue n, b.queues[n].fields.map QueueDef.region))

/-- The tests of a step of Table 5-1, record by record. -/
def stepTests : Nat → List (List (Option PlanFault))
  | 1 => (List.finRange 64).map fun n => [b.readFault rb (.mailbox n),
      b.mailboxes[n].fields.bind fun d => faultWhen (!regionFits d.region) .regionRange (.mailbox n)]
  | 2 => (List.finRange 8).map fun n => [b.readFault rb (.queue n),
      b.queues[n].fields.bind fun d => faultWhen (!regionFits d.region) .regionRange (.queue n)]
  | 3 => (overlapTests [] b.regionTable).map ([·])
  | 4 => (List.finRange 128).map fun n => [b.readFault rb (.capture n),
      b.captures[n].fields.bind fun e => faultWhen (!b.placeDefined e.target) .noTarget (.capture n),
      b.captures[n].fields.bind fun e => faultWhen (f.slotCount e.port < e.slot) .slotRange (.capture n),
      b.captures[n].fields.bind fun e => faultWhen (f.reserved e.port e.slot) .reservedSlot (.capture n),
      b.captures[n].fields.bind fun e => faultWhen (b.captureClash n e) .captureOverlap (.capture n)]
  | 5 => (List.finRange 128).map fun n => [b.readFault rb (.emit n),
      b.emits[n].fields.bind fun e => faultWhen (!b.placeDefined e.source) .noTarget (.emit n),
      b.emits[n].fields.bind fun e => faultWhen (f.slotCount e.port < e.slot) .slotRange (.emit n),
      b.emits[n].fields.bind fun e => faultWhen (f.reserved e.port e.slot) .reservedSlot (.emit n),
      b.emits[n].fields.bind fun e => faultWhen (b.emitClash n e) .emitOverlap (.emit n),
      b.emits[n].fields.bind fun e => faultWhen (b.selfClash e) .selfSlot (.emit n)]
  | 6 => ((List.finRange 64).map fun n => [b.ingressFault (.mailbox n)]) ++
      ((List.finRange 8).map fun n => [b.ingressFault (.queue n)])
  | 7 => (List.finRange 8).map fun n => [b.egressFault n]
  | _ => []

theorem findSome?_map_tests {α β : Type} {l : List α} {p : α → Option β} {q : α → List (Option β)}
    (h : ∀ n, p n = (q n).findSome? id) : l.findSome? p = (l.map q).findSome? (·.findSome? id) := by
  rw [List.findSome?_map]
  exact congrArg (l.findSome? ·) (funext h)

theorem findSome?_pair {α : Type} (a c : Option α) : a.or c = [a, c].findSome? id := by cases a <;> cases c <;> rfl

theorem findSome?_one {α : Type} (a : Option α) : a = [a].findSome? id := by cases a <;> rfl

theorem check_eq : b.check f rb =
    [1, 2, 3, 4, 5, 6, 7].findSome? fun step => (b.stepTests f rb step).findSome? (·.findSome? id) := by
  have h1 : (List.finRange 64).findSome? (b.step1 rb) = (b.stepTests f rb 1).findSome? (·.findSome? id) :=
    findSome?_map_tests fun n => findSome?_pair _ _
  have h2 : (List.finRange 8).findSome? (b.step2 rb) = (b.stepTests f rb 2).findSome? (·.findSome? id) :=
    findSome?_map_tests fun n => findSome?_pair _ _
  have h3 : overlapFault [] b.regions = (b.stepTests f rb 3).findSome? (·.findSome? id) := by
    have hregions : b.regions = b.regionTable.filterMap fun x => x.2.map (x.1, ·) := by
      simp [regions, regionTable, List.filterMap_append, List.filterMap_map, Function.comp_def, Option.map_map]
    rw [hregions, overlapFault_eq]
    exact findSome?_map_tests findSome?_one
  have h4 : (List.finRange 128).findSome? (b.step4 rb f) = (b.stepTests f rb 4).findSome? (·.findSome? id) := by
    rw [stepTests]
    refine findSome?_map_tests fun n => ?_
    simp only [step4]
    cases b.captures[n].fields <;> cases b.readFault rb (.capture n) <;> rfl
  have h5 : (List.finRange 128).findSome? (b.step5 rb f) = (b.stepTests f rb 5).findSome? (·.findSome? id) := by
    rw [stepTests]
    refine findSome?_map_tests fun n => ?_
    simp only [step5]
    cases b.emits[n].fields <;> cases b.readFault rb (.emit n) <;> rfl
  have h6 : ((List.finRange 64).findSome? fun n => b.ingressFault (.mailbox n)).or
      ((List.finRange 8).findSome? fun n => b.ingressFault (.queue n)) =
      (b.stepTests f rb 6).findSome? (·.findSome? id) := by
    rw [stepTests, List.findSome?_append]
    exact congrArg₂ Option.or (findSome?_map_tests fun n => findSome?_one _) (findSome?_map_tests fun n => findSome?_one _)
  have h7 : (List.finRange 8).findSome? b.egressFault = (b.stepTests f rb 7).findSome? (·.findSome? id) :=
    findSome?_map_tests fun n => findSome?_one _
  rw [check, checkSteps, h1, h2, h3, h4, h5, h6, h7]
  simp only [List.findSome?_cons, List.findSome?_nil, id]

/-! ## What each test asks -/

variable {b f rb}

theorem readFault_eq_some {r : RecordRef} {x : PlanFault} :
    b.readFault rb r = some x ↔ (b.parityGood r = false ∧ r ∉ rb) ∧ (.parity, r) = x := by
  simp [readFault, faultWhen_eq_some]

theorem bind_faultWhen_eq_some {α : Type} {o : Option α} {failed : α → Bool} {c : FaultCode} {r : RecordRef} {x : PlanFault} :
    (o.bind fun d => faultWhen (failed d) c r) = some x ↔ ∃ d, o = some d ∧ failed d = true ∧ (c, r) = x := by
  simp only [Option.bind_eq_some_iff, faultWhen_eq_some]

theorem mem_captureList {n : Fin 128} {e : CaptureEntry} : (n, e) ∈ b.captureList ↔ b.captures[n].fields = some e := by
  simp [captureList]

theorem mem_emitList {n : Fin 128} {e : EmitEntry} : (n, e) ∈ b.emitList ↔ b.emits[n].fields = some e := by
  simp [emitList]

theorem captureClash_iff {n : Fin 128} {e : CaptureEntry} : b.captureClash n e = true ↔ ∃ (m : Fin 128) (d : CaptureEntry),
    m < n ∧ b.captures[m].fields = some d ∧ d.port = e.port ∧ d.slot = e.slot ∧ d.rounds.overlaps e.rounds = true := by
  simp only [captureClash, List.any_eq_true, Prod.exists, mem_captureList, Bool.and_eq_true, decide_eq_true_eq, clash_iff]
  exact exists_congr fun m => exists_congr fun d => and_left_comm

theorem emitClash_iff {n : Fin 128} {e : EmitEntry} : b.emitClash n e = true ↔ ∃ (m : Fin 128) (d : EmitEntry),
    m < n ∧ b.emits[m].fields = some d ∧ d.port = e.port ∧ d.slot = e.slot ∧ d.rounds.overlaps e.rounds = true := by
  simp only [emitClash, List.any_eq_true, Prod.exists, mem_emitList, Bool.and_eq_true, decide_eq_true_eq, clash_iff]
  exact exists_congr fun m => exists_congr fun d => and_left_comm

theorem selfClash_iff {e : EmitEntry} : b.selfClash e = true ↔ ∃ (m : Fin 128) (d : CaptureEntry),
    b.captures[m].fields = some d ∧ d.port = e.port ∧ d.slot = e.slot ∧ d.rounds.overlaps e.rounds = true := by
  simp only [selfClash, List.any_eq_true, Prod.exists, mem_captureList, clash_iff]

theorem capturedFrom_iff {k : Place} {p : Port} : b.capturedFrom k p = true ↔ ∃ (m : Fin 128) (d : CaptureEntry),
    b.captures[m].fields = some d ∧ d.port = p ∧ d.target = k := by
  simp only [capturedFrom, List.any_eq_true, Prod.exists, mem_captureList, Bool.and_eq_true, decide_eq_true_eq]
  exact exists_congr fun m => exists_congr fun d => and_congr_right fun _ => and_comm

theorem emittedOn_iff {k : Place} {p : Port} : b.emittedOn k p = true ↔ ∃ (m : Fin 128) (d : EmitEntry),
    b.emits[m].fields = some d ∧ d.port = p ∧ d.source = k := by
  simp only [emittedOn, List.any_eq_true, Prod.exists, mem_emitList, Bool.and_eq_true, decide_eq_true_eq]
  exact exists_congr fun m => exists_congr fun d => and_congr_right fun _ => and_comm

theorem ingressFault_eq_some {k : Place} {x : PlanFault} : b.ingressFault k = some x ↔ b.placeDefined k = true ∧
    (∃ (m n : Fin 128) (d e : CaptureEntry), b.captures[m].fields = some d ∧ b.captures[n].fields = some e ∧
      (d.port = .u ∧ d.target = k) ∧ e.port = .l ∧ e.target = k) ∧ (.mixedIngress, k.ref) = x := by
  simp only [ingressFault, faultWhen_eq_some, Bool.and_eq_true, capturedFrom_iff]
  constructor
  · rintro ⟨⟨⟨hk, m, d, hd, hu⟩, n, e, he, hl⟩, hx⟩
    exact ⟨hk, ⟨m, n, d, e, hd, he, hu, hl⟩, hx⟩
  · rintro ⟨hk, ⟨m, n, d, e, hd, he, hu, hl⟩, hx⟩
    exact ⟨⟨⟨hk, m, d, hd, hu⟩, n, e, he, hl⟩, hx⟩

theorem egressFault_eq_some {k : Fin 8} {x : PlanFault} : b.egressFault k = some x ↔ b.placeDefined (.queue k) = true ∧
    (∃ (m n : Fin 128) (d e : EmitEntry), b.emits[m].fields = some d ∧ b.emits[n].fields = some e ∧
      (d.port = .u ∧ d.source = .queue k) ∧ e.port = .l ∧ e.source = .queue k) ∧ (.mixedEgress, .queue k) = x := by
  simp only [egressFault, faultWhen_eq_some, Bool.and_eq_true, emittedOn_iff]
  constructor
  · rintro ⟨⟨⟨hk, m, d, hd, hu⟩, n, e, he, hl⟩, hx⟩
    exact ⟨hk, ⟨m, n, d, e, hd, he, hu, hl⟩, hx⟩
  · rintro ⟨hk, ⟨m, n, d, e, hd, he, hu, hl⟩, hx⟩
    exact ⟨⟨⟨hk, m, d, hd, hu⟩, n, e, he, hl⟩, hx⟩

/-! ## The table holds the failures -/

variable {record test : Nat} {x : PlanFault}

theorem not_regionFits {g : Nat × Nat} : (!regionFits g) = true ↔ 4096 < g.1 + g.2 := by
  simp only [regionFits, Bool.not_eq_true', decide_eq_false_iff_not, Nat.not_le]

theorem fails_mailbox : b.Fails f rb 1 record test x ↔
    ∃ ts, (b.stepTests f rb 1)[record]? = some ts ∧ ts[test]? = some (some x) := by
  simp only [stepTests, getElem?_map_finRange]
  constructor
  · intro h
    cases h with
    | mailboxParity n bad unread => exact ⟨_, ⟨n, rfl, rfl⟩, congrArg some (readFault_eq_some.2 ⟨⟨bad, unread⟩, rfl⟩)⟩
    | mailboxRange n d defined outside =>
      exact ⟨_, ⟨n, rfl, rfl⟩, congrArg some (bind_faultWhen_eq_some.2 ⟨d, defined, not_regionFits.2 outside, rfl⟩)⟩
  · rintro ⟨_, ⟨n, rfl, rfl⟩, h⟩
    match test with
    | 0 =>
      obtain ⟨⟨bad, unread⟩, rfl⟩ := readFault_eq_some.1 (Option.some.inj h)
      exact .mailboxParity n bad unread
    | 1 =>
      obtain ⟨d, hd, hout, rfl⟩ := bind_faultWhen_eq_some.1 (Option.some.inj h)
      exact .mailboxRange n d hd (not_regionFits.1 hout)

theorem fails_queue : b.Fails f rb 2 record test x ↔
    ∃ ts, (b.stepTests f rb 2)[record]? = some ts ∧ ts[test]? = some (some x) := by
  simp only [stepTests, getElem?_map_finRange]
  constructor
  · intro h
    cases h with
    | queueParity n bad unread => exact ⟨_, ⟨n, rfl, rfl⟩, congrArg some (readFault_eq_some.2 ⟨⟨bad, unread⟩, rfl⟩)⟩
    | queueRange n d defined outside =>
      exact ⟨_, ⟨n, rfl, rfl⟩, congrArg some (bind_faultWhen_eq_some.2 ⟨d, defined, not_regionFits.2 outside, rfl⟩)⟩
  · rintro ⟨_, ⟨n, rfl, rfl⟩, h⟩
    match test with
    | 0 =>
      obtain ⟨⟨bad, unread⟩, rfl⟩ := readFault_eq_some.1 (Option.some.inj h)
      exact .queueParity n bad unread
    | 1 =>
      obtain ⟨d, hd, hout, rfl⟩ := bind_faultWhen_eq_some.1 (Option.some.inj h)
      exact .queueRange n d hd (not_regionFits.1 hout)

theorem regionTable_mailbox (b : Bank) (n : Fin 64) :
    b.regionTable[n.val]? = some (.mailbox n, b.mailboxes[n].fields.map MailboxDef.region) := by
  rw [regionTable, List.getElem?_append_left (by simp)]
  exact getElem?_map_finRange.2 ⟨n, rfl, rfl⟩

theorem regionTable_queue (b : Bank) (n : Fin 8) :
    b.regionTable[64 + n.val]? = some (.queue n, b.queues[n].fields.map QueueDef.region) := by
  rw [regionTable, List.getElem?_append_right (by simp)]
  simp only [List.length_map, List.length_finRange, Nat.add_sub_cancel_left]
  exact getElem?_map_finRange.2 ⟨n, rfl, rfl⟩

/-- A defined region of the table is that of a mailbox, or after them of a queue. -/
theorem regionTable_eq_some {i : Nat} {r : RecordRef} {g : Nat × Nat} : b.regionTable[i]? = some (r, some g) ↔
    (∃ (n : Fin 64) (d : MailboxDef), i = n ∧ b.mailboxes[n].fields = some d ∧ r = .mailbox n ∧ g = d.region) ∨
    (∃ (n : Fin 8) (d : QueueDef), i = 64 + n ∧ b.queues[n].fields = some d ∧ r = .queue n ∧ g = d.region) := by
  constructor
  · intro h
    have hi : i < 72 := by
      have hlen := (List.getElem?_eq_some_iff.1 h).1
      simpa [regionTable] using hlen
    by_cases hlt : i < 64
    · rw [regionTable_mailbox b ⟨i, hlt⟩, Option.some.injEq, Prod.mk.injEq, Option.map_eq_some_iff] at h
      obtain ⟨rfl, d, hd, rfl⟩ := h
      exact .inl ⟨⟨i, hlt⟩, d, rfl, hd, rfl, rfl⟩
    · obtain ⟨k, rfl⟩ := Nat.exists_eq_add_of_le (Nat.le_of_not_lt hlt)
      rw [regionTable_queue b ⟨k, by omega⟩, Option.some.injEq, Prod.mk.injEq, Option.map_eq_some_iff] at h
      obtain ⟨rfl, d, hd, rfl⟩ := h
      exact .inr ⟨⟨k, by omega⟩, d, rfl, hd, rfl, rfl⟩
  · rintro (⟨n, d, rfl, hd, rfl, rfl⟩ | ⟨n, d, rfl, hd, rfl, rfl⟩)
    · rw [regionTable_mailbox, hd, Option.map_some]
    · rw [regionTable_queue, hd, Option.map_some]

theorem fails_overlap : b.Fails f rb 3 record test x ↔
    ∃ ts, (b.stepTests f rb 3)[record]? = some ts ∧ ts[test]? = some (some x) := by
  have htable : (∃ ts, (b.stepTests f rb 3)[record]? = some ts ∧ ts[test]? = some (some x)) ↔
      test = 0 ∧ ∃ r g, b.regionTable[record]? = some (r, some g) ∧ (.regionOverlap, r) = x ∧
        ∃ j < record, ∃ r' h, b.regionTable[j]? = some (r', some h) ∧ regionsMeet g h = true := by
    simp only [stepTests, List.getElem?_map, Option.map_eq_some_iff]
    constructor
    · rintro ⟨_, ⟨t, ht, rfl⟩, h⟩
      match test with
      | 0 =>
        obtain rfl : t = some x := by simpa using h
        simpa using overlapTests_getElem?.1 ht
    · rintro ⟨rfl, r, g, hat, hx, hmeet⟩
      exact ⟨_, ⟨some x, overlapTests_getElem?.2 ⟨r, g, hat, hx, .inr hmeet⟩, rfl⟩, rfl⟩
  rw [htable]
  constructor
  · intro h
    cases h with
    | mailboxOverlap m n d e earlier first second meet =>
      exact ⟨rfl, _, _, regionTable_eq_some.2 (.inl ⟨n, e, rfl, second, rfl, rfl⟩), rfl, m, earlier, _, _,
        regionTable_eq_some.2 (.inl ⟨m, d, rfl, first, rfl, rfl⟩), regionsMeet_iff.2 meet.symm⟩
    | queueMailboxOverlap m n d e first second meet =>
      exact ⟨rfl, _, _, regionTable_eq_some.2 (.inr ⟨n, e, rfl, second, rfl, rfl⟩), rfl, m, by omega, _, _,
        regionTable_eq_some.2 (.inl ⟨m, d, rfl, first, rfl, rfl⟩), regionsMeet_iff.2 meet.symm⟩
    | queueOverlap m n d e earlier first second meet =>
      exact ⟨rfl, _, _, regionTable_eq_some.2 (.inr ⟨n, e, rfl, second, rfl, rfl⟩), rfl, 64 + m, by omega, _, _,
        regionTable_eq_some.2 (.inr ⟨m, d, rfl, first, rfl, rfl⟩), regionsMeet_iff.2 meet.symm⟩
  · rintro ⟨rfl, r, g, hat, rfl, j, hj, r', h, hat', hmeet⟩
    have meet := (regionsMeet_iff.1 hmeet).symm
    rcases regionTable_eq_some.1 hat with ⟨n, e, rfl, second, rfl, rfl⟩ | ⟨n, e, rfl, second, rfl, rfl⟩ <;>
      rcases regionTable_eq_some.1 hat' with ⟨m, d, rfl, first, rfl, rfl⟩ | ⟨m, d, rfl, first, rfl, rfl⟩
    · exact .mailboxOverlap m n d e hj first second meet
    · omega
    · exact .queueMailboxOverlap m n d e first second meet
    · exact .queueOverlap m n d e (by omega) first second meet

theorem fails_capture : b.Fails f rb 4 record test x ↔
    ∃ ts, (b.stepTests f rb 4)[record]? = some ts ∧ ts[test]? = some (some x) := by
  simp only [stepTests, getElem?_map_finRange]
  constructor
  · intro h
    cases h with
    | captureParity n bad unread => exact ⟨_, ⟨n, rfl, rfl⟩, congrArg some (readFault_eq_some.2 ⟨⟨bad, unread⟩, rfl⟩)⟩
    | captureTarget n e defined undefined =>
      exact ⟨_, ⟨n, rfl, rfl⟩, congrArg some (bind_faultWhen_eq_some.2 ⟨e, defined, by simp [undefined], rfl⟩)⟩
    | captureSlot n e defined beyond =>
      exact ⟨_, ⟨n, rfl, rfl⟩, congrArg some (bind_faultWhen_eq_some.2 ⟨e, defined, decide_eq_true beyond, rfl⟩)⟩
    | captureReserved n e defined reserved =>
      exact ⟨_, ⟨n, rfl, rfl⟩, congrArg some (bind_faultWhen_eq_some.2 ⟨e, defined, reserved, rfl⟩)⟩
    | captureOverlap m n d e lower first second port slot rounds =>
      exact ⟨_, ⟨n, rfl, rfl⟩, congrArg some (bind_faultWhen_eq_some.2
        ⟨e, second, captureClash_iff.2 ⟨m, d, lower, first, port, slot, rounds⟩, rfl⟩)⟩
  · rintro ⟨_, ⟨n, rfl, rfl⟩, h⟩
    match test with
    | 0 =>
      obtain ⟨⟨bad, unread⟩, rfl⟩ := readFault_eq_some.1 (Option.some.inj h)
      exact .captureParity n bad unread
    | 1 =>
      obtain ⟨e, he, hundefined, rfl⟩ := bind_faultWhen_eq_some.1 (Option.some.inj h)
      exact .captureTarget n e he (by simpa using hundefined)
    | 2 =>
      obtain ⟨e, he, hbeyond, rfl⟩ := bind_faultWhen_eq_some.1 (Option.some.inj h)
      exact .captureSlot n e he (of_decide_eq_true hbeyond)
    | 3 =>
      obtain ⟨e, he, hreserved, rfl⟩ := bind_faultWhen_eq_some.1 (Option.some.inj h)
      exact .captureReserved n e he hreserved
    | 4 =>
      obtain ⟨e, he, hclash, rfl⟩ := bind_faultWhen_eq_some.1 (Option.some.inj h)
      obtain ⟨m, d, hlt, hd, hport, hslot, hrounds⟩ := captureClash_iff.1 hclash
      exact .captureOverlap m n d e hlt hd he hport hslot hrounds

theorem fails_emit : b.Fails f rb 5 record test x ↔
    ∃ ts, (b.stepTests f rb 5)[record]? = some ts ∧ ts[test]? = some (some x) := by
  simp only [stepTests, getElem?_map_finRange]
  constructor
  · intro h
    cases h with
    | emitParity n bad unread => exact ⟨_, ⟨n, rfl, rfl⟩, congrArg some (readFault_eq_some.2 ⟨⟨bad, unread⟩, rfl⟩)⟩
    | emitSource n e defined undefined =>
      exact ⟨_, ⟨n, rfl, rfl⟩, congrArg some (bind_faultWhen_eq_some.2 ⟨e, defined, by simp [undefined], rfl⟩)⟩
    | emitSlot n e defined beyond =>
      exact ⟨_, ⟨n, rfl, rfl⟩, congrArg some (bind_faultWhen_eq_some.2 ⟨e, defined, decide_eq_true beyond, rfl⟩)⟩
    | emitReserved n e defined reserved =>
      exact ⟨_, ⟨n, rfl, rfl⟩, congrArg some (bind_faultWhen_eq_some.2 ⟨e, defined, reserved, rfl⟩)⟩
    | emitOverlap m n d e lower first second port slot rounds =>
      exact ⟨_, ⟨n, rfl, rfl⟩, congrArg some (bind_faultWhen_eq_some.2
        ⟨e, second, emitClash_iff.2 ⟨m, d, lower, first, port, slot, rounds⟩, rfl⟩)⟩
    | selfSlot m n d e captured emitted port slot rounds =>
      exact ⟨_, ⟨n, rfl, rfl⟩, congrArg some (bind_faultWhen_eq_some.2
        ⟨e, emitted, selfClash_iff.2 ⟨m, d, captured, port, slot, rounds⟩, rfl⟩)⟩
  · rintro ⟨_, ⟨n, rfl, rfl⟩, h⟩
    match test with
    | 0 =>
      obtain ⟨⟨bad, unread⟩, rfl⟩ := readFault_eq_some.1 (Option.some.inj h)
      exact .emitParity n bad unread
    | 1 =>
      obtain ⟨e, he, hundefined, rfl⟩ := bind_faultWhen_eq_some.1 (Option.some.inj h)
      exact .emitSource n e he (by simpa using hundefined)
    | 2 =>
      obtain ⟨e, he, hbeyond, rfl⟩ := bind_faultWhen_eq_some.1 (Option.some.inj h)
      exact .emitSlot n e he (of_decide_eq_true hbeyond)
    | 3 =>
      obtain ⟨e, he, hreserved, rfl⟩ := bind_faultWhen_eq_some.1 (Option.some.inj h)
      exact .emitReserved n e he hreserved
    | 4 =>
      obtain ⟨e, he, hclash, rfl⟩ := bind_faultWhen_eq_some.1 (Option.some.inj h)
      obtain ⟨m, d, hlt, hd, hport, hslot, hrounds⟩ := emitClash_iff.1 hclash
      exact .emitOverlap m n d e hlt hd he hport hslot hrounds
    | 5 =>
      obtain ⟨e, he, hclash, rfl⟩ := bind_faultWhen_eq_some.1 (Option.some.inj h)
      obtain ⟨m, d, hd, hport, hslot, hrounds⟩ := selfClash_iff.1 hclash
      exact .selfSlot m n d e hd he hport hslot hrounds

theorem fails_ingress : b.Fails f rb 6 record test x ↔
    ∃ ts, (b.stepTests f rb 6)[record]? = some ts ∧ ts[test]? = some (some x) := by
  simp only [stepTests]
  constructor
  · intro h
    cases h with
    | mailboxIngress k m n d e defined first second uplink local_ =>
      refine ⟨[b.ingressFault (.mailbox k)], ?_, congrArg some (ingressFault_eq_some.2 ⟨defined, ⟨m, n, d, e, first, second, uplink, local_⟩, rfl⟩)⟩
      rw [List.getElem?_append_left (by simp)]
      exact getElem?_map_finRange.2 ⟨k, rfl, rfl⟩
    | queueIngress k m n d e defined first second uplink local_ =>
      refine ⟨[b.ingressFault (.queue k)], ?_, congrArg some (ingressFault_eq_some.2 ⟨defined, ⟨m, n, d, e, first, second, uplink, local_⟩, rfl⟩)⟩
      rw [List.getElem?_append_right (by simp)]
      simp only [List.length_map, List.length_finRange, Nat.add_sub_cancel_left]
      exact getElem?_map_finRange.2 ⟨k, rfl, rfl⟩
  · rintro ⟨ts, hat, h⟩
    rw [List.getElem?_append, List.length_map, List.length_finRange] at hat
    split at hat
    · obtain ⟨k, rfl, rfl⟩ := getElem?_map_finRange.1 hat
      match test with
      | 0 =>
        obtain ⟨hk, ⟨m, n, d, e, hd, he, hu, hl⟩, rfl⟩ := ingressFault_eq_some.1 (Option.some.inj h)
        exact .mailboxIngress k m n d e hk hd he hu hl
    · obtain ⟨k, hrecord, rfl⟩ := getElem?_map_finRange.1 hat
      obtain rfl : record = 64 + k := by omega
      match test with
      | 0 =>
        obtain ⟨hk, ⟨m, n, d, e, hd, he, hu, hl⟩, rfl⟩ := ingressFault_eq_some.1 (Option.some.inj h)
        exact .queueIngress k m n d e hk hd he hu hl

theorem fails_egress : b.Fails f rb 7 record test x ↔
    ∃ ts, (b.stepTests f rb 7)[record]? = some ts ∧ ts[test]? = some (some x) := by
  simp only [stepTests, getElem?_map_finRange]
  constructor
  · intro h
    cases h with
    | queueEgress k m n d e defined first second uplink local_ =>
      exact ⟨_, ⟨k, rfl, rfl⟩, congrArg some (egressFault_eq_some.2 ⟨defined, ⟨m, n, d, e, first, second, uplink, local_⟩, rfl⟩)⟩
  · rintro ⟨_, ⟨k, rfl, rfl⟩, h⟩
    match test with
    | 0 =>
      obtain ⟨hk, ⟨m, n, d, e, hd, he, hu, hl⟩, rfl⟩ := egressFault_eq_some.1 (Option.some.inj h)
      exact .queueEgress k m n d e hk hd he hu hl

/-- A failing test of Table 5-1 is a failing test of the table. -/
theorem fails_iff {step : Nat} : b.Fails f rb step record test x ↔
    ∃ ts, (b.stepTests f rb step)[record]? = some ts ∧ ts[test]? = some (some x) := by
  by_cases hstep : step ∈ [1, 2, 3, 4, 5, 6, 7]
  · simp only [List.mem_cons, List.not_mem_nil, or_false] at hstep
    rcases hstep with rfl | rfl | rfl | rfl | rfl | rfl | rfl
    exacts [fails_mailbox, fails_queue, fails_overlap, fails_capture, fails_emit, fails_ingress, fails_egress]
  · constructor
    · intro h
      cases h <;> simp at hstep
    · rintro ⟨ts, hts, -⟩
      unfold stepTests at hts
      split at hts <;> simp at hts hstep

/-! ## The first failure -/

theorem check_eq_none_iff : b.check f rb = none ↔ ∀ step record test x, ¬b.Fails f rb step record test x := by
  rw [check_eq]
  simp only [List.findSome?_eq_none_iff]
  constructor
  · intro h step record test x hfails
    obtain ⟨ts, hts, hx⟩ := fails_iff.1 hfails
    have hstep : step ∈ [1, 2, 3, 4, 5, 6, 7] := by cases hfails <;> simp
    exact absurd (h step hstep ts (List.mem_of_getElem? hts) (some x) (List.mem_of_getElem? hx)) (by simp)
  · intro h step _ ts hts y hy
    obtain ⟨record, hrecord⟩ := List.mem_iff_getElem?.1 hts
    obtain ⟨test, htest⟩ := List.mem_iff_getElem?.1 hy
    cases y with
    | none => rfl
    | some x => exact absurd (fails_iff.2 ⟨ts, hrecord, htest⟩) (h step record test x)

/-- One test gives one fault. -/
theorem fails_unique {step : Nat} {y : PlanFault} (hx : b.Fails f rb step record test x) (hy : b.Fails f rb step record test y) :
    x = y := by
  obtain ⟨ts, hts, hx⟩ := fails_iff.1 hx
  obtain ⟨ts', hts', hy⟩ := fails_iff.1 hy
  obtain rfl : ts = ts' := by simpa [hts] using hts'
  simpa [hx] using hy

/-- The test fails and none before it does. -/
def FirstFailure (b : Bank) (f : CheckFigures) (rb : List RecordRef) (step record test : Nat) (x : PlanFault) : Prop :=
  b.Fails f rb step record test x ∧ ∀ step' record' test' y, b.Fails f rb step' record' test' y →
    ¬testBefore step' record' test' step record test

theorem exists_firstFailure (h : b.check f rb = some x) : ∃ step record test, b.FirstFailure f rb step record test x := by
  rw [check_eq] at h
  obtain ⟨i, step, hstep, h, hsteps⟩ := findSome?_eq_some_getElem?.1 h
  obtain ⟨record, ts, hts, h, hrecords⟩ := findSome?_eq_some_getElem?.1 h
  obtain ⟨test, o, ho, h, htests⟩ := findSome?_eq_some_getElem?.1 h
  obtain rfl : o = some x := h
  have hindex : ∀ {k s}, [1, 2, 3, 4, 5, 6, 7][k]? = some s → s = k + 1 := fun {k s} hk => by
    match k with
    | 0 | 1 | 2 | 3 | 4 | 5 | 6 => simpa using hk.symm
    | k + 7 => simp at hk
  obtain rfl := hindex hstep
  refine ⟨i + 1, record, test, fails_iff.2 ⟨ts, hts, ho⟩, fun step' record' test' y hfails hbefore => ?_⟩
  obtain ⟨ts', hts', hy⟩ := fails_iff.1 hfails
  rcases hbefore with hlt | ⟨rfl, hlt | ⟨rfl, hlt⟩⟩
  · have hstep' : step' ∈ [1, 2, 3, 4, 5, 6, 7] := by cases hfails <;> simp
    obtain ⟨k, hk⟩ := List.mem_iff_getElem?.1 hstep'
    have hnone := hsteps k (by have := hindex hk; omega) step' hk
    simp only [List.findSome?_eq_none_iff] at hnone
    exact absurd (hnone ts' (List.mem_of_getElem? hts') (some y) (List.mem_of_getElem? hy)) (by simp)
  · have hnone := hrecords record' hlt ts' hts'
    simp only [List.findSome?_eq_none_iff] at hnone
    exact absurd (hnone (some y) (List.mem_of_getElem? hy)) (by simp)
  · obtain rfl : ts = ts' := by simpa [hts] using hts'
    exact absurd (htests test' hlt (some y) hy) (by simp)

theorem check_eq_some_iff : b.check f rb = some x ↔ ∃ step record test, b.FirstFailure f rb step record test x := by
  refine ⟨exists_firstFailure, fun ⟨step, record, test, hfails, hfirst⟩ => ?_⟩
  cases hc : b.check f rb with
  | none => exact absurd hfails (check_eq_none_iff.1 hc _ _ _ _)
  | some y =>
    obtain ⟨step', record', test', hfails', hfirst'⟩ := exists_firstFailure hc
    have hle := hfirst _ _ _ _ hfails'
    have hge := hfirst' _ _ _ _ hfails
    simp only [testBefore] at hle hge
    obtain ⟨rfl, rfl, rfl⟩ : step = step' ∧ record = record' ∧ test = test' := by omega
    rw [fails_unique hfails hfails']

theorem overlaps_comm (t v : RoundSet) : t.overlaps v = v.overlaps t := by
  rw [Bool.eq_iff_iff, RoundSet.overlaps_iff, RoundSet.overlaps_iff, min_comm]
  exact eq_comm

/-- Every bank in which no test fails passes (R76 to R80). -/
theorem passes_of_no_failure (h : ∀ step record test x, ¬b.Fails f rb step record test x) : b.Passes f rb where
  parity := fun ref hunread => by
    refine Bool.not_eq_false _ ▸ fun hbad => ?_
    cases ref with
    | mailbox n => exact h _ _ _ _ (.mailboxParity n hbad hunread)
    | queue n => exact h _ _ _ _ (.queueParity n hbad hunread)
    | capture n => exact h _ _ _ _ (.captureParity n hbad hunread)
    | emit n => exact h _ _ _ _ (.emitParity n hbad hunread)
  mailboxFits := fun n d hd => Nat.le_of_not_lt fun hout => h _ _ _ _ (.mailboxRange n d hd hout)
  queueFits := fun n d hd => Nat.le_of_not_lt fun hout => h _ _ _ _ (.queueRange n d hd hout)
  mailboxesApart := fun m n d e hd he hne => by
    by_contra hmeet
    rcases Nat.lt_or_gt_of_ne (Fin.val_ne_of_ne hne) with hlt | hlt
    · exact h _ _ _ _ (.mailboxOverlap m n d e hlt hd he (by omega))
    · exact h _ _ _ _ (.mailboxOverlap n m e d hlt he hd (by omega))
  queuesApart := fun m n d e hd he hne => by
    by_contra hmeet
    rcases Nat.lt_or_gt_of_ne (Fin.val_ne_of_ne hne) with hlt | hlt
    · exact h _ _ _ _ (.queueOverlap m n d e hlt hd he (by omega))
    · exact h _ _ _ _ (.queueOverlap n m e d hlt he hd (by omega))
  mailboxQueueApart := fun m n d e hd he => by
    by_contra hmeet
    exact h _ _ _ _ (.queueMailboxOverlap m n d e hd he (by omega))
  captureTarget := fun n e he => Bool.not_eq_false _ ▸ fun hbad => h _ _ _ _ (.captureTarget n e he hbad)
  captureSlot := fun n e he => Nat.le_of_not_lt fun hbeyond => h _ _ _ _ (.captureSlot n e he hbeyond)
  captureFree := fun n e he => Bool.not_eq_true _ ▸ fun hbad => h _ _ _ _ (.captureReserved n e he hbad)
  emitSource := fun n e he => Bool.not_eq_false _ ▸ fun hbad => h _ _ _ _ (.emitSource n e he hbad)
  emitSlot := fun n e he => Nat.le_of_not_lt fun hbeyond => h _ _ _ _ (.emitSlot n e he hbeyond)
  emitFree := fun n e he => Bool.not_eq_true _ ▸ fun hbad => h _ _ _ _ (.emitReserved n e he hbad)
  capturesApart := fun m n d e hd he hne hport hslot => Bool.not_eq_true _ ▸ fun hrounds => by
    rcases Nat.lt_or_gt_of_ne (Fin.val_ne_of_ne hne) with hlt | hlt
    · exact h _ _ _ _ (.captureOverlap m n d e hlt hd he hport hslot hrounds)
    · exact h _ _ _ _ (.captureOverlap n m e d hlt he hd hport.symm hslot.symm (overlaps_comm d.rounds e.rounds ▸ hrounds))
  emitsApart := fun m n d e hd he hne hport hslot => Bool.not_eq_true _ ▸ fun hrounds => by
    rcases Nat.lt_or_gt_of_ne (Fin.val_ne_of_ne hne) with hlt | hlt
    · exact h _ _ _ _ (.emitOverlap m n d e hlt hd he hport hslot hrounds)
    · exact h _ _ _ _ (.emitOverlap n m e d hlt he hd hport.symm hslot.symm (overlaps_comm d.rounds e.rounds ▸ hrounds))
  notSelf := fun m n d e hd he hport hslot =>
    Bool.not_eq_true _ ▸ fun hrounds => h _ _ _ _ (.selfSlot m n d e hd he hport hslot hrounds)
  oneIngress := fun m n d e hd he htarget => by
    have hdefined : b.placeDefined d.target = true :=
      Bool.not_eq_false _ ▸ fun hbad => h _ _ _ _ (.captureTarget m d hd hbad)
    have hmixed : ∀ {m n : Fin 128} {d e : CaptureEntry}, b.captures[m].fields = some d → b.captures[n].fields = some e →
        b.placeDefined d.target = true → d.target = e.target → d.port = .u → e.port ≠ .l := by
      intro m n d e hd he hdefined htarget hu hl
      cases hk : d.target with
      | mailbox k => exact h _ _ _ _ (.mailboxIngress k m n d e (hk ▸ hdefined) hd he ⟨hu, hk⟩ ⟨hl, htarget ▸ hk⟩)
      | queue k => exact h _ _ _ _ (.queueIngress k m n d e (hk ▸ hdefined) hd he ⟨hu, hk⟩ ⟨hl, htarget ▸ hk⟩)
    cases hu : d.port <;> cases hl : e.port
    · rfl
    · exact absurd hl (hmixed hd he hdefined htarget hu)
    · exact absurd hu (hmixed he hd (htarget ▸ hdefined) htarget.symm hl)
    · rfl
  oneEgress := fun m n d e k hd he hsource hsource' => by
    have hdefined : b.placeDefined (.queue k) = true :=
      Bool.not_eq_false _ ▸ fun hbad => h _ _ _ _ (.emitSource m d hd (hsource ▸ hbad))
    cases hu : d.port <;> cases hl : e.port
    · rfl
    · exact (h _ _ _ _ (.queueEgress k m n d e hdefined hd he ⟨hu, hsource⟩ ⟨hl, hsource'⟩)).elim
    · exact (h _ _ _ _ (.queueEgress k n m e d hdefined he hd ⟨hl, hsource'⟩ ⟨hu, hsource⟩)).elim
    · rfl

theorem no_failure_of_passes (hp : b.Passes f rb) (step record test : Nat) (x : PlanFault) :
    ¬b.Fails f rb step record test x := by
  intro h
  cases h with
  | mailboxParity n bad unread => exact absurd bad (by simpa [parityGood] using hp.parity (.mailbox n) unread)
  | queueParity n bad unread => exact absurd bad (by simpa [parityGood] using hp.parity (.queue n) unread)
  | captureParity n bad unread => exact absurd bad (by simpa [parityGood] using hp.parity (.capture n) unread)
  | emitParity n bad unread => exact absurd bad (by simpa [parityGood] using hp.parity (.emit n) unread)
  | mailboxRange n d defined outside => exact absurd (hp.mailboxFits n d defined) (by omega)
  | queueRange n d defined outside => exact absurd (hp.queueFits n d defined) (by omega)
  | mailboxOverlap m n d e earlier first second meet =>
    have happart := hp.mailboxesApart m n d e first second (ne_of_lt earlier)
    omega
  | queueMailboxOverlap m n d e first second meet =>
    have happart := hp.mailboxQueueApart m n d e first second
    omega
  | queueOverlap m n d e earlier first second meet =>
    have happart := hp.queuesApart m n d e first second (ne_of_lt earlier)
    omega
  | captureTarget n e defined undefined => simp [hp.captureTarget n e defined] at undefined
  | captureSlot n e defined beyond => exact absurd (hp.captureSlot n e defined) (by omega)
  | captureReserved n e defined reserved => simp [hp.captureFree n e defined] at reserved
  | captureOverlap m n d e lower first second port slot rounds =>
    simp [hp.capturesApart m n d e first second (ne_of_lt lower) port slot] at rounds
  | emitSource n e defined undefined => simp [hp.emitSource n e defined] at undefined
  | emitSlot n e defined beyond => exact absurd (hp.emitSlot n e defined) (by omega)
  | emitReserved n e defined reserved => simp [hp.emitFree n e defined] at reserved
  | emitOverlap m n d e lower first second port slot rounds =>
    simp [hp.emitsApart m n d e first second (ne_of_lt lower) port slot] at rounds
  | selfSlot m n d e captured emitted port slot rounds =>
    simp [hp.notSelf m n d e captured emitted port slot] at rounds
  | mailboxIngress k m n d e defined first second uplink local_ =>
    simpa [uplink.1, local_.1] using hp.oneIngress m n d e first second (uplink.2.trans local_.2.symm)
  | queueIngress k m n d e defined first second uplink local_ =>
    simpa [uplink.1, local_.1] using hp.oneIngress m n d e first second (uplink.2.trans local_.2.symm)
  | queueEgress k m n d e defined first second uplink local_ =>
    simpa [uplink.1, local_.1] using hp.oneEgress m n d e k first second uplink.2 local_.2

theorem check_eq_none_iff_passes : b.check f rb = none ↔ b.Passes f rb :=
  check_eq_none_iff.trans ⟨passes_of_no_failure, no_failure_of_passes⟩

end Bank

/-- Settles O24: the checker takes the tests of its table in order, and the table holds those that Table 5-1 says fail. -/
theorem passingBankMeetsEveryTest : Obligations.PassingBankMeetsEveryTest := by
  refine ⟨fun b f _ => Bank.check_eq_none_iff_passes.trans ⟨fun h => ?_, fun h => ?_⟩, fun _ _ _ _ => Bank.check_eq_some_iff⟩
  · exact ⟨fun ref => h.parity ref List.not_mem_nil, h.mailboxFits, h.queueFits, h.mailboxesApart, h.queuesApart,
      h.mailboxQueueApart, fun n e he => ⟨h.captureTarget n e he, h.captureSlot n e he, h.captureFree n e he⟩,
      fun n e he => ⟨h.emitSource n e he, h.emitSlot n e he, h.emitFree n e he⟩, h.capturesApart, h.emitsApart, h.notSelf,
      h.oneIngress, h.oneEgress⟩
  · obtain ⟨hparity, hmailbox, hqueue, hmailboxes, hqueues, hmixed, hcapture, hemit, hcaptures, hemits, hself, hingress,
      hegress⟩ := h
    exact ⟨fun ref _ => hparity ref, hmailbox, hqueue, hmailboxes, hqueues, hmixed, fun n e he => (hcapture n e he).1,
      fun n e he => (hcapture n e he).2.1, fun n e he => (hcapture n e he).2.2, fun n e he => (hemit n e he).1,
      fun n e he => (hemit n e he).2.1, fun n e he => (hemit n e he).2.2, hcaptures, hemits, hself, hingress, hegress⟩

end Sys2Proof.Machine
end

section
/-! Every step keeps the plan banks in range (R65) and at most one matching entry of a bank that has passed its check
(R53, R91). -/

set_option Elab.async false

namespace Sys2Proof.Machine

/-- The law of plan memory as one about its quantities. -/
structure PlanLaw (active staged : Bank) (check : CheckState) : Prop where
  activeInRange : active.InRange
  stagedInRange : staged.InRange
  activeOneMatch : active.OneMatch
  stagedOneMatch : check = .passed ∨ check = .commitPending → staged.OneMatch

theorem planLawful_iff {s : State} : s.PlanLawful ↔ PlanLaw s.active s.staged s.checkState :=
  ⟨fun ⟨ha, hs, hma, hms⟩ => ⟨ha, hs, hma, hms⟩, fun ⟨ha, hs, hma, hms⟩ => ⟨ha, hs, hma, hms⟩⟩

theorem captureEntry_hits_iff {e : CaptureEntry} {p : Port} {slot : Nat} {r : Round} :
    e.hits p slot r = true ↔ e.port = p ∧ e.slot = slot ∧ e.rounds.hits r = true := by
  simp [CaptureEntry.hits, and_assoc]

theorem emitEntry_hits_iff {e : EmitEntry} {p : Port} {slot : Nat} {r : Round} :
    e.hits p slot r = true ↔ e.port = p ∧ e.slot = slot ∧ e.rounds.hits r = true := by
  simp [EmitEntry.hits, and_assoc]

/-- R53: of a bank in range that passes, no two entries of a kind match one slot and round. -/
theorem oneMatch_of_passes {b : Bank} {f : CheckFigures} {rb : List RecordRef} (hr : b.InRange) (h : b.Passes f rb) :
    b.OneMatch := by
  obtain ⟨-, -, hcaptures, hemits⟩ := hr
  constructor
  · intro m n d e p slot r hd he hdhits hehits
    by_contra hne
    obtain ⟨rfl, rfl, hdr⟩ := captureEntry_hits_iff.1 hdhits
    obtain ⟨hport, hslot, her⟩ := captureEntry_hits_iff.1 hehits
    have hdok := hcaptures m d hd
    have heok := hcaptures n e he
    simp only [CaptureEntry.ok, Bool.and_eq_true] at hdok heok
    have hoverlap := (RoundSet.overlaps_iff_shareRound hdok.1.2 heok.1.2).2 ⟨r, hdr, her⟩
    simp [h.capturesApart m n d e hd he hne hport.symm hslot.symm] at hoverlap
  · intro m n d e p slot r hd he hdhits hehits
    by_contra hne
    obtain ⟨rfl, rfl, hdr⟩ := emitEntry_hits_iff.1 hdhits
    obtain ⟨hport, hslot, her⟩ := emitEntry_hits_iff.1 hehits
    have hdok := hemits m d hd
    have heok := hemits n e he
    simp only [EmitEntry.ok, Bool.and_eq_true] at hdok heok
    have hoverlap := (RoundSet.overlaps_iff_shareRound hdok.2 heok.2).2 ⟨r, hdr, her⟩
    simp [h.emitsApart m n d e hd he hne hport.symm hslot.symm] at hoverlap

theorem oneMatch_empty : Bank.empty.OneMatch := by
  simp [Bank.OneMatch, Bank.empty, Stored.undefined]

theorem planLaw_empty : PlanLaw .empty .empty .unchecked := ⟨inRange_empty, inRange_empty, oneMatch_empty, by simp⟩

/-- The fields of every record of the two banks are the same. -/
structure Bank.SameFields (b b' : Bank) : Prop where
  mailboxes : ∀ n : Fin 64, b'.mailboxes[n].fields = b.mailboxes[n].fields
  queues : ∀ n : Fin 8, b'.queues[n].fields = b.queues[n].fields
  captures : ∀ n : Fin 128, b'.captures[n].fields = b.captures[n].fields
  emits : ∀ n : Fin 128, b'.emits[n].fields = b.emits[n].fields

theorem set_fields {α : Type} {k : Nat} (v : Vector (Stored α) k) (m n : Fin k) (x : Stored α) (hx : x.fields = v[m].fields) :
    (v.set m.val x)[n].fields = v[n].fields := by
  rw [Fin.getElem_fin, Vector.getElem_set]
  split <;> rename_i h
  · rw [hx, Fin.ext h]
  · rfl

/-- A disturbance fails a parity condition and changes no field (R69). -/
theorem disturb_sameFields (b : Bank) (ref : RecordRef) : b.SameFields (b.disturb ref) := by
  cases ref with
  | mailbox m => exact ⟨fun n => set_fields _ m n _ rfl, fun _ => rfl, fun _ => rfl, fun _ => rfl⟩
  | queue m => exact ⟨fun _ => rfl, fun n => set_fields _ m n _ rfl, fun _ => rfl, fun _ => rfl⟩
  | capture m => exact ⟨fun _ => rfl, fun _ => rfl, fun n => set_fields _ m n _ rfl, fun _ => rfl⟩
  | emit m => exact ⟨fun _ => rfl, fun _ => rfl, fun _ => rfl, fun n => set_fields _ m n _ rfl⟩

theorem Bank.SameFields.inRange {b b' : Bank} (h : b.SameFields b') (hb : b.InRange) : b'.InRange := by
  obtain ⟨hm, hq, hc, he⟩ := hb
  exact ⟨fun n d hd => hm n d (h.mailboxes n ▸ hd), fun n d hd => hq n d (h.queues n ▸ hd),
    fun n d hd => hc n d (h.captures n ▸ hd), fun n d hd => he n d (h.emits n ▸ hd)⟩

theorem Bank.SameFields.oneMatch {b b' : Bank} (h : b.SameFields b') (hb : b.OneMatch) : b'.OneMatch := by
  obtain ⟨hc, he⟩ := hb
  exact ⟨fun m n d e p slot r hd he' => hc m n d e p slot r (h.captures m ▸ hd) (h.captures n ▸ he'),
    fun m n d e p slot r hd he' => he m n d e p slot r (h.emits m ▸ hd) (h.emits n ▸ he')⟩

theorem noteRead_passed {c : CheckState} {ref : RecordRef} {note : Bool}
    (h : c.noteRead ref note = .passed ∨ c.noteRead ref note = .commitPending) : c = .passed ∨ c = .commitPending := by
  cases c with
  | checking p f rb =>
    simp only [CheckState.noteRead] at h
    split at h <;> simp at h
  | unchecked => exact h
  | passed => exact h
  | failed x r => exact h
  | commitPending => exact h

theorem plan_stepInvariant : StepInvariant False (fun s => PlanLaw s.active s.staged s.checkState) where
  powerOn := fun _ _ _ => planLaw_empty
  restart := fun _ _ _ _ _ => planLaw_empty
  admission := fun s id h => by
    rcases admitParty_cases s id with ⟨i, q, he, -⟩ | ⟨he, -⟩ <;> rw [he] <;> exact h
  endClaim := fun s h => by
    unfold State.abandonCheck
    split
    · obtain ⟨ps, rs, he⟩ := giveDeferred_frame ((s.withClaim none).withCheck .unchecked) .abandoned []
      rw [he]
      exact ⟨h.activeInRange, h.stagedInRange, h.activeOneMatch, by simp⟩
    all_goals exact h
  takeCheck := fun s i q n _ _ _ h =>
    ⟨h.activeInRange, h.stagedInRange, h.activeOneMatch, by simp [State.updateParty, State.withParty, State.withCheck]⟩
  finishCheck := fun s p f rb c status results _ hpassed hc h => by
    obtain ⟨ps, rs, he⟩ := giveDeferred_frame (s.withCheck c) status results
    rw [he]
    refine ⟨h.activeInRange, h.stagedInRange, h.activeOneMatch, fun hcheck => ?_⟩
    rcases hc with rfl | ⟨x, ref, rfl⟩
    · exact oneMatch_of_passes h.stagedInRange (Bank.check_eq_none_iff_passes.1 (hpassed rfl))
    · simp [State.withCheck] at hcheck
  commit := fun s hpassed h =>
    ⟨h.activeInRange, h.stagedInRange, h.activeOneMatch, fun _ => h.stagedOneMatch (.inl hpassed)⟩
  cancelCommit := fun s hpending h =>
    ⟨h.activeInRange, h.stagedInRange, h.activeOneMatch, fun _ => h.stagedOneMatch (.inr hpending)⟩
  edit := fun s b _ hb h => ⟨h.activeInRange, hb h.activeInRange h.stagedInRange, h.activeOneMatch, by simp [State.edited]⟩
  exchange := fun s hpending h => ⟨h.stagedInRange, h.activeInRange, h.stagedOneMatch (.inr hpending), by simp⟩
  disturbRecord := fun s role ref note h => by
    cases role with
    | active =>
      have hsame := disturb_sameFields s.active ref
      exact ⟨hsame.inRange h.activeInRange, h.stagedInRange, hsame.oneMatch h.activeOneMatch, h.stagedOneMatch⟩
    | staged =>
      have hsame := disturb_sameFields s.staged ref
      exact ⟨h.activeInRange, hsame.inRange h.stagedInRange, h.activeOneMatch,
        fun hcheck => hsame.oneMatch (h.stagedOneMatch (noteRead_passed hcheck))⟩

/-- Settles O59: a bank becomes ACTIVE only by a swap, and a swap is pending only for a bank that has passed its check. -/
theorem everyStepKeepsThePlanLaw : Obligations.EveryStepKeepsThePlanLaw := fun _ _ hstep h =>
  planLawful_iff.2 (plan_stepInvariant.step hstep (fun hfalse => hfalse.elim) (planLawful_iff.1 h))

end Sys2Proof.Machine
end

section
/-! The queue of commands, the state after reset, and the codes of Chapter 12. -/

set_option Elab.async false

namespace Sys2Proof.Machine

/-- Settles O1: both halves are the two branches of the step function. -/
theorem stepExecutesFrontCommand : Obligations.StepExecutesFrontCommand :=
  ⟨fun c rest s h => by rw [Machine.step, h], fun s h => by rw [Machine.step, h]⟩

/-- Settles O4: each law holds of the quantities of a part just started. -/
theorem lawsHoldAtReset : Obligations.LawsHoldAtReset := by
  obtain ⟨hresponses, hparties, hcheck⟩ := (managementLaw_iff (s := .reset)).2 ManagementLaw.started
  obtain ⟨hu, hl, hagree⟩ := powerUp_ok 0
  exact ⟨lawful_started, hresponses, hparties, hcheck, timing_started _ _ _ _ _ _ _ _, ⟨hu, hl, hu, hl, hagree, rfl⟩,
    planLawful_iff.2 planLaw_empty, buffers_started _ _ _ _ _ _ _ rfl⟩

theorem reqOfCode_eq_some (q : Req) (c : BitVec 8) : reqOfCode c = some q ↔ c = q.code := by
  constructor
  · intro h
    unfold reqOfCode at h
    split at h <;> rename_i hc <;> cases h <;> exact BitVec.eq_of_toNat_eq hc
  · rintro rfl
    cases q <;> rfl

theorem refBits_mailbox (n : Fin 64) : refBits (.mailbox n) = 1 * 2 ^ 11 + n := by
  rw [refBits, put_of_lt (by decide), put_of_lt (by omega), Nat.pow_zero, Nat.mul_one]

theorem refBits_queue (n : Fin 8) : refBits (.queue n) = 2 * 2 ^ 11 + n := by
  rw [refBits, put_of_lt (by decide), put_of_lt (by omega), Nat.pow_zero, Nat.mul_one]

theorem refBits_capture (n : Fin 128) : refBits (.capture n) = 3 * 2 ^ 11 + n := by
  rw [refBits, put_of_lt (by decide), put_of_lt (by omega), Nat.pow_zero, Nat.mul_one]

theorem refBits_emit (n : Fin 128) : refBits (.emit n) = 4 * 2 ^ 11 + n := by
  rw [refBits, put_of_lt (by decide), put_of_lt (by omega), Nat.pow_zero, Nat.mul_one]

theorem subjectBits_record (role : BankRole) (ref : RecordRef) :
    Subject.bits (.record role ref) = bankCode role * 2 ^ 14 + refBits ref := by
  rw [Subject.bits, put_of_lt (by cases role <;> decide)]

/-- Settles O54: the codes are read off their tables; the layout of a selector is the sum of its fields. -/
theorem codesAreThoseOfTheTables : Obligations.CodesAreThoseOfTheTables := by
  refine ⟨by decide, by decide, reqOfCode_eq_some, by decide, by decide, by decide, by decide, by decide, by decide, by decide,
    by decide, by decide, by decide, by decide, by decide, fun _ _ _ _ _ => rfl, by decide, by decide, refBits_mailbox,
    refBits_queue, fun n => ⟨refBits_capture n, refBits_emit n⟩, rfl, fun _ => rfl, fun _ => rfl, fun _ => rfl,
    subjectBits_record⟩

end Sys2Proof.Machine
end

section
/-! Executed requests: the state in which one is executed, the answer of its own rule, and the refusals before it
(R138, R139). -/

set_option Elab.async false

namespace Sys2Proof.Machine

/-! ## The state in which a request is executed -/

/-- Only the party table is changed before a request is executed. -/
theorem begun_frame (s : State) (r : Request) (i : Fin 8) : ∃ ps, s.begun r i = { s with parties := ps } := by
  unfold State.begun State.admitted
  rcases admitParty_cases s (requestParty r) with ⟨j, q, he, -⟩ | ⟨he, -⟩ <;> rw [he] <;> exact ⟨_, rfl⟩

theorem admitted_frame (s : State) (r : Request) : ∃ ps, s.admitted r = { s with parties := ps } := by
  unfold State.admitted
  rcases admitParty_cases s (requestParty r) with ⟨j, q, he, -⟩ | ⟨he, -⟩ <;> rw [he] <;> exact ⟨_, rfl⟩

section
variable (s : State) (r : Request) (i : Fin 8)

@[simp] theorem begun_resetnLow : (s.begun r i).resetnLow = s.resetnLow := by
  obtain ⟨ps, h⟩ := begun_frame s r i
  rw [h]

@[simp] theorem begun_strap : (s.begun r i).strap = s.strap := by
  obtain ⟨ps, h⟩ := begun_frame s r i
  rw [h]

@[simp] theorem begun_uStored : (s.begun r i).uStored = s.uStored := by
  obtain ⟨ps, h⟩ := begun_frame s r i
  rw [h]

@[simp] theorem begun_uInUse : (s.begun r i).uInUse = s.uInUse := by
  obtain ⟨ps, h⟩ := begun_frame s r i
  rw [h]

@[simp] theorem begun_lStored : (s.begun r i).lStored = s.lStored := by
  obtain ⟨ps, h⟩ := begun_frame s r i
  rw [h]

@[simp] theorem begun_lInUse : (s.begun r i).lInUse = s.lInUse := by
  obtain ⟨ps, h⟩ := begun_frame s r i
  rw [h]

@[simp] theorem begun_uTime : (s.begun r i).uTime = s.uTime := by
  obtain ⟨ps, h⟩ := begun_frame s r i
  rw [h]

@[simp] theorem begun_lTime : (s.begun r i).lTime = s.lTime := by
  obtain ⟨ps, h⟩ := begun_frame s r i
  rw [h]

@[simp] theorem begun_rx : (s.begun r i).rx = s.rx := by
  obtain ⟨ps, h⟩ := begun_frame s r i
  rw [h]

@[simp] theorem begun_tx : (s.begun r i).tx = s.tx := by
  obtain ⟨ps, h⟩ := begun_frame s r i
  rw [h]

@[simp] theorem begun_slotFlags : (s.begun r i).slotFlags = s.slotFlags := by
  obtain ⟨ps, h⟩ := begun_frame s r i
  rw [h]

@[simp] theorem begun_counters : (s.begun r i).counters = s.counters := by
  obtain ⟨ps, h⟩ := begun_frame s r i
  rw [h]

@[simp] theorem begun_responses : (s.begun r i).responses = s.responses := by
  obtain ⟨ps, h⟩ := begun_frame s r i
  rw [h]

@[simp] theorem begun_contexts : (s.begun r i).contexts = s.contexts := by
  obtain ⟨ps, h⟩ := begun_frame s r i
  rw [h]

@[simp] theorem begun_emitRecords : (s.begun r i).emitRecords = s.emitRecords := by
  obtain ⟨ps, h⟩ := begun_frame s r i
  rw [h]

@[simp] theorem begun_active : (s.begun r i).active = s.active := by
  obtain ⟨ps, h⟩ := begun_frame s r i
  rw [h]

@[simp] theorem begun_staged : (s.begun r i).staged = s.staged := by
  obtain ⟨ps, h⟩ := begun_frame s r i
  rw [h]

@[simp] theorem begun_captureOutcomes : (s.begun r i).captureOutcomes = s.captureOutcomes := by
  obtain ⟨ps, h⟩ := begun_frame s r i
  rw [h]

@[simp] theorem begun_emitOutcomes : (s.begun r i).emitOutcomes = s.emitOutcomes := by
  obtain ⟨ps, h⟩ := begun_frame s r i
  rw [h]

@[simp] theorem begun_generation : (s.begun r i).generation = s.generation := by
  obtain ⟨ps, h⟩ := begun_frame s r i
  rw [h]

@[simp] theorem begun_checkState : (s.begun r i).checkState = s.checkState := by
  obtain ⟨ps, h⟩ := begun_frame s r i
  rw [h]

@[simp] theorem begun_store : (s.begun r i).store = s.store := by
  obtain ⟨ps, h⟩ := begun_frame s r i
  rw [h]

@[simp] theorem begun_storeEpoch : (s.begun r i).storeEpoch = s.storeEpoch := by
  obtain ⟨ps, h⟩ := begun_frame s r i
  rw [h]

@[simp] theorem begun_mailboxes : (s.begun r i).mailboxes = s.mailboxes := by
  obtain ⟨ps, h⟩ := begun_frame s r i
  rw [h]

@[simp] theorem begun_queues : (s.begun r i).queues = s.queues := by
  obtain ⟨ps, h⟩ := begun_frame s r i
  rw [h]

@[simp] theorem begun_forwarding : (s.begun r i).forwarding = s.forwarding := by
  obtain ⟨ps, h⟩ := begun_frame s r i
  rw [h]

@[simp] theorem begun_claim : (s.begun r i).claim = s.claim := by
  obtain ⟨ps, h⟩ := begun_frame s r i
  rw [h]

@[simp] theorem begun_settings : (s.begun r i).settings = s.settings := by
  obtain ⟨ps, h⟩ := begun_frame s r i
  rw [h]

@[simp] theorem begun_notices : (s.begun r i).notices = s.notices := by
  obtain ⟨ps, h⟩ := begun_frame s r i
  rw [h]

@[simp] theorem begun_choice : (s.begun r i).choice = s.choice := by
  obtain ⟨ps, h⟩ := begun_frame s r i
  rw [h]

@[simp] theorem begun_pending : (s.begun r i).pending = s.pending := by
  obtain ⟨ps, h⟩ := begun_frame s r i
  rw [h]

@[simp] theorem begun_raiseRound : (s.begun r i).raiseRound = s.raiseRound := by
  obtain ⟨ps, h⟩ := begun_frame s r i
  rw [h]
  rfl

@[simp] theorem begun_frozen : (s.begun r i).frozen = s.frozen := by
  obtain ⟨ps, h⟩ := begun_frame s r i
  rw [h]
  rfl

@[simp] theorem begun_figures : (s.begun r i).figures = s.figures := by
  obtain ⟨ps, h⟩ := begun_frame s r i
  rw [h]
  rfl

@[simp] theorem begun_statusWords : (s.begun r i).statusWords = s.statusWords := by
  obtain ⟨ps, h⟩ := begun_frame s r i
  rw [h]
  rfl

@[simp] theorem begun_uPendingFlag : (s.begun r i).uPendingFlag = s.uPendingFlag := by
  obtain ⟨ps, h⟩ := begun_frame s r i
  rw [h]
  rfl

@[simp] theorem begun_lPendingFlag : (s.begun r i).lPendingFlag = s.lPendingFlag := by
  obtain ⟨ps, h⟩ := begun_frame s r i
  rw [h]
  rfl

@[simp] theorem begun_wordAt (a : Nat) : (s.begun r i).wordAt a = s.wordAt a := by
  obtain ⟨ps, h⟩ := begun_frame s r i
  rw [h]
  rfl

@[simp] theorem begun_bank (role : BankRole) : (s.begun r i).bank role = s.bank role := by
  obtain ⟨ps, h⟩ := begun_frame s r i
  rw [h]
  cases role <;> rfl

theorem begun_raise (k : NoticeKind) (j : Subject) :
    (s.begun r i).raise k j = { s.begun r i with notices := s.notices.raise k j s.raiseRound } := by
  rw [raise_eq, begun_notices, begun_raiseRound]

end

/-! ## Answers -/

/-- A request that its own rule answers at once, leaving the response queues as they were. -/
theorem exec_answer {s t : State} {r : Request} {i : Fin 8} (h : s.Executes r i) (q : Req)
    (hcount : q.countOk r.selector r.operands.length = true) (hclaim : q.needsClaim = true → s.claim = some (requestParty r))
    {status : Status} {results : List Word} {mark : Option RestartMark}
    (hown : ownRule q (requestParty r) r.selector r.operands (s.begun r i) = (t, .now status results mark false))
    (ht : t.responses = s.responses) :
    exec (q.command r) s = .next (t.replied r i q.code status results mark) :=
  exec_replied h q ((judge_own hcount (begun_claim s r i ▸ hclaim)).trans hown) (by rw [ht])

/-- A request of the claim holder that its own rule answers at once. -/
theorem exec_holder {s t : State} {r : Request} {i : Fin 8} (h : s.HolderExecutes r i) (q : Req)
    (hcount : q.countOk r.selector r.operands.length = true)
    {status : Status} {results : List Word} {mark : Option RestartMark}
    (hown : ownRule q (requestParty r) r.selector r.operands (s.begun r i) = (t, .now status results mark false))
    (ht : t.responses = s.responses) :
    exec (q.command r) s = .next (t.replied r i q.code status results mark) :=
  exec_answer h.1 q hcount (fun _ => h.2) hown ht

/-- The refusals of R139 before a request's own rule. -/
theorem exec_unknown {s : State} {r : Request} {i : Fin 8} (h : s.Executes r i) {q : Req}
    (hcount : q.countOk r.selector r.operands.length = false) :
    exec (q.command r) s = .next ((s.begun r i).replied r i q.code .unknown [] none) :=
  exec_replied h q (judge_count hcount) (by rw [begun_responses])

theorem exec_unclaimed {s : State} {r : Request} {i : Fin 8} (h : s.Executes r i) {q : Req}
    (hcount : q.countOk r.selector r.operands.length = true) (hneeds : q.needsClaim = true)
    (hclaim : s.claim ≠ some (requestParty r)) :
    exec (q.command r) s = .next ((s.begun r i).replied r i q.code .unclaimed [] none) :=
  exec_replied h q (judge_claim hcount hneeds (by rwa [begun_claim])) (by rw [begun_responses])

/-! ## O49 -/

theorem selPort_eq_ite (sel : BitVec 16) : selPort sel =
    if sel.extractLsb' 14 2 = 1 then some .u else if sel.extractLsb' 14 2 = 2 then some .l else none := by
  have hport : ∀ x : BitVec 2, portOfCode x.toNat = if x = 1 then some .u else if x = 2 then some .l else none := by decide
  rw [selPort, selTop_eq, hport]

theorem selKind_eq_ite (sel : BitVec 16) : selKind sel =
    if sel.extractLsb' 11 3 = 1 then some .mailbox else if sel.extractLsb' 11 3 = 2 then some .queue
    else if sel.extractLsb' 11 3 = 3 then some .capture else if sel.extractLsb' 11 3 = 4 then some .emit else none := by
  have hkind : ∀ x : BitVec 3, recordKindOf x.toNat = if x = 1 then some .mailbox else if x = 2 then some .queue
      else if x = 3 then some .capture else if x = 4 then some .emit else none := by decide
  rw [selKind, selKindField_eq, hkind]

theorem countOk_writeProfile {sel : BitVec 16} {k : Nat} : Req.writeProfile.countOk sel k = true ↔
    sel.extractLsb' 14 2 = 1 ∧ k = 4 ∨ sel.extractLsb' 14 2 = 2 ∧ k = 3 ∨
      (sel.extractLsb' 14 2 = 0 ∨ sel.extractLsb' 14 2 = 3) ∧ (k = 3 ∨ k = 4) := by
  rw [Req.countOk, selPort_eq_ite]
  have hcases : ∀ x : BitVec 2, x = 0 ∨ x = 1 ∨ x = 2 ∨ x = 3 := by decide
  rcases hcases (sel.extractLsb' 14 2) with h | h | h | h <;> simp [h]

theorem countOk_writeRecord {sel : BitVec 16} {k : Nat} : Req.writeRecord.countOk sel k = true ↔
    (sel.extractLsb' 11 3 = 1 ∨ sel.extractLsb' 11 3 = 2) ∧ k = 1 ∨
    (sel.extractLsb' 11 3 = 3 ∨ sel.extractLsb' 11 3 = 4) ∧ k = 2 ∨
      (sel.extractLsb' 11 3 = 0 ∨ 5 ≤ sel.extractLsb' 11 3) ∧ (k = 1 ∨ k = 2) := by
  rw [Req.countOk, selKind_eq_ite]
  have hcases : ∀ x : BitVec 3, x = 0 ∨ x = 1 ∨ x = 2 ∨ x = 3 ∨ x = 4 ∨ x = 5 ∨ x = 6 ∨ x = 7 := by decide
  rcases hcases (sel.extractLsb' 11 3) with h | h | h | h | h | h | h | h <;> simp [h]

/-- Settles O49: the two refusals, after Table 10-1 is read as the count test of each request. -/
theorem wrongCountAndMissingClaimAreRefused : Obligations.WrongCountAndMissingClaimAreRefused := by
  intro q r s i h k kind port countFits open_
  have hfits : countFits ↔ q.countOk r.selector k = true := by
    cases q with
    | writeProfile => exact countOk_writeProfile.symm
    | writeRecord => exact countOk_writeRecord.symm
    | _ => exact decide_eq_true_iff.symm
  have hopen : ¬open_ → q.needsClaim = true := by
    cases q <;> simp [open_, Req.needsClaim]
  refine ⟨fun hno => exec_unknown h ?_, fun hyes hno hclaim => exec_unclaimed h (hfits.1 hyes) (hopen hno) hclaim⟩
  rw [hfits, Bool.not_eq_true] at hno
  exact hno

end Sys2Proof.Machine
end

section
/-! The requests that report (10.2, 10.3): their result words field by field, and their answers. -/

set_option Elab.async false

namespace Sys2Proof.Machine

/-! ## Codes and their widths -/

theorem roundCode_lt (o : Option Round) : roundCode o < 2 ^ 8 := by
  rcases o with _ | n
  · decide
  · have := n.isLt
    simp only [roundCode]
    omega

theorem stationCode_lt (o : Option Station) : stationCode o < 2 ^ 8 := by
  rcases o with _ | a
  · decide
  · exact a.isLt

theorem portCode_lt (p : Port) : portCode p < 4 := by cases p <;> decide

theorem refBits_lt (ref : RecordRef) : refBits ref < 2 ^ 14 := by
  cases ref <;> simp only [refBits, put] <;> omega

theorem subjectBits_lt (j : Subject) : j.bits < 2 ^ 16 := by
  cases j with
  | none => decide
  | mailbox n => exact lt_trans (refBits_lt (.mailbox n)) (by decide : 2 ^ 14 < 2 ^ 16)
  | queue n => exact lt_trans (refBits_lt (.queue n)) (by decide : 2 ^ 14 < 2 ^ 16)
  | emit n => exact lt_trans (refBits_lt (.emit n)) (by decide : 2 ^ 14 < 2 ^ 16)
  | record role ref =>
    have href := refBits_lt ref
    cases role <;> simp only [subjectBits_record, bankCode] <;> omega

theorem uStateCode_lt (x : UState) : x.code < 8 := by cases x <;> decide

theorem lStateCode_lt (x : LState) : x.code < 4 := by cases x <;> decide

theorem checkStateCode_lt (x : CheckState) : x.code < 8 := by cases x <;> simp [CheckState.code]

theorem faultCode_lt (x : FaultCode) : x.code < 16 := by cases x <;> decide

theorem noticeKindCode_lt (x : NoticeKind) : x.code < 16 := by cases x <;> decide

theorem mailboxStateCode_lt (x : MailboxState) : x.code < 8 := by cases x <;> decide

theorem halfCode_lt (x : Half) : x.code < 2 := by cases x <;> decide

/-! ## Result words -/

/-- Two fields of 16 bits. -/
theorem bitsAt_halves (x y : BitVec 16) : bitsAt (toWord (put x.toNat 31 16 + put y.toNat 15 0)) 31 16 = x.toNat ∧
    bitsAt (toWord (put x.toNat 31 16 + put y.toNat 15 0)) 15 0 = y.toNat := by
  have hx := x.isLt
  have hy := y.isLt
  have hlt : put x.toNat 31 16 + put y.toNat 15 0 < 2 ^ 32 := by simp only [put]; omega
  simp only [bitsAt_toWord hlt]
  simp only [field, put]
  omega

theorem settingsWord_fields (t : Settings) : bitsAt t.settingsWord 31 24 = t.claimTimeout.toNat ∧
    bitsAt t.settingsWord 23 16 = t.repeatInterval.toNat ∧ bitsAt t.settingsWord 15 0 = 0 := by
  have hx := t.claimTimeout.isLt
  have hy := t.repeatInterval.isLt
  have hlt : put t.claimTimeout.toNat 31 24 + put t.repeatInterval.toNat 23 16 < 2 ^ 32 := by simp only [put]; omega
  simp only [Settings.settingsWord, bitsAt_toWord hlt]
  simp only [field, put]
  omega

theorem flagWord_fields (b : Bool) : bitsAt (toWord (putBit b 0)) 31 1 = 0 ∧ (toWord (putBit b 0)).getLsbD 0 = b := by
  cases b <;> decide

/-- The four sent-ever flags and the count of READ_NOTICES. -/
theorem noticesWord_fields {k : Nat} (hk : k ≤ 16) (o s3 s2 s1 s0 : Bool) :
    let w := toWord (put k 31 24 + putBit o 23 + putBit s3 3 + putBit s2 2 + putBit s1 1 + putBit s0 0)
    bitsAt w 31 24 = k ∧ w.getLsbD 23 = o ∧ bitsAt w 22 4 = 0 ∧ w.getLsbD 3 = s3 ∧ w.getLsbD 2 = s2 ∧ w.getLsbD 1 = s1 ∧
      w.getLsbD 0 = s0 := by
  have ho := o.toNat_lt
  have h3 := s3.toNat_lt
  have h2 := s2.toNat_lt
  have h1 := s1.toNat_lt
  have h0 := s0.toNat_lt
  have hlt : put k 31 24 + putBit o 23 + putBit s3 3 + putBit s2 2 + putBit s1 1 + putBit s0 0 < 2 ^ 32 := by
    simp only [put, putBit]
    omega
  simp only [getLsbD_eq_iff_bitsAt, bitsAt_toWord hlt]
  simp only [field, put, putBit]
  omega

theorem notice_fields (e : Notice) {low : Nat} (hlow : low < 2 ^ 8) : ∃ x y : Word, e.words low = [x, y] ∧
    bitsAt x 31 24 = e.id.toNat ∧ bitsAt x 23 16 = e.kind.code ∧ bitsAt x 15 8 = e.count.toNat ∧ bitsAt x 7 0 = low ∧
    bitsAt y 31 24 = e.firstRound.toNat ∧ bitsAt y 23 16 = e.lastRound.toNat ∧ bitsAt y 15 0 = e.subject.bits := by
  refine ⟨_, _, rfl, ?_⟩
  have hid := e.id.isLt
  have hcode := noticeKindCode_lt e.kind
  have hcount := e.count.isLt
  have hfirst := e.firstRound.isLt
  have hlast := e.lastRound.isLt
  have hsubject := subjectBits_lt e.subject
  have hx : put e.id.toNat 31 24 + put e.kind.code 23 16 + put e.count.toNat 15 8 + put low 7 0 < 2 ^ 32 := by
    simp only [put]
    omega
  have hy : put e.firstRound.toNat 31 24 + put e.lastRound.toNat 23 16 + put e.subject.bits 15 0 < 2 ^ 32 := by
    simp only [put]
    omega
  simp only [bitsAt_toWord hx, bitsAt_toWord hy]
  simp only [field, put]
  omega

/-! ## Requests without operands that need no claim -/

section
variable {s : State} {r : Request} {i : Fin 8} (h : s.Executes r i) (hops : r.operands = [])
include h hops

theorem exec_readSettings : exec (.readSettings r) s = .next ((s.begun r i).replied r i 6 .ok [s.settings.settingsWord] none) :=
  exec_answer h .readSettings (by rw [hops]; rfl) (fun hn => by cases hn)
    (by rw [ownRule, ownReadSettings, begun_settings]; rfl) (by rw [begun_responses])

theorem exec_readProfile {p : Port} (hsel : selectsPort r.selector p) :
    exec (.readProfile r) s = .next ((s.begun r i).replied r i 5 .ok (s.profileWords p) none) := by
  refine exec_answer h .readProfile (by rw [hops]; rfl) (fun hn => by cases hn) ?_ (by rw [begun_responses])
  rw [ownRule, ownReadProfile, selPort_eq_some.2 hsel]
  cases p <;> simp [State.profileWords, answerOk]

theorem exec_readProfile_of_no_port (hsel : ∀ p, ¬selectsPort r.selector p) :
    exec (.readProfile r) s = .next ((s.begun r i).replied r i 5 .range [] none) :=
  exec_answer h .readProfile (by rw [hops]; rfl) (fun hn => by cases hn)
    (by rw [ownRule, ownReadProfile, selPort_eq_none.2 hsel]; rfl) (by rw [begun_responses])

theorem exec_readCounters {p : Port} (hsel : selectsPort r.selector p) :
    exec (.readCounters r) s = .next ((s.begun r i).replied r i 7 .ok (s.counters.get p).words none) := by
  refine exec_answer h .readCounters (by rw [hops]; rfl) (fun hn => by cases hn) ?_ (by rw [begun_responses])
  rw [ownRule, ownReadCounters, selPort_eq_some.2 hsel, begun_counters]
  rfl

theorem exec_readCounters_of_no_port (hsel : ∀ p, ¬selectsPort r.selector p) :
    exec (.readCounters r) s = .next ((s.begun r i).replied r i 7 .range [] none) :=
  exec_answer h .readCounters (by rw [hops]; rfl) (fun hn => by cases hn)
    (by rw [ownRule, ownReadCounters, selPort_eq_none.2 hsel]; rfl) (by rw [begun_responses])

theorem exec_readNotices :
    exec (.readNotices r) s = .next ((s.begun r i).replied r i 11 .ok s.notices.words none) :=
  exec_answer h .readNotices (by rw [hops]; rfl) (fun hn => by cases hn)
    (by rw [ownRule, ownReadNotices, begun_notices]; rfl) (by rw [begun_responses])

theorem exec_readStatus : exec (.readStatus r) s = .next ((s.begun r i).replied r i 4 .ok s.statusWords none) :=
  exec_answer h .readStatus (by rw [hops]; rfl) (fun hn => by cases hn)
    (by rw [ownRule, ownReadStatus, begun_statusWords]; rfl) (by rw [begun_responses])

end

/-! ## The notices returned -/

/-- The sent-ever flag that READ_NOTICES shows for its entry `k`. -/
def NoticeUnit.sentFlag (u : NoticeUnit) (k : Nat) : Bool := (((u.entries.take 4)[k]?).map (·.sentEver)).getD false

theorem sentFlag_of_lt {u : NoticeUnit} {k : Nat} {e : Notice} (hk : k < 4) (he : u.entries[k]? = some e) :
    u.sentFlag k = e.sentEver := by
  simp [NoticeUnit.sentFlag, List.getElem?_take_of_lt hk, he]

theorem sentFlag_of_none {u : NoticeUnit} {k : Nat} (h : u.entries.length ≤ k) : u.sentFlag k = false := by
  have hnone : (u.entries.take 4)[k]? = none := by simp; omega
  simp [NoticeUnit.sentFlag, hnone]

/-- The words of the entries returned, two each. -/
def NoticeUnit.entryWords (u : NoticeUnit) : List Word := (u.entries.take 4).flatMap fun e => e.words e.countdown.toNat

theorem flatMap_words_getElem? (l : List Notice) (k : Nat) {e : Notice} (he : l[k]? = some e) :
    (l.flatMap fun e => e.words e.countdown.toNat)[2 * k]? = (e.words e.countdown.toNat)[0]? ∧
    (l.flatMap fun e => e.words e.countdown.toNat)[2 * k + 1]? = (e.words e.countdown.toNat)[1]? := by
  induction l generalizing k with
  | nil => simp at he
  | cons c l ih =>
    rw [List.flatMap_cons]
    cases k with
    | zero =>
      obtain rfl : c = e := by simpa using he
      exact ⟨rfl, rfl⟩
    | succ k => exact ih k he

theorem entryWords_length (u : NoticeUnit) : u.entryWords.length = 2 * min 4 u.entries.length := by
  rw [NoticeUnit.entryWords, List.length_flatMap]
  simp [Notice.words]
  omega

theorem words_eq (u : NoticeUnit) : u.words = toWord (put u.entries.length 31 24 + putBit u.overflow 23 +
    putBit (u.sentFlag 3) 3 + putBit (u.sentFlag 2) 2 + putBit (u.sentFlag 1) 1 + putBit (u.sentFlag 0) 0) ::
      u.entryWords := rfl

/-- Settles O35: each request is answered by the words of what it reports. -/
theorem pingAndPlainReadsReport : Obligations.PingAndPlainReadsReport := by
  intro r s i h b
  refine ⟨fun hlen => ?_, fun hops => ⟨?_, fun hsel => ?_, fun hsel => ?_, fun p hsel => ?_, fun hlaw => ?_, fun hsel =>
    ⟨exec_readProfile_of_no_port h hops hsel, exec_readCounters_of_no_port h hops hsel⟩⟩⟩
  · exact exec_answer h .ping (decide_eq_true hlen) (fun hn => by cases hn) rfl (by rw [begun_responses])
  · obtain ⟨hclaim, hrepeat, hzero⟩ := settingsWord_fields s.settings
    exact ⟨_, hclaim, hrepeat, hzero, exec_readSettings h hops⟩
  · obtain ⟨hzero, hflag⟩ := flagWord_fields s.uPendingFlag
    exact ⟨_, hzero, hflag, exec_readProfile h hops hsel⟩
  · obtain ⟨hzero, hflag⟩ := flagWord_fields s.lPendingFlag
    exact ⟨_, hzero, hflag, exec_readProfile h hops hsel⟩
  · obtain ⟨hgood, hmalformed⟩ := bitsAt_halves (s.counters.get p).good (s.counters.get p).malformed
    obtain ⟨hmisplaced, hlate⟩ := bitsAt_halves (s.counters.get p).misplaced (s.counters.get p).late
    obtain ⟨hdisturbed, hdropped⟩ := bitsAt_halves (s.counters.get p).disturbed (s.counters.get p).droppedRequests
    exact ⟨_, _, _, hgood, hmalformed, hmisplaced, hlate, hdisturbed, hdropped, exec_readCounters h hops hsel⟩
  · obtain ⟨hcount, hoverflow, hzero, h3, h2, h1, h0⟩ := noticesWord_fields hlaw.1 s.notices.overflow (s.notices.sentFlag 3)
      (s.notices.sentFlag 2) (s.notices.sentFlag 1) (s.notices.sentFlag 0)
    have hflags : ∀ k, k < 4 → (toWord (put s.notices.entries.length 31 24 + putBit s.notices.overflow 23 +
        putBit (s.notices.sentFlag 3) 3 + putBit (s.notices.sentFlag 2) 2 + putBit (s.notices.sentFlag 1) 1 +
        putBit (s.notices.sentFlag 0) 0)).getLsbD k = s.notices.sentFlag k := by
      intro k hk
      match k with
      | 0 => exact h0
      | 1 => exact h1
      | 2 => exact h2
      | 3 => exact h3
    refine ⟨_, _, hcount, hoverflow, hzero, entryWords_length _, fun k hk hlt => ?_, fun k e hlt he => ⟨?_, ?_⟩,
      words_eq s.notices ▸ exec_readNotices h hops⟩
    · rw [hflags k hlt, sentFlag_of_none (by omega)]
    · rw [hflags k hlt, sentFlag_of_lt hlt he]
    · obtain ⟨x, y, hwords, hfields⟩ := notice_fields e e.countdown.isLt
      have hget := flatMap_words_getElem? (s.notices.entries.take 4) k ((List.getElem?_take_of_lt hlt).trans he)
      rw [hwords] at hget
      exact ⟨x, y, hget.1, hget.2, hfields⟩

end Sys2Proof.Machine
end

section
/-! READ_STATUS, READ_RECORD and READ_MAILBOX (10.3). -/

set_option Elab.async false

namespace Sys2Proof.Machine

/-! ## READ_STATUS -/

theorem reportedURound_of_none {s : State} (h : s.uTime.state = .off ∨ s.uTime.state = .seek) :
    roundCode s.reportedURound = 255 := by
  rcases h with h | h <;> simp [State.reportedURound, State.placementApplies, h, roundCode]

theorem reportedURound_of_some {s : State} {n : Round}
    (h : s.uTime.state = .align ∨ s.uTime.state = .confirm ∨ s.uTime.state = .locked) (hn : s.uTime.round = some n) :
    roundCode s.reportedURound = n.toNat := by
  rcases h with h | h | h <;> simp [State.reportedURound, State.placementApplies, h, hn, roundCode]

theorem reportedLRound_of_off {s : State} (h : s.lTime.state = .off) : roundCode s.reportedLRound = 255 := by
  simp [State.reportedLRound, h, roundCode]

theorem reportedLRound_of_some {s : State} {n : Round} (h : s.lTime.state ≠ .off) (hn : s.lTime.round = some n) :
    roundCode s.reportedLRound = n.toNat := by
  simp [State.reportedLRound, h, hn, roundCode]

/-- The word of the two timing records: four bytes. -/
theorem timingWord_fields {a b c d : Nat} (ha : a < 2 ^ 8) (hb : b < 2 ^ 8) (hc : c < 2 ^ 8) (hd : d < 2 ^ 8) :
    let w := toWord (put a 31 24 + put b 23 16 + put c 15 8 + put d 7 0)
    bitsAt w 31 24 = a ∧ bitsAt w 23 16 = b ∧ bitsAt w 15 8 = c ∧ bitsAt w 7 0 = d := by
  have hlt : put a 31 24 + put b 23 16 + put c 15 8 + put d 7 0 < 2 ^ 32 := by
    simp only [put]
    omega
  simp only [bitsAt_toWord hlt]
  simp only [field, put]
  omega

theorem planWord_fields {generation : BitVec 16} {check : Nat} (hcheck : check < 8) (l u f : Bool) :
    let w := toWord (put generation.toNat 31 16 + put check 15 8 + putBit l 3 + putBit u 2 + putBit f 0)
    bitsAt w 31 16 = generation.toNat ∧ bitsAt w 15 8 = check ∧ w.getLsbD 3 = l ∧ w.getLsbD 2 = u ∧ w.getLsbD 0 = f ∧
      bitsAt w 7 4 = 0 ∧ bitsAt w 1 1 = 0 := by
  have hg := generation.isLt
  have hl := l.toNat_lt
  have hu := u.toNat_lt
  have hf := f.toNat_lt
  have hlt : put generation.toNat 31 16 + put check 15 8 + putBit l 3 + putBit u 2 + putBit f 0 < 2 ^ 32 := by
    simp only [put, putBit]
    omega
  simp only [getLsbD_eq_iff_bitsAt, bitsAt_toWord hlt]
  simp only [field, put, putBit]
  omega

theorem faultWord_fields (c : FaultCode) (ref : RecordRef) :
    bitsAt (faultWord (some (c, ref))) 31 24 = c.code ∧ bitsAt (faultWord (some (c, ref))) 13 0 = refBits ref := by
  have hc := faultCode_lt c
  have href := refBits_lt ref
  have hlt : put c.code 31 24 + put Config.faultReferenceBank.toNat 15 14 + refBits ref < 2 ^ 32 := by
    simp only [put]
    omega
  simp only [faultWord, bitsAt_toWord hlt]
  simp only [field, put]
  omega

theorem fault_of_not_failed {c : CheckState} (h : ∀ f ref, c ≠ .failed f ref) : c.fault = none := by
  cases c with
  | failed f ref => exact absurd rfl (h f ref)
  | _ => rfl

theorem holderBits_lt (o : Option PartyId) : holderBits o < 2 ^ 32 ∧ holderBits o % 2 ^ 16 = 0 := by
  rcases o with _ | id
  · decide
  · have hp := portCode_lt id.port
    have hs := id.station.isLt
    simp only [holderBits, put]
    omega

theorem claimWord_fields (o : Option PartyId) {k : Nat} (hk : k ≤ 16) (overflow : Bool) :
    let w := toWord (holderBits o + put k 15 8 + putBit overflow 0)
    bitsAt w 31 16 = holderBits o / 2 ^ 16 ∧ bitsAt w 31 30 = holderBits o / 2 ^ 30 ∧
      bitsAt w 23 16 = holderBits o / 2 ^ 16 % 2 ^ 8 ∧ bitsAt w 15 8 = k ∧ w.getLsbD 0 = overflow := by
  obtain ⟨hlt, hmod⟩ := holderBits_lt o
  have ho := overflow.toNat_lt
  have hw : holderBits o + put k 15 8 + putBit overflow 0 < 2 ^ 32 := by
    simp only [put, putBit]
    omega
  simp only [getLsbD_eq_iff_bitsAt, bitsAt_toWord hw]
  simp only [field, put, putBit]
  omega

theorem holderBits_some (id : PartyId) : holderBits (some id) / 2 ^ 30 = portCode id.port ∧
    holderBits (some id) / 2 ^ 16 % 2 ^ 8 = id.station.toNat := by
  have hp := portCode_lt id.port
  have hs := id.station.isLt
  simp only [holderBits, put]
  omega

/-- Settles O36, word by word. -/
theorem readStatusReportsTheState : Obligations.ReadStatusReportsTheState := by
  intro r s i h hops hlaw
  have hstrap : bitsAt (toWord (put 2412 31 16 + put 1 15 8 + put s.strap.toNat 7 0)) 31 16 = 2412 ∧
      bitsAt (toWord (put 2412 31 16 + put 1 15 8 + put s.strap.toNat 7 0)) 15 8 = 1 ∧
      bitsAt (toWord (put 2412 31 16 + put 1 15 8 + put s.strap.toNat 7 0)) 7 0 = s.strap.toNat := by
    have hlt := s.strap.isLt
    have hw : put 2412 31 16 + put 1 15 8 + put s.strap.toNat 7 0 < 2 ^ 32 := by
      simp only [put]
      omega
    simp only [bitsAt_toWord hw]
    simp only [field, put]
    omega
  obtain ⟨hpart, hrevision, hstrap⟩ := hstrap
  obtain ⟨hu, hur, hl, hlr⟩ := timingWord_fields (lt_trans (uStateCode_lt s.uTime.state) (by decide))
    (roundCode_lt s.reportedURound) (lt_trans (lStateCode_lt s.lTime.state) (by decide)) (roundCode_lt s.reportedLRound)
  obtain ⟨hgeneration, hcheck, hlflag, huflag, hforwarding, hhigh, hlow⟩ := planWord_fields (generation := s.generation)
    (checkStateCode_lt s.checkState) s.lPendingFlag s.uPendingFlag (decide (s.forwarding = .forwarding))
  obtain ⟨hholder, hport, hstation, hcount, hoverflow⟩ := claimWord_fields s.claim hlaw.1 s.notices.overflow
  refine ⟨_, _, _, _, _, exec_readStatus h hops, hpart, hrevision, hstrap, ?_, fun hs => hur.trans (reportedURound_of_none hs),
    fun n hs hn => hur.trans (reportedURound_of_some hs hn), ?_, fun hs => hlr.trans (reportedLRound_of_off hs),
    fun n hs hn => hlr.trans (reportedLRound_of_some hs hn), hgeneration, ?_, hlflag, huflag, hforwarding, hhigh, hlow,
    fun c ref hfailed => ?_, fun hnot => ?_, fun hnone => ?_, fun id hid => ?_, hcount, hoverflow⟩
  · rw [hu]
    cases s.uTime.state <;> rfl
  · rw [hl]
    cases s.lTime.state <;> rfl
  · rw [hcheck]
    cases s.checkState <;> rfl
  · rw [hfailed]
    exact faultWord_fields c ref
  · rw [fault_of_not_failed hnot]
    rfl
  · rw [hholder, hnone]
    rfl
  · rw [hport, hstation, hid]
    exact holderBits_some id

/-! ## READ_RECORD -/

theorem recordHead_fields (generation : BitVec 16) {outcome round : Nat} (ho : outcome < 2 ^ 8) (hr : round < 2 ^ 8) :
    bitsAt (recordHead generation outcome round) 31 16 = generation.toNat ∧
    bitsAt (recordHead generation outcome round) 15 8 = outcome ∧ bitsAt (recordHead generation outcome round) 7 0 = round ∧
    bitsAt (recordHead generation outcome round) 15 0 = outcome * 2 ^ 8 + round := by
  have hg := generation.isLt
  have hlt : put generation.toNat 31 16 + put outcome 15 8 + put round 7 0 < 2 ^ 32 := by
    simp only [put]
    omega
  simp only [recordHead, bitsAt_toWord hlt]
  simp only [field, put]
  omega

/-- The head word of an entry with its outcome fields. -/
theorem entryHead_fields {α : Type} (generation : BitVec 16) (code : α → Nat) (hcode : ∀ x, code x < 2 ^ 8) (role : BankRole)
    (o : Option (α × Round)) :
    let w := recordHead generation (outcomeFields code role o).1 (outcomeFields code role o).2
    bitsAt w 31 16 = generation.toNat ∧ (role = .staged → bitsAt w 15 0 = 0) ∧
      (role = .active → o = none → bitsAt w 15 8 = 0 ∧ bitsAt w 7 0 = 255) ∧
      (∀ x m, role = .active → o = some (x, m) → bitsAt w 15 8 = code x ∧ bitsAt w 7 0 = m.toNat) := by
  have houtcome : (outcomeFields code role o).1 < 2 ^ 8 ∧ (outcomeFields code role o).2 < 2 ^ 8 := by
    rcases role with _ | _ <;> rcases o with _ | ⟨x, m⟩ <;> simp [outcomeFields]
    have hm := m.isLt
    exact ⟨hcode x, by omega⟩
  obtain ⟨hg, ho, hr, hboth⟩ := recordHead_fields generation houtcome.1 houtcome.2
  refine ⟨hg, ?_, ?_, ?_⟩
  · rintro rfl
    exact hboth.trans (by simp [outcomeFields])
  · rintro rfl rfl
    exact ⟨ho, hr⟩
  · rintro x m rfl rfl
    exact ⟨ho, hr⟩

theorem captureOutcomeCode_lt (o : CaptureOutcome) : o.code < 2 ^ 8 := by cases o <;> decide

theorem emitOutcomeCode_lt (o : EmitOutcome) : o.code < 2 ^ 8 := by cases o <;> decide

theorem begun_recordWords (s : State) (r : Request) (i : Fin 8) (role : BankRole) (ref : RecordRef) :
    (s.begun r i).recordWords role ref = s.recordWords role ref := by
  simp only [State.recordWords, begun_bank, begun_captureOutcomes, begun_emitOutcomes, begun_generation]

section
variable {s : State} {r : Request} {i : Fin 8} (h : s.Executes r i) (hops : r.operands = []) {role : BankRole}
  {ref : RecordRef}
include h hops

theorem exec_readRecord_of_failed (hbank : selectsBank r.selector role) (href : selectsRecord r.selector ref)
    (hbad : (s.bank role).parityGood ref = false) : exec (.readRecord r) s = .next ({ s.begun r i with
      notices := s.notices.raise .planParity (.record role ref) s.raiseRound }.replied r i 8 .failed [] none) := by
  rw [← begun_raise]
  refine exec_answer h .readRecord (by rw [hops]; rfl) (fun hn => by cases hn) ?_ (by rw [raise_eq]; exact begun_responses s r i)
  simp only [ownRule, ownReadRecord, selBank_eq_some.2 hbank, selRecord_eq_some.2 href, begun_bank, hbad, answer,
    Bool.false_eq_true, if_false]

theorem exec_readRecord_of_undefined (hbank : selectsBank r.selector role) (href : selectsRecord r.selector ref)
    (hgood : (s.bank role).parityGood ref = true) (hnone : s.recordWords role ref = none) :
    exec (.readRecord r) s = .next ((s.begun r i).replied r i 8 .undefined [] none) := by
  refine exec_answer h .readRecord (by rw [hops]; rfl) (fun hn => by cases hn) ?_ (by rw [begun_responses])
  simp only [ownRule, ownReadRecord, selBank_eq_some.2 hbank, selRecord_eq_some.2 href, begun_bank, hgood, answer, if_true,
    begun_recordWords, hnone]

theorem exec_readRecord_of_defined (hbank : selectsBank r.selector role) (href : selectsRecord r.selector ref)
    (hgood : (s.bank role).parityGood ref = true) {ws : List Word} (hsome : s.recordWords role ref = some ws) :
    exec (.readRecord r) s = .next ((s.begun r i).replied r i 8 .ok ws none) := by
  refine exec_answer h .readRecord (by rw [hops]; rfl) (fun hn => by cases hn) ?_ (by rw [begun_responses])
  simp only [ownRule, ownReadRecord, selBank_eq_some.2 hbank, selRecord_eq_some.2 href, begun_bank, hgood, answerOk, if_true,
    begun_recordWords, hsome]

theorem exec_readRecord_of_no_record
    (hsel : (∀ role, ¬selectsBank r.selector role) ∨ (∀ ref, ¬selectsRecord r.selector ref)) :
    exec (.readRecord r) s = .next ((s.begun r i).replied r i 8 .range [] none) := by
  refine exec_answer h .readRecord (by rw [hops]; rfl) (fun hn => by cases hn) ?_ (by rw [begun_responses])
  simp only [ownRule, ownReadRecord, answer]
  rcases hsel with hsel | hsel
  · rw [selBank_eq_none.2 hsel]
  · rw [selRecord_eq_none.2 hsel]
    cases selBank r.selector <;> rfl

end

/-- Settles O37: the answers by parity and definedness, and the head word by the role of the bank. -/
theorem readRecordReportsTheRecord : Obligations.ReadRecordReportsTheRecord := by
  intro r s i h hops b
  refine ⟨fun role ref hbank href => ⟨exec_readRecord_of_failed h hops hbank href, fun hgood => ⟨?_, ?_, ?_, ?_, ?_, ?_, ?_, ?_⟩⟩,
    exec_readRecord_of_no_record h hops⟩
  · rintro n rfl hnone
    exact exec_readRecord_of_undefined h hops hbank href hgood (by simp only [State.recordWords, hnone, Option.map_none])
  · rintro n rfl hnone
    exact exec_readRecord_of_undefined h hops hbank href hgood (by simp only [State.recordWords, hnone, Option.map_none])
  · rintro n rfl hnone
    exact exec_readRecord_of_undefined h hops hbank href hgood (by simp only [State.recordWords, hnone, Option.map_none])
  · rintro n rfl hnone
    exact exec_readRecord_of_undefined h hops hbank href hgood (by simp only [State.recordWords, hnone, Option.map_none])
  · rintro n d rfl hsome
    obtain ⟨hg, -, -, hzero⟩ := recordHead_fields s.generation (outcome := 0) (round := 0) (by decide) (by decide)
    exact ⟨_, hg, hzero, exec_readRecord_of_defined h hops hbank href hgood
      (by simp only [State.recordWords, hsome, Option.map_some])⟩
  · rintro n d rfl hsome
    obtain ⟨hg, -, -, hzero⟩ := recordHead_fields s.generation (outcome := 0) (round := 0) (by decide) (by decide)
    exact ⟨_, hg, hzero, exec_readRecord_of_defined h hops hbank href hgood
      (by simp only [State.recordWords, hsome, Option.map_some])⟩
  · rintro n e rfl hsome
    obtain ⟨hg, hstaged, hnone, houtcome⟩ := entryHead_fields s.generation _ captureOutcomeCode_lt role s.captureOutcomes[n]
    exact ⟨_, hg, hstaged, hnone, houtcome, exec_readRecord_of_defined h hops hbank href hgood
      (by simp only [State.recordWords, hsome, Option.map_some])⟩
  · rintro n e rfl hsome
    obtain ⟨hg, hstaged, hnone, houtcome⟩ := entryHead_fields s.generation _ emitOutcomeCode_lt role s.emitOutcomes[n]
    exact ⟨_, hg, hstaged, hnone, houtcome, exec_readRecord_of_defined h hops hbank href hgood
      (by simp only [State.recordWords, hsome, Option.map_some])⟩

/-! ## READ_MAILBOX -/

theorem mailboxWords_fields {m : MailboxRt} (hlength : m.length ≤ 12) : ∃ v w : Word, m.words = [v, w] ∧
    bitsAt v 31 24 = m.state.code ∧ bitsAt v 23 23 = m.half.code ∧ bitsAt v 22 21 = optPortCode m.openWrite ∧
    v.getLsbD 20 = m.truncated ∧ bitsAt v 19 16 = m.length ∧ bitsAt v 15 8 = stationCode m.source ∧
    bitsAt v 7 0 = roundCode m.round ∧ bitsAt w 31 24 = m.age.toNat ∧ bitsAt w 23 16 = m.tag.toNat ∧ bitsAt w 15 0 = 0 := by
  refine ⟨_, _, rfl, ?_⟩
  have hstate := mailboxStateCode_lt m.state
  have hhalf := halfCode_lt m.half
  have hport := optPortCode_lt m.openWrite
  have htruncated := m.truncated.toNat_lt
  have hsource := stationCode_lt m.source
  have hround := roundCode_lt m.round
  have hage := m.age.isLt
  have htag := m.tag.isLt
  have hv : put m.state.code 31 24 + put m.half.code 23 23 + put (optPortCode m.openWrite) 22 21 + putBit m.truncated 20 +
      put m.length 19 16 + put (stationCode m.source) 15 8 + put (roundCode m.round) 7 0 < 2 ^ 32 := by
    simp only [put, putBit]
    omega
  have hw : put m.age.toNat 31 24 + put m.tag.toNat 23 16 < 2 ^ 32 := by
    simp only [put]
    omega
  simp only [getLsbD_eq_iff_bitsAt, bitsAt_toWord hv, bitsAt_toWord hw]
  simp only [field, put, putBit]
  omega

/-- The offset and the selector fit: the definition is read. -/
theorem ownReadMailbox_eq {sel : BitVec 16} {offset : Word} {n : Fin 64} (hsel : selectsNumber sel n)
    (hoffset : offset.toNat ≤ 11) (b : State) : ownReadMailbox sel [offset] b =
    match b.active.mailboxes[n].seen with
      | none => answer (b.readActive (.mailbox n)) .undefined
      | some d =>
        if b.mailboxes[n].state = .faulted then answer b .failed
        else
          match b.mailboxPayload n d with
          | none => answer (b.faultMailbox n) .failed
          | some ws => answerOk b (b.mailboxes[n].words ++ (ws.drop offset.toNat).take 9) := by
  rw [ownReadMailbox, selMailbox_eq_some.2 hsel]
  exact if_neg (Nat.not_lt.2 hoffset)

theorem begun_mailboxPayload (s : State) (r : Request) (i : Fin 8) (n : Fin 64) (d : MailboxDef) :
    (s.begun r i).mailboxPayload n d = s.mailboxPayload n d := by
  rw [State.mailboxPayload, begun_mailboxes]
  exact readWords_congr (begun_wordAt s r i) _ _

theorem begun_faultMailbox (s : State) (r : Request) (i : Fin 8) (n : Fin 64) :
    (s.begun r i).faultMailbox n = { s.begun r i with
      mailboxes := s.mailboxes.set n { s.mailboxes[n] with state := .faulted }
      notices := s.notices.raise .storeParity (.mailbox n) s.raiseRound } := by
  obtain ⟨ps, hbegun⟩ := begun_frame s r i
  rw [hbegun, State.faultMailbox, raise_eq]
  rfl

theorem mailboxPayload_eq_some {s : State} {n : Fin 64} {d : MailboxDef} {ws : List Word} :
    s.mailboxPayload n d = some ws ↔ ws.length = s.mailboxes[n].length ∧ ∀ j, j < s.mailboxes[n].length →
      s.wordAt (halfBase d.base d.capacity s.mailboxes[n].half + j) = .good (ws.getD j 0) := readWords_eq_some

theorem mailboxPayload_eq_none {s : State} {n : Fin 64} {d : MailboxDef} : s.mailboxPayload n d = none ↔
    ∃ j, j < s.mailboxes[n].length ∧ s.wordAt (halfBase d.base d.capacity s.mailboxes[n].half + j) = .failed :=
  readWords_eq_none

/-- The first word of a half, as Chapter 7 states it. -/
theorem halfBase_eq (base capacity : Nat) (x : Half) : (match x with
    | .a => base
    | .b => base + capacity) = halfBase base capacity x := by cases x <;> rfl

section
variable {s : State} {r : Request} {i : Fin 8} (h : s.Executes r i) {offset : Word} (hops : r.operands = [offset]) {n : Fin 64}
include h hops

theorem exec_readMailbox {t : State} {status : Status} {results : List Word}
    (hown : ownReadMailbox r.selector [offset] (s.begun r i) = (t, .now status results none false))
    (ht : t.responses = s.responses) : exec (.readMailbox r) s = .next (t.replied r i 9 status results none) :=
  exec_answer h .readMailbox (by rw [hops]; rfl) (fun hn => by cases hn) (by rw [hops]; exact hown) ht

theorem exec_readMailbox_range (hsel : (∀ n : Fin 64, ¬selectsNumber r.selector n) ∨ 11 < offset.toNat) :
    exec (.readMailbox r) s = .next ((s.begun r i).replied r i 9 .range [] none) := by
  refine exec_readMailbox h hops ?_ (by rw [begun_responses])
  unfold ownReadMailbox
  split
  · rfl
  · rename_i n hn
    rcases hsel with hsel | hsel
    · exact absurd (selMailbox_eq_some.1 hn) (hsel n)
    · exact if_pos hsel

section
variable (hsel : selectsNumber r.selector n) (hoffset : offset.toNat ≤ 11)
include hsel hoffset

theorem exec_readMailbox_undefined (hgood : s.active.mailboxes[n].parityGood = true)
    (hnone : s.active.mailboxes[n].fields = none) :
    exec (.readMailbox r) s = .next ((s.begun r i).replied r i 9 .undefined [] none) := by
  refine exec_readMailbox h hops ?_ (by rw [begun_responses])
  rw [ownReadMailbox_eq hsel hoffset, begun_active, seen_of_good hgood, hnone,
    readActive_of_good (ref := .mailbox n) (by rw [begun_active]; exact hgood)]
  rfl

theorem exec_readMailbox_failed (hbad : s.active.mailboxes[n].parityGood = false) :
    exec (.readMailbox r) s = .next ({ s.begun r i with
      notices := s.notices.raise .planParity (.record .active (.mailbox n)) s.raiseRound }.replied r i 9 .undefined
        [] none) := by
  rw [← begun_raise]
  refine exec_readMailbox h hops ?_ (by rw [raise_eq]; exact begun_responses s r i)
  rw [ownReadMailbox_eq hsel hoffset, begun_active, seen_of_failed hbad,
    readActive_of_failed (ref := .mailbox n) (by rw [begun_active]; exact hbad)]
  rfl

variable {d : MailboxDef} (hgood : s.active.mailboxes[n].parityGood = true) (hd : s.active.mailboxes[n].fields = some d)
include hgood hd

theorem exec_readMailbox_faulted (hstate : s.mailboxes[n].state = .faulted) :
    exec (.readMailbox r) s = .next ((s.begun r i).replied r i 9 .failed [] none) := by
  refine exec_readMailbox h hops ?_ (by rw [begun_responses])
  simp only [ownReadMailbox_eq hsel hoffset, begun_active, seen_of_good hgood, hd, begun_mailboxes, hstate, if_true, answer]

theorem exec_readMailbox_faults (hstate : s.mailboxes[n].state ≠ .faulted) (hnone : s.mailboxPayload n d = none) :
    exec (.readMailbox r) s = .next ({ s.begun r i with
      mailboxes := s.mailboxes.set n { s.mailboxes[n] with state := .faulted }
      notices := s.notices.raise .storeParity (.mailbox n) s.raiseRound }.replied r i 9 .failed [] none) := by
  refine exec_readMailbox h hops ?_ (begun_responses s r i)
  simp only [ownReadMailbox_eq hsel hoffset, begun_active, seen_of_good hgood, hd, begun_mailboxes, hstate, if_false,
    begun_mailboxPayload, hnone, answer, begun_faultMailbox]

theorem exec_readMailbox_ok (hstate : s.mailboxes[n].state ≠ .faulted) {ws : List Word}
    (hws : s.mailboxPayload n d = some ws) : exec (.readMailbox r) s =
      .next ((s.begun r i).replied r i 9 .ok (s.mailboxes[n].words ++ (ws.drop offset.toNat).take 9) none) := by
  refine exec_readMailbox h hops ?_ (by rw [begun_responses])
  simp only [ownReadMailbox_eq hsel hoffset, begun_active, seen_of_good hgood, hd, begun_mailboxes, hstate, if_false,
    begun_mailboxPayload, hws, answerOk]

end

end

/-- Settles O38: the refusals in order, then the payload words as the store holds them. -/
theorem readMailboxReportsTheMailbox : Obligations.ReadMailboxReportsTheMailbox := by
  intro r s i offset h hops b
  refine ⟨exec_readMailbox_range h hops, ?_⟩
  intro n hsel hoffset m x
  refine ⟨exec_readMailbox_undefined h hops hsel hoffset, exec_readMailbox_failed h hops hsel hoffset, ?_⟩
  intro d hgood hd start
  refine ⟨exec_readMailbox_faulted h hops hsel hoffset hgood hd, fun hstate hfailed => ?_, fun ws hstate hlen hle hwords => ?_⟩
  · refine exec_readMailbox_faults h hops hsel hoffset hgood hd hstate (mailboxPayload_eq_none.2 ?_)
    exact halfBase_eq d.base d.capacity m.half ▸ hfailed
  · obtain ⟨v, w, hmwords, hcode, hhalf, hport, htruncated, hlength, hsource, hround, hage, htag, hzero⟩ :=
      mailboxWords_fields hle
    have hpayload : s.mailboxPayload n d = some ws := mailboxPayload_eq_some.2 ⟨hlen,
      halfBase_eq d.base d.capacity m.half ▸ hwords⟩
    have hexec := exec_readMailbox_ok h hops hsel hoffset hgood hd hstate hpayload
    rw [hmwords] at hexec
    exact ⟨v, w, hcode, hhalf, fun hnone => by rw [hport, hnone]; rfl, fun p hp => by rw [hport, hp]; rfl, htruncated,
      hlength, fun hnone => by rw [hsource, hnone]; rfl, fun a ha => by rw [hsource, ha]; rfl,
      fun hnone => by rw [hround, hnone]; rfl, fun k hk => by rw [hround, hk]; rfl, hage, htag, hzero, hexec⟩

end Sys2Proof.Machine
end

section
/-! Requests of the claim holder that set what they name: settings, counters, forwarding, profiles, the plan, the check
(10.4 to 10.6). -/

set_option Elab.async false

namespace Sys2Proof.Machine

/-! ## Settings, counters, forwarding -/

theorem parseSettings_eq (w : Word) :
    parseSettings w = { claimTimeout := w.extractLsb' 24 8, repeatInterval := w.extractLsb' 16 8 } := by
  simp only [parseSettings, byteOf, extract_eq_ofNat_field]

theorem settings_ok_iff {t : Settings} : t.ok = true ↔ 8 ≤ t.claimTimeout.toNat ∧ 4 ≤ t.repeatInterval.toNat := by
  simp [Settings.ok]

/-- Settles O42: each request sets its quantity by its own rule. -/
theorem settingsCountersAndForwardingAreSet : Obligations.SettingsCountersAndForwardingAreSet := by
  intro r s i h b
  refine ⟨?_, fun hops => ⟨fun p hsel => ?_, fun hsel => ?_, ?_, ?_⟩⟩
  · intro w hops t
    have hparse : parseSettings w = t := parseSettings_eq w
    have hown : ∀ {t' status}, ownWriteSettings [w] (s.begun r i) = (t', .now status [] none false) →
        t'.responses = s.responses → exec (.writeSettings r) s = .next (t'.replied r i 13 status [] none) :=
      fun hown => exec_holder h .writeSettings (by rw [hops]; rfl) (by rw [hops]; exact hown)
    refine ⟨fun hclaim hrepeat => hown ?_ (begun_responses s r i), fun hout => hown ?_ (begun_responses s r i)⟩
    · rw [ownWriteSettings, List.headD_cons, hparse, if_pos (settings_ok_iff.2 ⟨hclaim, hrepeat⟩)]
      rfl
    · rw [ownWriteSettings, List.headD_cons, hparse, if_neg (fun hok => by have := settings_ok_iff.1 hok; omega)]
      rfl
  · refine exec_holder h .clearCounters (by rw [hops]; rfl) ?_ (begun_responses s r i)
    rw [ownRule, ownClearCounters, selPort_eq_some.2 hsel]
    simp only [State.withCounters, begun_counters, answerOk]
    rfl
  · exact exec_holder h .clearCounters (by rw [hops]; rfl) (by rw [ownRule, ownClearCounters, selPort_eq_none.2 hsel]; rfl)
      (begun_responses s r i)
  · exact exec_holder h .start (by rw [hops]; rfl) rfl (begun_responses s r i)
  · exact exec_holder h .halt (by rw [hops]; rfl) rfl (begun_responses s r i)

/-! ## Profiles -/

theorem field_lt (x hi lo : Nat) : field x hi lo < 2 ^ (hi + 1 - lo) := Nat.mod_lt _ (by positivity)

theorem parseUProfile_bounds (w0 w1 w2 w3 : Word) : (parseUProfile w0 w1 w2 w3).slotLength ≤ 255 ∧
    (parseUProfile w0 w1 w2 w3).lapseLimit ≤ 15 :=
  ⟨Nat.le_of_lt_succ (field_lt _ _ _), Nat.le_of_lt_succ (field_lt _ _ _)⟩

theorem parseLProfile_bounds (w0 w1 w2 : Word) : (parseLProfile w0 w1 w2).slotLength ≤ 255 ∧
    (parseLProfile w0 w1 w2).tieOffset ≤ 65535 :=
  ⟨Nat.le_of_lt_succ (field_lt _ _ _), Nat.le_of_lt_succ (field_lt _ _ _)⟩

theorem profilesAgree_iff {u : UProfile} {l : LProfile} : profilesAgree u l = true ↔
    l.tieOffset < u.slotCount * u.slotLength ∧
      (l.tieEnabled = true → l.slotCount * l.slotLength ≤ u.slotCount * u.slotLength) := by
  simp only [profilesAgree, Bool.and_eq_true, Bool.or_eq_true, Bool.not_eq_true', decide_eq_true_eq]
  rw [UProfile.duration, LProfile.duration, ← Bool.not_eq_true, ← imp_iff_not_or]

theorem uProfile_ok_iff {u : UProfile} (hlength : u.slotLength ≤ 255) (hlapse : u.lapseLimit ≤ 15) : u.ok = true ↔
    u.station ≠ 0 ∧ u.station ≠ 255 ∧ 8 ≤ u.slotCount ∧ u.slotCount ≤ 1023 ∧ 6 ≤ u.slotLength ∧
      1 ≤ u.responseSlot ∧ u.responseSlot ≤ u.slotCount ∧ 1 ≤ u.lapseLimit ∧ 1 ≤ u.confirmQuorum ∧
      u.confirmQuorum ≤ 4 ∧ u.timingStations.length ≤ 4 ∧ (∀ a, a ∈ u.timingStations → a ≠ 0 ∧ a ≠ 255) ∧
      u.timingStations.Nodup ∧ u.noticeTarget ≠ 255 := by
  simp only [UProfile.ok, Bool.and_eq_true, decide_eq_true_eq, List.all_eq_true, hlength, hlapse, and_true, and_assoc]

theorem lProfile_ok_iff {l : LProfile} (hlength : l.slotLength ≤ 255) (htie : l.tieOffset ≤ 65535) : l.ok = true ↔
    l.station ≠ 0 ∧ l.station ≠ 255 ∧ 8 ≤ l.slotCount ∧ l.slotCount ≤ 1023 ∧ 6 ≤ l.slotLength ∧
      1 ≤ l.beaconSlot ∧ l.beaconSlot ≤ l.slotCount ∧ 1 ≤ l.responseSlot ∧ l.responseSlot ≤ l.slotCount ∧
      l.beaconSlot ≠ l.responseSlot ∧ l.noticeTarget ≠ 255 := by
  simp only [LProfile.ok, Bool.and_eq_true, decide_eq_true_eq, hlength, htie, and_true, and_assoc]

section
variable {p : UProfile} {id : PartyId} {b : State}

theorem writeUProfile_of_range (h : ¬(p.ok = true ∧ profilesAgree p b.lStored = true)) :
    writeUProfile p id b = answer b .range := by
  rw [← Bool.and_eq_true, Bool.not_eq_true] at h
  simp only [writeUProfile, h, Bool.not_false, if_true]

theorem writeUProfile_of_state (h : p.ok = true ∧ profilesAgree p b.lStored = true) (hoff : p.enabled = false)
    (hport : id.port = .u) : writeUProfile p id b = answer b .state := by
  simp [writeUProfile, h, hoff, hport]

theorem writeUProfile_of_ok (h : p.ok = true ∧ profilesAgree p b.lStored = true) (hcase : p.enabled = true ∨ id.port = .l) :
    writeUProfile p id b =
      answerOk { b with uStored := p, uInUse := { b.uInUse with noticeTarget := p.noticeTarget } } [] := by
  rcases hcase with hcase | hcase <;> simp [writeUProfile, h, hcase]

end

section
variable {p : LProfile} {id : PartyId} {b : State}

theorem writeLProfile_of_range (h : ¬(p.ok = true ∧ profilesAgree b.uStored p = true)) :
    writeLProfile p id b = answer b .range := by
  rw [← Bool.and_eq_true, Bool.not_eq_true] at h
  simp only [writeLProfile, h, Bool.not_false, if_true]

theorem writeLProfile_of_state (h : p.ok = true ∧ profilesAgree b.uStored p = true) (hoff : p.enabled = false)
    (hcase : id.port = .l ∨ b.checkState = .commitPending) : writeLProfile p id b = answer b .state := by
  simp [writeLProfile, h, hoff, hcase]

theorem writeLProfile_of_ok (h : p.ok = true ∧ profilesAgree b.uStored p = true)
    (hcase : p.enabled = true ∨ id.port = .u ∧ b.checkState ≠ .commitPending) : writeLProfile p id b =
      answerOk { b with lStored := p, lInUse := { b.lInUse with noticeTarget := p.noticeTarget } } [] := by
  rcases hcase with hcase | ⟨hport, hcheck⟩
  · simp [writeLProfile, h, hcase]
  · simp [writeLProfile, h, hport, hcheck]

end

section
variable {s : State} {r : Request} {i : Fin 8} (h : s.HolderExecutes r i)
include h

theorem exec_writeUProfile {w0 w1 w2 w3 : Word} (hsel : selectsPort r.selector .u) (hops : r.operands = [w0, w1, w2, w3])
    {t : State} {status : Status}
    (hown : writeUProfile (parseUProfile w0 w1 w2 w3) (requestParty r) (s.begun r i) = (t, .now status [] none false))
    (ht : t.responses = s.responses) : exec (.writeProfile r) s = .next (t.replied r i 12 status [] none) := by
  refine exec_holder h .writeProfile ?_ ?_ ht
  · simp [Req.countOk, selPort_eq_some.2 hsel, hops]
  · simp only [ownRule, ownWriteProfile, selPort_eq_some.2 hsel, hops]
    exact hown

theorem exec_writeLProfile {w0 w1 w2 : Word} (hsel : selectsPort r.selector .l) (hops : r.operands = [w0, w1, w2])
    {t : State} {status : Status}
    (hown : writeLProfile (parseLProfile w0 w1 w2) (requestParty r) (s.begun r i) = (t, .now status [] none false))
    (ht : t.responses = s.responses) : exec (.writeProfile r) s = .next (t.replied r i 12 status [] none) := by
  refine exec_holder h .writeProfile ?_ ?_ ht
  · simp [Req.countOk, selPort_eq_some.2 hsel, hops]
  · simp only [ownRule, ownWriteProfile, selPort_eq_some.2 hsel, hops]
    exact hown

end

/-- Settles O41: the tests of R159 in their order, the ranges written out. -/
theorem writeProfileIsJudgedWhole : Obligations.WriteProfileIsJudgedWhole := by
  intro r s i h b
  refine ⟨?_, ?_, fun hsel hlen => ?_⟩
  · intro w0 w1 w2 w3 hsel hops u good
    obtain ⟨hlength, hlapse⟩ : u.slotLength ≤ 255 ∧ u.lapseLimit ≤ 15 := parseUProfile_bounds w0 w1 w2 w3
    have hgood : u.ok = true ∧ profilesAgree u (s.begun r i).lStored = true ↔ good := by
      rw [uProfile_ok_iff hlength hlapse, profilesAgree_iff, begun_lStored]
      simp only [good, and_assoc]
    refine ⟨fun hbad => ?_, fun hok hoff hport => ?_, fun hok hcase => ?_⟩
    · exact exec_writeUProfile h hsel hops (writeUProfile_of_range (mt hgood.1 hbad)) (begun_responses s r i)
    · exact exec_writeUProfile h hsel hops (writeUProfile_of_state (hgood.2 hok) hoff hport) (begun_responses s r i)
    · rw [← begun_uInUse s r i]
      exact exec_writeUProfile h hsel hops (writeUProfile_of_ok (hgood.2 hok) hcase) (begun_responses s r i)
  · intro w0 w1 w2 hsel hops l good
    obtain ⟨hlength, htie⟩ : l.slotLength ≤ 255 ∧ l.tieOffset ≤ 65535 := parseLProfile_bounds w0 w1 w2
    have hgood : l.ok = true ∧ profilesAgree (s.begun r i).uStored l = true ↔ good := by
      rw [lProfile_ok_iff hlength htie, profilesAgree_iff, begun_uStored]
      simp only [good, and_assoc]
    rw [← begun_checkState s r i]
    refine ⟨fun hbad => ?_, fun hok hoff hcase => ?_, fun hok hcase => ?_⟩
    · exact exec_writeLProfile h hsel hops (writeLProfile_of_range (mt hgood.1 hbad)) (begun_responses s r i)
    · exact exec_writeLProfile h hsel hops (writeLProfile_of_state (hgood.2 hok) hoff hcase) (begun_responses s r i)
    · rw [← begun_lInUse s r i]
      exact exec_writeLProfile h hsel hops (writeLProfile_of_ok (hgood.2 hok) hcase) (begun_responses s r i)
  · refine exec_holder h .writeProfile ?_ ?_ (begun_responses s r i)
    · simpa [Req.countOk, selPort_eq_none.2 hsel] using hlen
    · rw [ownRule, ownWriteProfile, selPort_eq_none.2 hsel]
      rfl

/-! ## Edits -/

theorem frozen_iff {s : State} : s.frozen = true ↔ s.StagedFrozen := by
  unfold State.frozen State.StagedFrozen
  cases s.checkState <;> simp

theorem not_frozen {s : State} (h : ¬s.StagedFrozen) : s.frozen = false := by
  rw [← frozen_iff, Bool.not_eq_true] at h
  exact h

section
variable {s : State} {r : Request} {i : Fin 8} (h : s.HolderExecutes r i)
include h

/-- An edit carried out, answered OK. -/
theorem exec_edit (q : Req) {bank : Bank} (hcount : q.countOk r.selector r.operands.length = true)
    (hown : ownRule q (requestParty r) r.selector r.operands (s.begun r i) = answerOk ((s.begun r i).edited bank) []) :
    exec (q.command r) s =
      .next ({ s.begun r i with staged := bank, checkState := .unchecked }.replied r i q.code .ok [] none) :=
  exec_holder h q hcount hown (begun_responses s r i)

/-- A refusal without results, the state unchanged. -/
theorem exec_refused (q : Req) {status : Status} (hcount : q.countOk r.selector r.operands.length = true)
    (hown : ownRule q (requestParty r) r.selector r.operands (s.begun r i) = answer (s.begun r i) status) :
    exec (q.command r) s = .next ((s.begun r i).replied r i q.code status [] none) :=
  exec_holder h q hcount hown (begun_responses s r i)

theorem exec_eraseRecord (hops : r.operands = []) (hfrozen : s.frozen = false) {ref : RecordRef}
    (hsel : selectsRecord r.selector ref) : exec (.eraseRecord r) s =
      .next ({ s.begun r i with staged := s.staged.eraseRecord ref, checkState := .unchecked }.replied r i 19 .ok [] none) :=
  exec_edit h .eraseRecord (by rw [hops]; rfl) (by
    simp only [ownRule, ownEraseRecord, begun_frozen, hfrozen, selRecord_eq_some.2 hsel, begun_staged, Bool.false_eq_true, if_false])

theorem exec_writeRecord (hcount : Req.writeRecord.countOk r.selector r.operands.length = true) (hfrozen : s.frozen = false)
    {ref : RecordRef} (hsel : selectsRecord r.selector ref) {bank : Bank}
    (hbank : s.staged.writeRecord ref (r.operands.getD 0 0) (r.operands.getD 1 0) = some bank) : exec (.writeRecord r) s =
      .next ({ s.begun r i with staged := bank, checkState := .unchecked }.replied r i 18 .ok [] none) :=
  exec_edit h .writeRecord hcount (by
    simp only [ownRule, ownWriteRecord, begun_frozen, hfrozen, selRecord_eq_some.2 hsel, begun_staged, Bool.false_eq_true,
      if_false, hbank])

theorem exec_writeRecord_range (hcount : Req.writeRecord.countOk r.selector r.operands.length = true)
    (hfrozen : s.frozen = false) {ref : RecordRef} (hsel : selectsRecord r.selector ref)
    (hbank : s.staged.writeRecord ref (r.operands.getD 0 0) (r.operands.getD 1 0) = none) :
    exec (.writeRecord r) s = .next ((s.begun r i).replied r i 18 .range [] none) :=
  exec_refused h .writeRecord hcount (by
    simp only [ownRule, ownWriteRecord, begun_frozen, hfrozen, selRecord_eq_some.2 hsel, begun_staged, Bool.false_eq_true,
      if_false, hbank])

end

theorem writeRecord_mailbox (g : Bank) (n : Fin 64) (w0 w1 : Word) : g.writeRecord (.mailbox n) w0 w1 =
    (parseMailboxDef w0).map fun d => { g with mailboxes := g.mailboxes.set n.val ⟨some d, true⟩ } := rfl

theorem writeRecord_queue (g : Bank) (n : Fin 8) (w0 w1 : Word) : g.writeRecord (.queue n) w0 w1 =
    (parseQueueDef w0).map fun d => { g with queues := g.queues.set n.val ⟨some d, true⟩ } := rfl

theorem writeRecord_capture (g : Bank) (n : Fin 128) (w0 w1 : Word) : g.writeRecord (.capture n) w0 w1 =
    (parseCaptureEntry w0 w1).map fun d => { g with captures := g.captures.set n.val ⟨some d, true⟩ } := rfl

theorem writeRecord_emit (g : Bank) (n : Fin 128) (w0 w1 : Word) : g.writeRecord (.emit n) w0 w1 =
    (parseEmitEntry w0 w1).map fun d => { g with emits := g.emits.set n.val ⟨some d, true⟩ } := rfl

/-- Settles O44: BUSY first, then the selector, then the record. -/
theorem editsChangeTheStagedBankAlone : Obligations.EditsChangeTheStagedBankAlone := by
  intro r s i h b edited g w0 w1
  refine ⟨fun hops => ⟨fun hfrozen => ?_, fun hfree => ?_⟩, fun hfits => ?_⟩
  · have hbusy := frozen_iff.2 hfrozen
    refine ⟨exec_refused h .stageClear (by rw [hops]; rfl) ?_, exec_refused h .stageCopy (by rw [hops]; rfl) ?_,
      exec_refused h .eraseRecord (by rw [hops]; rfl) ?_⟩
    · simp only [ownRule, ownStageClear, begun_frozen, hbusy, if_true]
    · simp only [ownRule, ownStageCopy, begun_frozen, hbusy, if_true]
    · simp only [ownRule, ownEraseRecord, begun_frozen, hbusy, if_true]
  · have hfree := not_frozen hfree
    refine ⟨exec_edit h .stageClear (by rw [hops]; rfl) ?_, exec_edit h .stageCopy (by rw [hops]; rfl) ?_,
      fun hsel => exec_refused h .eraseRecord (by rw [hops]; rfl) ?_, fun n hsel => exec_eraseRecord h hops hfree hsel,
      fun n hsel => exec_eraseRecord h hops hfree hsel, fun n hsel => exec_eraseRecord h hops hfree hsel,
      fun n hsel => exec_eraseRecord h hops hfree hsel⟩
    · simp only [ownRule, ownStageClear, begun_frozen, hfree, Bool.false_eq_true, if_false]
    · simp only [ownRule, ownStageCopy, begun_frozen, hfree, Bool.false_eq_true, if_false, begun_active]
    · simp only [ownRule, ownEraseRecord, begun_frozen, hfree, selRecord_eq_none.2 hsel, Bool.false_eq_true, if_false]
  · have hcount := countOk_writeRecord.2 hfits
    refine ⟨fun hfrozen => exec_refused h .writeRecord hcount ?_, fun hfree => ?_⟩
    · simp only [ownRule, ownWriteRecord, begun_frozen, frozen_iff.2 hfrozen, if_true]
    have hfree := not_frozen hfree
    refine ⟨fun hsel => exec_refused h .writeRecord hcount ?_, fun n hsel => ⟨fun hnone => ?_, fun d hd => ?_⟩,
      fun n hsel => ⟨fun hnone => ?_, fun d hd => ?_⟩, fun n hsel => ⟨fun hnone => ?_, fun d hd => ?_⟩,
      fun n hsel => ⟨fun hnone => ?_, fun d hd => ?_⟩⟩
    · simp only [ownRule, ownWriteRecord, begun_frozen, hfree, selRecord_eq_none.2 hsel, Bool.false_eq_true, if_false]
    · exact exec_writeRecord_range h hcount hfree hsel (by
      rw [writeRecord_mailbox]
      exact congrArg (Option.map _) hnone)
    · exact exec_writeRecord h hcount hfree hsel (by
      rw [writeRecord_mailbox]
      exact congrArg (Option.map _) hd)
    · exact exec_writeRecord_range h hcount hfree hsel (by
      rw [writeRecord_queue]
      exact congrArg (Option.map _) hnone)
    · exact exec_writeRecord h hcount hfree hsel (by
      rw [writeRecord_queue]
      exact congrArg (Option.map _) hd)
    · exact exec_writeRecord_range h hcount hfree hsel (by
      rw [writeRecord_capture]
      exact congrArg (Option.map _) hnone)
    · exact exec_writeRecord h hcount hfree hsel (by
      rw [writeRecord_capture]
      exact congrArg (Option.map _) hd)
    · exact exec_writeRecord_range h hcount hfree hsel (by
      rw [writeRecord_emit]
      exact congrArg (Option.map _) hnone)
    · exact exec_writeRecord h hcount hfree hsel (by
      rw [writeRecord_emit]
      exact congrArg (Option.map _) hd)

/-! ## CHECK -/

/-- Settles O45: the request is executed without an answer, and its sequence stays outstanding. -/
theorem checkTakenIsOutstanding : Obligations.CheckTakenIsOutstanding := by
  intro r s i h hops b
  have hcount : Req.check.countOk r.selector r.operands.length = true := by rw [hops]; rfl
  refine ⟨fun hfrozen => exec_refused h .check hcount ?_, fun hfree => ?_⟩
  · simp only [ownRule, ownCheck, begun_frozen, frozen_iff.2 hfrozen, if_true]
  · obtain ⟨⟨htakes, hadmit, hrest⟩, hclaim⟩ := h
    obtain ⟨q, hbegun, hid, hidle, hlast, -⟩ := begun_of hadmit
    have hq : b.parties[i] = some q := by
      simp only [b, hbegun, withParty_parties_get]
    have hjudge : judge (some .check) r b = (b.withCheck (.checking (requestParty r) s.figures []), .deferred) := by
      rw [judge_own hcount fun _ => (begun_claim s r i).trans hclaim]
      simp only [ownRule, ownCheck, b, begun_frozen, not_frozen hfree, begun_figures, Bool.false_eq_true, if_false]
    refine ⟨q, hq, hid, hidle, (exec_executes ⟨htakes, hadmit, hrest⟩ .check).trans ?_⟩
    rw [hjudge]
    dsimp only
    have hchecking : (b.withCheck (.checking (requestParty r) s.figures [])).parties[i] = some q := hq
    rw [updateParty_self _ hchecking, ← hlast]
    rfl

end Sys2Proof.Machine
end

section
/-! Retries, the claim, notices raised and acknowledged, payloads injected and queues drained (9.3, 9.4, 10.6, 11.3). -/

set_option Elab.async false

namespace Sys2Proof.Machine

/-! ## Steps 2 to 4 of R138 -/

theorem serve_eq_handle {s : State} {r : Request} {i : Fin 8} {party : Party}
    (hadmit : (s.admitParty (requestParty r)).2 = some i) (hparty : (s.admitted r).parties[i] = some party)
    (q : Option Req) (code : BitVec 8) : s.serve q code r = (s.admitted r).handle i party q code r := by
  have hpair : s.admitParty (requestParty r) = (s.admitted r, some i) := by rw [← hadmit]; rfl
  simp only [State.serve, hpair, hparty]

theorem hasRoom_iff {s : State} {p : Port} : s.hasRoom p = true ↔ (s.responses.get p).length < 8 := by
  simp [State.hasRoom]

theorem admitted_responses (s : State) (r : Request) : (s.admitted r).responses = s.responses := by
  obtain ⟨ps, h⟩ := admitted_frame s r
  rw [h]

theorem admitted_counters (s : State) (r : Request) : (s.admitted r).counters = s.counters := by
  obtain ⟨ps, h⟩ := admitted_frame s r
  rw [h]

/-- Settles O50: the steps in the order in which the agent takes them. -/
theorem repeatsAreAnsweredFromTheCache : Obligations.RepeatsAreAnsweredFromTheCache := by
  intro q r s
  refine ⟨fun hstopped => ?_, ?_⟩
  · rcases exec_command_cases q r s with h | ⟨⟨-, hrunning⟩, -⟩
    · exact h
    · exact absurd hrunning (by simp [hstopped])
  intro i party htakes hadmit hparty t c dropped
  have hexec : exec (q.command r) s = .next ((s.admitted r).handle i party (some q) q.code r) := by
    rw [exec_command q r htakes, serve_eq_handle hadmit hparty]
  have hroom : ∀ {b : Bool}, (s.admitted r).hasRoom r.port = b ↔ decide ((s.responses.get r.port).length < 8) = b := by
    rw [State.hasRoom, admitted_responses]
  have hdrop : (s.admitted r).count r.port Counters.countDropped = dropped := by
    rw [State.count, State.withCounters, admitted_counters]
    rfl
  obtain ⟨x, hadmitted, hid, hidle, -⟩ := admitted_of hadmit
  obtain rfl : x = party := by simpa [hadmitted] using hparty
  rw [hexec]
  refine ⟨hid, hidle, fun hout => ?_, fun reply hout hlast hcached => ⟨fun hlt => ?_, fun hfull => ?_⟩,
    fun hout hnew hfull => ?_⟩
  · rw [State.handle, if_pos hout]
  · have hretry : x.retryReply r.seq = some reply := by rw [Party.retryReply, if_pos hlast, hcached]
    simp only [State.handle, hout, if_false, hretry, hroom.2 (decide_eq_true hlt), if_true, State.enqueue, State.withResponses,
      admitted_responses]
    rfl
  · have hretry : x.retryReply r.seq = some reply := by rw [Party.retryReply, if_pos hlast, hcached]
    simp only [State.handle, hout, if_false, hretry, hroom.2 (decide_eq_false (Nat.not_lt.2 hfull)), Bool.false_eq_true, hdrop]
  · have hretry : x.retryReply r.seq = none := by
      rw [Party.retryReply]
      split
      · exact hnew.resolve_left (not_not_intro ‹_›)
      · rfl
    simp only [State.handle, hout, if_false, hretry, hroom.2 (decide_eq_false (Nat.not_lt.2 hfull)), Bool.false_eq_true, hdrop]

/-! ## Raises and acknowledgments -/

theorem satInc_byte (x : BitVec 8) : satInc x = if x = 255 then 255 else x + 1 := by
  unfold satInc
  split <;> simp_all

theorem raise_coalesces {u : NoticeUnit} {x y : List Notice} {e : Notice} {k : NoticeKind} {j : Subject} (n : Round)
    (hu : u.Lawful) (he : u.entries = x ++ e :: y) (hsame : e.same k j = true) : u.raise k j n = { u with
      entries := x ++ { e with count := satInc e.count, lastRound := n } :: y } := by
  have hother : ∀ z, z ∈ x ∨ z ∈ y → z.same k j = false := fun z hz => by
    obtain ⟨-, hnodup, -⟩ := hu
    rw [he, List.map_append, List.map_cons, List.nodup_append] at hnodup
    obtain ⟨-, hright, hdisjoint⟩ := hnodup
    rw [Bool.eq_false_iff]
    intro hz'
    obtain ⟨hk, hj⟩ := Notice.same_iff.1 hsame
    obtain ⟨hzk, hzj⟩ := Notice.same_iff.1 hz'
    have hkey : (z.kind, z.subject) = (e.kind, e.subject) := by rw [hk, hj, hzk, hzj]
    rcases hz with hz | hz
    · exact hdisjoint _ (List.mem_map_of_mem hz) _ (by simp) hkey
    · exact (List.nodup_cons.1 hright).1 (hkey ▸ List.mem_map_of_mem (f := fun e => (e.kind, e.subject)) hz)
  have hany : u.entries.any (·.same k j) = true := by simp [he, hsame]
  rw [NoticeUnit.raise, if_pos hany, he, List.map_append, List.map_cons, if_pos hsame]
  congr 2
  · refine (List.map_congr_left fun z hz => ?_).trans (List.map_id x)
    simp [hother z (.inl hz)]
  · congr 1
    refine (List.map_congr_left fun z hz => ?_).trans (List.map_id y)
    simp [hother z (.inr hz)]

theorem none_same {u : NoticeUnit} {k : NoticeKind} {j : Subject} (h : ∀ e, e ∈ u.entries → ¬(e.kind = k ∧ e.subject = j)) :
    u.entries.any (·.same k j) = false := by
  rw [List.any_eq_false]
  exact fun e he hsame => h e he (Notice.same_iff.1 hsame)

theorem acknowledge_eq {u : NoticeUnit} {x y : List Notice} {e : Notice} (hu : u.Lawful) (he : u.entries = x ++ e :: y) :
    u.entries.filter (·.id ≠ e.id) = x ++ y := by
  obtain ⟨-, -, hnodup⟩ := hu
  rw [he, List.map_append, List.map_cons, List.nodup_append] at hnodup
  obtain ⟨-, hright, hdisjoint⟩ := hnodup
  rw [he, List.filter_append, List.filter_cons_of_neg (by simp)]
  congr 1
  · refine List.filter_eq_self.2 fun z hz => decide_eq_true fun hid => ?_
    exact hdisjoint _ (List.mem_map_of_mem hz) _ (by simp) hid
  · refine List.filter_eq_self.2 fun z hz => decide_eq_true fun hid => ?_
    exact (List.nodup_cons.1 hright).1 (hid ▸ List.mem_map_of_mem (f := (·.id)) hz)

theorem ackId_eq (sel : BitVec 16) : BitVec.ofNat 8 (field sel.toNat 7 0) = sel.extractLsb' 0 8 := by
  apply BitVec.eq_of_toNat_eq
  simp [field]

theorem noticeStands_iff {s : State} {id : BitVec 8} : s.noticeStands id = true ↔ ∃ e ∈ s.notices.entries, e.id = id := by
  simp [State.noticeStands]

theorem replied_notices (s : State) (r : Request) (i : Fin 8) (code : BitVec 8) (status : Status) (results : List Word)
    (mark : Option RestartMark) : (s.replied r i code status results mark).notices = s.notices ∧
    (s.replied r i code status results mark).resetnLow = s.resetnLow := ⟨rfl, rfl⟩

/-- Settles O48: the three outcomes of a raise, its round, and the removal of the entry with the id. -/
theorem noticesAreRaisedAndAcknowledged : Obligations.NoticesAreRaisedAndAcknowledged := by
  refine ⟨?_, ?_, ?_⟩
  · intro u k j n hu same
    refine ⟨fun x e y he hsame => satInc_byte e.count ▸ raise_coalesces n hu he (Notice.same_iff.2 hsame), fun hnone hlt => ?_, fun hnone hfull => ?_⟩
    · obtain ⟨m, hm, hid, hfree, hbefore⟩ := freshId_free (ids := u.entries.map (·.id)) u.nextId (by simpa using hlt)
      rw [hid] at hfree
      refine ⟨m, by simpa using hm, fun e he heq => hfree (heq ▸ List.mem_map_of_mem (f := (·.id)) he), fun l hl => ?_, ?_⟩
      · simpa using hbefore l hl
      · simp only [NoticeUnit.raise, none_same hnone, Bool.false_eq_true, if_false, hlt, if_true, hid]
    · simp only [NoticeUnit.raise, none_same hnone, Bool.false_eq_true, if_false, hfull, lt_irrefl]
  · intro s k j
    refine ⟨fun hoff => ?_, fun n hon hround => ?_⟩
    · rw [raise_eq, State.raiseRound, if_pos hoff]
    · rw [raise_eq, State.raiseRound, if_neg hon, hround, Option.getD_some]
  · intro r s i h hops hu b
    have hcount : Req.ackNotice.countOk r.selector r.operands.length = true := by rw [hops]; rfl
    refine ⟨fun x e y he hid => ?_, fun hnone => ?_⟩
    · intro t
      have hack : b.acknowledge e.id = t := by
        simp only [State.acknowledge, State.withNotices, b, begun_notices, acknowledge_eq hu he, t]
      refine ⟨exec_answer h .ackNotice hcount (fun hn => by cases hn) ?_ (begun_responses s r i), ?_⟩
      · rw [ownRule, ownAckNotice, ackId_eq, ← hid, ← hack,
          if_pos (noticeStands_iff.2 ⟨e, by rw [begun_notices, he]; simp, rfl⟩)]
        rfl
      · obtain ⟨hnotices, hreset⟩ := replied_notices t r i 27 .ok [] none
        have hlow : t.resetnLow = false := (begun_resetnLow s r i).trans h.1.1
        rw [State.attn, hnotices, hreset, hlow]
        simp [t, List.isEmpty_iff]
    · refine exec_answer h .ackNotice hcount (fun hn => by cases hn) ?_ (begun_responses s r i)
      rw [ownRule, ownAckNotice, ackId_eq, if_neg fun hstands => ?_]
      · rfl
      · obtain ⟨e, he, hid⟩ := noticeStands_iff.1 hstands
        exact hnone e (begun_notices s r i ▸ he) hid

end Sys2Proof.Machine
end

section
/-! CLAIM and RELEASE, INJECT and DRAIN_QUEUE (9.4, 10.2, 10.6). -/

set_option Elab.async false

namespace Sys2Proof.Machine

/-! ## The claim -/

theorem holderWord_fields (id : PartyId) : bitsAt (toWord (holderBits (some id))) 31 30 = portCode id.port ∧
    bitsAt (toWord (holderBits (some id))) 29 24 = 0 ∧ bitsAt (toWord (holderBits (some id))) 23 16 = id.station.toNat ∧
    bitsAt (toWord (holderBits (some id))) 15 0 = 0 := by
  have hp := portCode_lt id.port
  have hs := id.station.isLt
  simp only [bitsAt_toWord (holderBits_lt (some id)).1]
  simp only [holderBits, field, put]
  omega

/-- A party found keeps its position: its idle rounds are 0 and the sequence is its last. -/
theorem begun_of_found {s : State} {r : Request} {i : Fin 8} {q : Party} (hs : s.PartiesLawful) (hq : s.parties[i] = some q)
    (hid : q.id = requestParty r) :
    s.begun r i = s.withParty i (some { q with idle := 0, lastSeq := some r.seq }) ∧
      s.admitted r = s.withParty i (some { q with idle := 0 }) := by
  have hadmitted : s.admitted r = s.withParty i (some { q with idle := 0 }) := by
    simp only [State.admitted, State.admitParty, findParty_of hs hq hid, updateParty_self _ hq]
  refine ⟨?_, hadmitted⟩
  rw [State.begun, hadmitted, updateParty_self _ (withParty_parties_get _ _ _), withParty_withParty]

/-- The outstanding party of a table is that of the position whose record is replaced by one with the same sequence. -/
theorem outstandingParty_withParty {s t : State} {i : Fin 8} {q q' : Party} {n : Seq} (hs : s.PartiesLawful)
    (hc : s.CheckLawful) (hq : s.parties[i] = some q) (hn : q.outstanding = some n) (hn' : q'.outstanding = some n)
    (ht : t.parties = (s.withParty i (some q')).parties) : t.outstandingParty = some (i, q', n) := by
  refine outstandingParty_of_unique (by rw [ht, withParty_parties_get]) hn' fun j y m hy hm => ?_
  by_cases hij : i = j
  · exact hij.symm
  · rw [ht, withParty_parties_get_ne s _ hij] at hy
    exact outstanding_unique hs hc hq hn hy hm

theorem portRunning_congr {s t : State} (hu : t.uTime = s.uTime) (hl : t.lTime = s.lTime) (p : Port) :
    t.portRunning p = s.portRunning p := by
  cases p <;> simp only [State.portRunning, State.locked, hu, hl]

theorem enqueue_of_room {s : State} {p : Port} (x : Response) (h : (s.responses.get p).length < 8) :
    s.enqueue p x = s.withResponses p (s.responses.get p ++ [x]) := if_pos (hasRoom_iff.2 h)

theorem enqueue_eq (s : State) (p : Port) (x : Response) : s.enqueue p x = { s with
    responses := s.responses.set p (s.responses.get p ++ if (s.responses.get p).length < 8 then [x] else []) } := by
  rw [State.enqueue]
  by_cases h : (s.responses.get p).length < 8
  · rw [if_pos (hasRoom_iff.2 h), if_pos h]
    rfl
  · rw [if_neg (mt hasRoom_iff.1 h), if_neg h, List.append_nil, PerPort.set_get]

theorem replied_checkState (s : State) (r : Request) (i : Fin 8) (code : BitVec 8) (status : Status) (results : List Word)
    (mark : Option RestartMark) : (s.replied r i code status results mark).checkState = s.checkState := rfl

theorem replied_parties_of {s : State} {i : Fin 8} {q : Party} (hq : s.parties[i] = some q) (r : Request) (code : BitVec 8)
    (status : Status) (results : List Word) (mark : Option RestartMark) :
    (s.replied r i code status results mark).parties =
      (s.withParty i (some { q with cached := some { status, seq := r.seq, code, results } })).parties := by
  rw [State.replied, updateParty_self _ hq]
  rfl

theorem replied_responses (s : State) (r : Request) (i : Fin 8) (code : BitVec 8) (status : Status) (results : List Word)
    (mark : Option RestartMark) : (s.replied r i code status results mark).responses = s.responses.set r.port
      (s.responses.get r.port ++ [{ station := r.station, reply := { status, seq := r.seq, code, results }, mark }]) := rfl

/-- RELEASE by the holder: its answer, and the end of a check after it. -/
theorem exec_release {s : State} {r : Request} {i : Fin 8} (h : s.Executes r i) (hops : r.operands = [])
    (hclaim : s.claim = some (requestParty r)) :
    exec (.release r) s = .next (((s.begun r i).withClaim none).replied r i 3 .ok [] none).abandonCheck := by
  have hjudge : judge (some .release) r (s.begun r i) = ((s.begun r i).withClaim none, .now .ok [] none true) := by
    rw [judge_own (by rw [hops]; rfl) fun _ => (begun_claim s r i).trans hclaim]
    simp only [ownRule, ownRelease, begun_claim, hclaim, if_true]
  refine (exec_executes h .release).trans ?_
  rw [hjudge]
  have hroom : (((s.begun r i).withClaim none).updateParty i fun q => { q with
      cached := some { status := .ok, seq := r.seq, code := Req.release.code, results := [] } }).responses.get r.port
      = s.responses.get r.port := congrArg (PerPort.get · r.port) (begun_responses s r i)
  dsimp only [State.respond]
  rw [enqueue_of_room _ (by rw [hroom]; exact h.2.2.2)]
  rfl

theorem abandonCheck_of_not_checking {s : State} (h : ∀ p f rb, s.checkState ≠ .checking p f rb) : s.abandonCheck = s := by
  unfold State.abandonCheck
  split
  · exact absurd ‹_› (h _ _ _)
  all_goals rfl

/-- The check of a party abandoned: the state is UNCHECKED, and ABANDONED is queued and cached as R144 says. -/
theorem abandonCheck_of_checking {s : State} {i : Fin 8} {q : Party} {n : Seq} {p : PartyId} {f : CheckFigures}
    {rb : List RecordRef} (hc : s.checkState = .checking p f rb) (ho : s.outstandingParty = some (i, q, n)) :
    s.abandonCheck = (s.withCheck .unchecked).giveDeferred .abandoned [] ∧
      (s.withCheck .unchecked).outstandingParty = some (i, q, n) := by
  refine ⟨?_, ho⟩
  simp only [State.abandonCheck, hc]

/-- Settles O40: the states of the claim, and for a check in progress the answer given after the OK. -/
theorem claimAndReleaseFollowTable : Obligations.ClaimAndReleaseFollowTable := by
  intro r s i h hops b own
  have hcount : Req.claim.countOk r.selector r.operands.length = true := by rw [hops]; rfl
  have hclaimed : ∀ {t status results}, ownClaim own b = (t, .now status results none false) → t.responses = s.responses →
      exec (.claim r) s = .next (t.replied r i 2 status results none) :=
    fun hown ht => exec_answer h .claim hcount (fun hn => by cases hn) hown ht
  refine ⟨fun hfree => hclaimed ?_ (begun_responses s r i), fun hmine => hclaimed ?_ (begun_responses s r i),
    fun other hother hne => ?_, fun hnot => ?_, fun hmine hcheck => ?_, fun p f rb q n hmine hcheck hs hc hq hn => ?_⟩
  · simp only [ownClaim, b, begun_claim, hfree]
    rfl
  · simp only [ownClaim, b, begun_claim, hmine, if_true]
    rfl
  · obtain ⟨hport, hhigh, hstation, hlow⟩ := holderWord_fields other
    refine ⟨_, hport, hhigh, hstation, hlow, hclaimed ?_ (begun_responses s r i)⟩
    simp only [ownClaim, b, begun_claim, hother, hne, if_false]
  · exact exec_unclaimed h (q := .release) (by rw [hops]; rfl) rfl hnot
  · rw [exec_release h hops hmine, abandonCheck_of_not_checking]
    · rfl
    · intro p f rb
      rw [replied_checkState, State.withClaim_checkState, begun_checkState]
      exact hcheck p f rb
  · obtain ⟨f', rb', hchecks⟩ := hc.2 i q n hq hn
    have hid : q.id = own := by
      have hholder := hc.1 _ _ _ hchecks
      rw [hmine] at hholder
      exact (Option.some.inj hholder).symm
    obtain ⟨hbegun, hadmitted⟩ := begun_of_found hs hq hid
    obtain ⟨⟨hlow, hrunning⟩, hadmit, hfresh, hroom⟩ := h
    have hseq : n ≠ r.seq := by
      have hnot := (hfresh { q with idle := 0 } (by rw [hadmitted, withParty_parties_get])).1
      rw [show ({ q with idle := 0 } : Party).outstanding = some n from hn] at hnot
      exact fun he => hnot (congrArg some he)
    let q' : Party := { q with
      idle := 0, lastSeq := some r.seq, cached := some { status := .ok, seq := r.seq, code := 3, results := [] } }
    let reply : Response :=
      { station := r.station, reply := { status := .ok, seq := r.seq, code := 3, results := [] }, mark := none }
    have hx : ((s.begun r i).withClaim none).replied r i 3 .ok [] none = { s.withParty i (some q') with
        claim := none, responses := s.responses.set r.port (s.responses.get r.port ++ [reply]) } := by
      have hq0 : ((s.begun r i).withClaim none).parties[i] = some { q with idle := 0, lastSeq := some r.seq } := by
        rw [State.withClaim_parties, hbegun, withParty_parties_get]
      rw [State.replied, updateParty_self _ hq0, hbegun]
      simp [State.withParty, State.withClaim, State.withResponses, q', reply]
    let x : State := { s.withParty i (some q') with
      claim := none, responses := s.responses.set r.port (s.responses.get r.port ++ [reply]) }
    obtain ⟨habandon, ho⟩ := abandonCheck_of_checking (s := x) hcheck
      (outstandingParty_withParty hs hc hq hn (q' := q') hn rfl)
    have hport : (x.withCheck .unchecked).portRunning q'.id.port = true := by
      rw [show q'.id = own from hid, ← hrunning]
      exact portRunning_congr rfl rfl r.port
    have hexec : exec (.release r) s = .next ((x.withCheck .unchecked).giveDeferred .abandoned []) := by
      rw [exec_release ⟨⟨hlow, hrunning⟩, hadmit, hfresh, hroom⟩ hops hmine, hx]
      exact congrArg Host.Outcome.next habandon
    rw [hexec, giveDeferred_of_some ho]
    simp only [hport, if_true, enqueue_eq]
    have hcached : (q'.answered n .abandoned []) = { q with
        idle := 0, lastSeq := some r.seq, cached := some { status := .ok, seq := r.seq, code := 3, results := [] },
        outstanding := none } := by
      have hlast : ¬ r.seq = n := fun he => hseq he.symm
      simp [Party.answered, q', hlast]
    have hidport : q'.id.port = r.port := congrArg PartyId.port hid
    have hidstation : q'.id.station = r.station := congrArg PartyId.station hid
    refine ⟨_, rfl, rfl, rfl, rfl, ?_, ?_⟩
    · simp [State.withParty, State.withCheck, x, hcached]
    · simp [State.withParty, State.withCheck, x, hidport, hidstation, PerPort.get_set_self]
      rfl

/-! ## INJECT -/

/-- The half that is not current starts where INJECT writes. -/
theorem otherHalf_eq (base capacity : Nat) (x : Half) : halfBase base capacity x.other = (match x with
    | .a => base + capacity
    | .b => base) := by cases x <;> rfl

section
variable {s : State} {r : Request} {i : Fin 8} (h : s.HolderExecutes r i)
include h

section
variable (hlen : r.operands.length ≤ 11)
include hlen

theorem exec_inject {t : State} {status : Status} {results : List Word}
    (hown : ownInject (requestParty r) r.selector r.operands (s.begun r i) = (t, .now status results none false))
    (ht : t.responses = s.responses) : exec (.inject r) s = .next (t.replied r i 25 status results none) :=
  exec_holder h .inject (decide_eq_true hlen) hown ht

variable {n : Fin 64} (hsel : selectsNumber r.selector n)
include hsel

theorem exec_inject_undefined (hx : s.active.mailboxes[n] = ⟨none, true⟩) :
    exec (.inject r) s = .next ((s.begun r i).replied r i 25 .undefined [] none) := by
  refine exec_inject h hlen ?_ (begun_responses s r i)
  have hgood : s.active.parityGood (.mailbox n) = true := congrArg Stored.parityGood hx
  rw [ownInject, selMailbox_eq_some.2 hsel]
  simp only [begun_active, hx, Stored.seen, if_true]
  rw [readActive_of_good (ref := .mailbox n) (by rw [begun_active]; exact hgood)]
  rfl

theorem exec_inject_failed (hbad : s.active.mailboxes[n].parityGood = false) :
    exec (.inject r) s = .next ({ s.begun r i with
      notices := s.notices.raise .planParity (.record .active (.mailbox n)) s.raiseRound }.replied r i 25 .undefined
        [] none) := by
  rw [← begun_raise]
  refine exec_inject h hlen ?_ (by rw [raise_eq]; exact begun_responses s r i)
  rw [ownInject, selMailbox_eq_some.2 hsel]
  simp only [begun_active, seen_of_failed hbad]
  rw [readActive_of_failed (ref := .mailbox n) (by rw [begun_active]; exact hbad)]
  rfl

variable {d : MailboxDef} (hx : s.active.mailboxes[n] = ⟨some d, true⟩)
include hx

omit h hlen in
theorem ownInject_begun : ownInject (requestParty r) r.selector r.operands (s.begun r i) =
    if d.capacity < r.operands.length then answer (s.begun r i) .range
    else if s.mailboxes[n].openWrite.isSome then answer (s.begun r i) .busy
    else answerOk ((s.begun r i).injectInto n d r.station r.operands) [] := by
  rw [ownInject, selMailbox_eq_some.2 hsel]
  simp only [begun_active, seen_eq_some.2 hx, begun_mailboxes]
  rfl

theorem exec_inject_range (hlong : d.capacity < r.operands.length) :
    exec (.inject r) s = .next ((s.begun r i).replied r i 25 .range [] none) :=
  exec_inject h hlen ((ownInject_begun hsel hx).trans (if_pos hlong)) (begun_responses s r i)

theorem exec_inject_busy (hfits : r.operands.length ≤ d.capacity) (hopen : s.mailboxes[n].openWrite.isSome = true) :
    exec (.inject r) s = .next ((s.begun r i).replied r i 25 .busy [] none) := by
  refine exec_inject h hlen ?_ (begun_responses s r i)
  rw [ownInject_begun hsel hx, if_neg (Nat.not_lt.2 hfits), if_pos hopen]
  rfl

theorem exec_inject_ok (hfits : r.operands.length ≤ d.capacity) (hopen : s.mailboxes[n].openWrite = none) :
    exec (.inject r) s =
      .next (((s.begun r i).injectInto n d r.station r.operands).replied r i 25 .ok [] none) := by
  refine exec_inject h hlen ?_ (begun_responses s r i)
  rw [ownInject_begun hsel hx, if_neg (Nat.not_lt.2 hfits), hopen]
  rfl

end

/-! ## DRAIN_QUEUE -/

section
variable (hops : r.operands = [])
include hops

theorem exec_drainQueue {t : State} {status : Status} {results : List Word}
    (hown : ownDrainQueue r.selector (s.begun r i) = (t, .now status results none false)) (ht : t.responses = s.responses) :
    exec (.drainQueue r) s = .next (t.replied r i 26 status results none) :=
  exec_holder h .drainQueue (by rw [hops]; rfl) hown ht

variable {n : Fin 8} (hsel : selectsNumber r.selector n)
include hsel

theorem exec_drainQueue_undefined (hx : s.active.queues[n] = ⟨none, true⟩) :
    exec (.drainQueue r) s = .next ((s.begun r i).replied r i 26 .undefined [] none) := by
  refine exec_drainQueue h hops ?_ (begun_responses s r i)
  have hgood : s.active.parityGood (.queue n) = true := congrArg Stored.parityGood hx
  rw [ownDrainQueue, selQueue_eq_some.2 hsel]
  simp only [begun_active, hx, Stored.seen, if_true]
  rw [readActive_of_good (ref := .queue n) (by rw [begun_active]; exact hgood)]
  rfl

theorem exec_drainQueue_failed (hbad : s.active.queues[n].parityGood = false) :
    exec (.drainQueue r) s = .next ({ s.begun r i with
      notices := s.notices.raise .planParity (.record .active (.queue n)) s.raiseRound }.replied r i 26 .undefined
        [] none) := by
  rw [← begun_raise]
  refine exec_drainQueue h hops ?_ (by rw [raise_eq]; exact begun_responses s r i)
  rw [ownDrainQueue, selQueue_eq_some.2 hsel]
  simp only [begun_active, seen_of_failed hbad]
  rw [readActive_of_failed (ref := .queue n) (by rw [begun_active]; exact hbad)]
  rfl

theorem exec_drainQueue_ok {d : QueueDef} (hx : s.active.queues[n] = ⟨some d, true⟩) : exec (.drainQueue r) s =
    .next (((s.begun r i).drain n d.depth).1.replied r i 26 .ok
      [toWord (put ((s.begun r i).drain n d.depth).2 7 0)] none) := by
  refine exec_drainQueue h hops ?_ ?_
  · rw [ownDrainQueue, selQueue_eq_some.2 hsel]
    simp only [begun_active, seen_eq_some.2 hx]
    rfl
  · rw [State.drain]
    split <;> exact begun_responses s r i

end

end

theorem drain_of_idle {s : State} {n : Fin 8} (h : s.queues[n].headInFlight = none) (depth : Nat) :
    s.drain n depth = (s.withQueue n { entries := [], headInFlight := none, attempts := 0, drained := false,
                                       headPos := (s.queues[n].headPos + s.queues[n].entries.length) % depth },
      s.queues[n].entries.length) := by
  simp only [State.drain, h]

theorem drain_of_inFlight {s : State} {n : Fin 8} (h : s.queues[n].headInFlight.isSome = true) {e : QueueEntry}
    {rest : List QueueEntry} (hq : s.queues[n].entries = e :: rest) (depth : Nat) :
    s.drain n depth =
      ({ s with queues := s.queues.set n { s.queues[n] with entries := [e], drained := true } }, rest.length) := by
  obtain ⟨p, hp⟩ := Option.isSome_iff_exists.1 h
  simp only [State.drain, hp, hq]
  rfl

theorem byteWord_fields {k : Nat} (hk : k < 2 ^ 8) : bitsAt (toWord (put k 7 0)) 31 8 = 0 ∧ bitsAt (toWord (put k 7 0)) 7 0 = k := by
  have hlt : put k 7 0 < 2 ^ 32 := by
    simp only [put]
    omega
  simp only [bitsAt_toWord hlt]
  simp only [field, put]
  omega

/-- Settles O47: INJECT writes the half that is not current and flips; DRAIN_QUEUE counts what it removes. -/
theorem injectFlipsAndDrainEmpties : Obligations.InjectFlipsAndDrainEmpties := by
  intro r s i h b
  refine ⟨fun hlen => ⟨fun hsel => ?_, ?_⟩, fun hops => ⟨fun hsel => ?_, ?_⟩⟩
  · refine exec_inject h hlen ?_ (begun_responses s r i)
    rw [ownInject, selMailbox_eq_none.2 hsel]
    rfl
  · intro n hsel m x k
    refine ⟨exec_inject_undefined h hlen hsel, exec_inject_failed h hlen hsel, ?_⟩
    intro d hx start
    refine ⟨exec_inject_range h hlen hsel hx, exec_inject_busy h hlen hsel hx, fun hfits hopen hregion => ?_⟩
    have hstart : halfBase d.base d.capacity m.half.other = start := otherHalf_eq d.base d.capacity m.half
    have hin : start + k ≤ 4096 := by
      rw [← hstart]
      cases m.half.other <;> simp only [halfBase] <;> omega
    have hword : ∀ a, (b.withStore (storeWriteAll start r.operands b.store)).wordAt a = _ :=
      fun a => wordAt_withStore_writeAll b a start r.operands
    refine ⟨storeWriteAll start r.operands b.store, ?_⟩
    intro t
    refine ⟨fun j hj => (hword (start + j)).trans ?_, fun a ha => (hword a).trans ?_, ?_⟩
    · rw [if_pos (by omega), Nat.add_sub_cancel_left]
    · rw [if_neg (by omega)]
      exact begun_wordAt s r i a
    · rw [exec_inject_ok h hlen hsel hx hfits hopen]
      have ht : b.injectInto n d r.station r.operands = t := by
        simp only [State.injectInto, b, begun_mailboxes, begun_raiseRound]
        rw [hstart]
        simp only [State.withMailbox, State.withStore, begun_mailboxes]
        rfl
      rw [ht]
  · refine exec_drainQueue h hops ?_ (begun_responses s r i)
    rw [ownDrainQueue, selQueue_eq_none.2 hsel]
    rfl
  · intro n hsel q x
    refine ⟨exec_drainQueue_undefined h hops hsel, exec_drainQueue_failed h hops hsel, ?_⟩
    intro d hx hcount
    obtain ⟨hhigh, hlow⟩ := byteWord_fields (k := (b.drain n d.depth).2) (by
      rw [State.drain, begun_queues]
      have hcount : s.queues[n].entries.length ≤ 32 := hcount
      split
      · exact Nat.lt_of_le_of_lt (Nat.sub_le_of_le_add (by omega)) (by decide : 32 < 2 ^ 8)
      · exact Nat.lt_of_le_of_lt hcount (by decide : 32 < 2 ^ 8))
    refine ⟨_, hhigh, fun hidle => ⟨?_, (q.headPos + q.entries.length) % d.depth, ?_⟩, fun e rest hflight hq => ⟨?_, ?_⟩⟩
    · rw [hlow, drain_of_idle (by rw [begun_queues]; exact hidle), begun_queues]
    · rw [exec_drainQueue_ok h hops hsel hx, drain_of_idle (by rw [begun_queues]; exact hidle)]
      simp only [State.withQueue, begun_queues]
      rfl
    · rw [hlow, drain_of_inFlight (by rw [begun_queues]; exact hflight) (by rw [begun_queues]; exact hq)]
    · rw [exec_drainQueue_ok h hops hsel hx,
        drain_of_inFlight (by rw [begun_queues]; exact hflight) (by rw [begun_queues]; exact hq)]
      simp only [begun_queues]
      rfl

end Sys2Proof.Machine
end

section
/-! Captures given up (R33, R103, R107, R108): what is placed, closed and recorded; the bridge restart (R148). -/

set_option Elab.async false

namespace Sys2Proof.Machine

/-! ## Words placed -/

theorem spareHalf_eq (m : MailboxRt) (base capacity : Nat) :
    spareHalf m base capacity = halfBase base capacity m.half.other := by
  unfold spareHalf
  cases m.half <;> rfl

theorem placeArrived_of_writesTo {s : State} {p : Port} {c : CaptureContext} {n : Fin 64} {base capacity : Nat}
    {spoiled : List Nat} (h : s.WritesTo p c n base capacity spoiled) : s.placeArrived p =
      ({ s with choice := s.choice + 1 } : State).placeWords s.mailboxes[n] base capacity spoiled (s.arrivedWords p) := by
  obtain ⟨hc, hmark, htarget, hopen⟩ := h
  simp only [State.placeArrived, hc, htarget]
  rw [if_pos (by rw [hopen]; simp [hmark])]

theorem placeArrived_of_not_writes {s : State} {p : Port}
    (h : ∀ c n base capacity spoiled, ¬s.WritesTo p c n base capacity spoiled) : s.placeArrived p = s := by
  unfold State.placeArrived
  split
  · rfl
  · rename_i c hc
    split
    · rename_i n base capacity spoiled htarget
      refine if_neg fun hopen => h c n base capacity spoiled ?_
      simp only [Bool.and_eq_true, decide_eq_true_eq] at hopen
      exact ⟨hc, hopen.1, htarget, hopen.2⟩
    · rfl

theorem writesTo_cases (s : State) (p : Port) : (∃ c n base capacity spoiled, s.WritesTo p c n base capacity spoiled) ∨
    ∀ c n base capacity spoiled, ¬s.WritesTo p c n base capacity spoiled := by
  by_cases h : ∃ c n base capacity spoiled, s.WritesTo p c n base capacity spoiled
  · exact .inl h
  · exact .inr fun c n base capacity spoiled hw => h ⟨c, n, base, capacity, spoiled, hw⟩

theorem writesTo_unique {s : State} {p : Port} {c c' : CaptureContext} {n n' : Fin 64} {base base' capacity capacity' : Nat}
    {spoiled spoiled' : List Nat} (h : s.WritesTo p c n base capacity spoiled)
    (h' : s.WritesTo p c' n' base' capacity' spoiled') :
    c' = c ∧ n' = n ∧ base' = base ∧ capacity' = capacity ∧ spoiled' = spoiled := by
  obtain ⟨hc, -, htarget, -⟩ := h
  obtain ⟨hc', -, htarget', -⟩ := h'
  obtain rfl := Option.some.inj (hc.symm.trans hc')
  rw [htarget] at htarget'
  injection htarget' with h1 h2 h3 h4
  exact ⟨rfl, h1.symm, h2.symm, h3.symm, h4.symm⟩

theorem wordAt_placeArrived {s : State} {p : Port} {a : Nat} (h : ¬s.ArrivesAt p a) :
    (s.placeArrived p).wordAt a = s.wordAt a := by
  rcases writesTo_cases s p with ⟨c, n, base, capacity, spoiled, hw⟩ | hnone
  · rw [placeArrived_of_writesTo hw, wordAt_placeWords, if_neg]
    · rfl
    · rintro ⟨hlow, hhigh, -⟩
      refine h ⟨c, n, base, capacity, spoiled, hw, ?_⟩
      rw [spareHalf_eq]
      rw [List.length_take] at hhigh
      omega
  · rw [placeArrived_of_not_writes hnone]

/-- The words of a state that took over the store of the capture given up. -/
theorem arrivedPlaced_of_store {s t : State} {p : Port} (hstore : t.store = (s.placeArrived p).store)
    (hepoch : t.storeEpoch = s.storeEpoch) : s.ArrivedPlaced t p := by
  have hword : ∀ a, t.wordAt a = (s.placeArrived p).wordAt a := by
    obtain ⟨st, k, hplaced⟩ := placeArrived_frame s p
    exact wordAt_congr hstore (by rw [hplaced]; exact hepoch)
  refine ⟨fun a ha => (hword a).trans (wordAt_placeArrived ha), ?_⟩
  intro c n base capacity spoiled r hw hr start
  have hrun : ∀ a, t.wordAt a = if start ≤ a ∧ a < start + ((s.arrivedWords p).take capacity).length ∧ a < 4096 then
      (if a ∈ spoiled then .failed else .good (((s.arrivedWords p).take capacity).getD (a - start) 0))
      else s.wordAt a := by
    intro a
    rw [hword, placeArrived_of_writesTo hw, wordAt_placeWords, ← spareHalf_eq]
    rfl
  refine ⟨((s.arrivedWords p).take capacity).length, ?_, fun a ha => ?_, fun i hi hin => ?_⟩
  · have harrived : (s.arrivedWords p).length ≤ r.header.length := by
      rw [State.arrivedWords, hr, List.length_take]
      exact Nat.min_le_left _ _
    rw [List.length_take]
    omega
  · rw [hrun, if_neg (by omega)]
  · rw [hrun, if_pos (by omega)]
    by_cases hs : start + i ∈ spoiled
    · exact .inr ⟨hs, if_pos hs⟩
    · exact .inl ⟨_, if_neg hs⟩

theorem wordAt_of_arrivedPlaced {s t : State} {p : Port} {a : Nat} (h : s.ArrivedPlaced t p) (ha : ¬s.ArrivesAt p a) :
    t.wordAt a = s.wordAt a := h.1 a ha

/-! ## The context dropped and closed -/

theorem dropContext_store (s : State) (p : Port) : (s.dropContext p).store = (s.placeArrived p).store := by
  unfold State.dropContext
  split
  · rename_i hc
    simp only [State.placeArrived, hc]
  · simp only [abandonWrite_frame]
    split <;> rfl

theorem closeContext_store (s : State) (p : Port) : (s.closeContext p).store = (s.placeArrived p).store := by
  unfold State.closeContext
  split
  · rename_i hc
    simp only [State.placeArrived, hc]
  · split <;> exact dropContext_store s p

theorem dropContext_mailboxes_of_writesTo {s : State} {p : Port} {c : CaptureContext} {n : Fin 64} {base capacity : Nat}
    {spoiled : List Nat} (h : s.WritesTo p c n base capacity spoiled) :
    (s.dropContext p).mailboxes = s.mailboxes.set n { s.mailboxes[n] with openWrite := none } := by
  have hmailboxes : (s.placeArrived p).mailboxes = s.mailboxes := by
    obtain ⟨st, k, hplaced⟩ := placeArrived_frame s p
    rw [hplaced]
  obtain ⟨hc, hmark, htarget, hopen⟩ := h
  simp only [State.dropContext, hc, htarget, abandonWrite_frame]
  split
  · exact absurd ‹_› hmark
  · rename_i hn
    cases hn
    simp only [State.withContext, hmailboxes]
    exact if_pos hopen
  · rename_i hn
    cases hn
    simp only [State.withContext, hmailboxes]
    exact if_pos hopen
  · rename_i hn
    cases hn
  · rename_i hn
    cases hn

theorem dropContext_mailboxes_of_not_writes {s : State} {p : Port}
    (h : ∀ c n base capacity spoiled, ¬s.WritesTo p c n base capacity spoiled) :
    (s.dropContext p).mailboxes = s.mailboxes := by
  unfold State.dropContext
  split
  · rfl
  · rename_i c hc
    simp only [placeArrived_of_not_writes h, abandonWrite_frame]
    split
    · rfl
    · rename_i n base capacity spoiled hmark htarget
      exact if_neg fun hopen => h c n base capacity spoiled ⟨hc, by rw [hmark]; decide, htarget, hopen⟩
    · rename_i n base capacity spoiled hmark htarget
      exact if_neg fun hopen => h c n base capacity spoiled ⟨hc, by rw [hmark]; decide, htarget, hopen⟩
    · rfl
    · rfl

theorem closeContext_mailboxes (s : State) (p : Port) : (s.closeContext p).mailboxes = (s.dropContext p).mailboxes := by
  unfold State.closeContext
  split
  · rename_i hc
    simp only [State.dropContext, hc]
  · split <;> rfl

theorem writeAbandoned_of_mailboxes {s t : State} {p : Port} (h : t.mailboxes = (s.closeContext p).mailboxes) :
    s.WriteAbandoned t p := by
  rw [closeContext_mailboxes] at h
  exact ⟨fun c n base capacity spoiled hw => h.trans (dropContext_mailboxes_of_writesTo hw),
    fun hnone => h.trans (dropContext_mailboxes_of_not_writes hnone)⟩

theorem contextClosed_of_outcomes {s t : State} {p : Port} (h : t.captureOutcomes = (s.closeContext p).captureOutcomes) :
    s.ContextClosed t p := by
  have hdrop : (s.dropContext p).captureOutcomes = s.captureOutcomes := by
    obtain ⟨st, k, ms, hdropped⟩ := dropContext_frame s p
    rw [hdropped]
  refine ⟨fun c hc hmark => ?_, fun hmarked => ?_⟩
  · rw [h]
    simp only [State.closeContext, hc, hmark, State.recordCapture, hdrop]
  · rw [h]
    unfold State.closeContext
    split
    · rfl
    · rename_i c hc
      split
      · exact absurd ‹_› (hmarked c hc)
      · exact hdrop
      · exact hdrop

end Sys2Proof.Machine
end

section
/-! Power-on, RESETN, the bridge restart, and disturbances (R69, R105, R148, R169). -/

set_option Elab.async false

namespace Sys2Proof.Machine

theorem live_of_released {s : State} (h : s.resetnLow = false) (f : State → State) : s.live f = f s := by
  rw [State.live, h]
  exact if_neg Bool.false_ne_true

/-! ## O2 -/

/-- Every command but the two of the RESETN line acts on a part out of reset alone. -/
theorem exec_eq_live (c : Instr) (s : State) (hpower : ∀ strap, c ≠ .powerOn strap) (hreset : c ≠ .resetnLow) :
    ∃ f, exec c s = .next (s.live f) := by
  cases c with
  | powerOn strap => exact absurd rfl (hpower strap)
  | resetnLow => exact absurd rfl hreset
  | _ => exact ⟨_, rfl⟩

theorem get_replicate {α : Type} {k : Nat} (x : α) (n : Fin k) : (Vector.replicate k x)[n] = x := Vector.getElem_replicate _

/-- Settles O2, quantity by quantity. -/
theorem powerOnSetsAndResetnLowHoldsThePart : Obligations.PowerOnSetsAndResetnLowHoldsThePart := by
  refine ⟨fun strap s => ⟨s.powerOn strap, rfl, rfl, rfl, rfl, rfl, rfl, rfl, rfl, rfl, rfl, rfl, rfl, rfl, rfl, rfl, rfl,
    rfl, rfl, rfl, rfl, rfl, fun p => ?_, fun n => ⟨get_replicate _ n, get_replicate _ n⟩,
    fun n => ⟨get_replicate _ n, get_replicate _ n⟩, fun n => ?_, rfl, rfl, fun n => get_replicate _ n,
    fun n => get_replicate _ n, rfl, fun i => get_replicate _ i, rfl, rfl, rfl, rfl, rfl, rfl, rfl⟩,
    fun s => ⟨_, rfl, rfl, rfl, fun p => ?_, rfl, rfl, rfl, rfl, rfl, rfl⟩, fun c s hlow hpower hreset => ?_⟩
  · cases p <;> exact ⟨rfl, rfl, rfl, rfl, rfl, rfl⟩
  · exact ⟨get_replicate _ n, get_replicate _ n, get_replicate _ n, get_replicate _ n, get_replicate _ n,
      get_replicate _ n⟩
  · cases p <;> exact ⟨rfl, rfl⟩
  · obtain ⟨f, hf⟩ := exec_eq_live c s hpower hreset
    rw [hf, State.live, if_pos hlow]

/-! ## O3 -/

/-- A capture given up on one port leaves the context of the other. -/
theorem arrivesAt_placeArrived {s : State} {p q : Port} {a : Nat} :
    (s.placeArrived q).ArrivesAt p a ↔ s.ArrivesAt p a := by
  obtain ⟨st, k, hplaced⟩ := placeArrived_frame s q
  rw [hplaced]
  rfl

theorem wordAt_bridgeRestart {s : State} {a : Nat} (hu : ¬s.ArrivesAt .u a) (hl : ¬s.ArrivesAt .l a) :
    s.bridgeRestart.wordAt a = s.wordAt a := by
  have hepoch : ((s.placeArrived .u).placeArrived .l).storeEpoch = s.storeEpoch := by
    obtain ⟨st, k, hfirst⟩ := placeArrived_frame s .u
    obtain ⟨st', k', hsecond⟩ := placeArrived_frame (s.placeArrived .u) .l
    rw [hsecond, hfirst]
  calc s.bridgeRestart.wordAt a = ((s.placeArrived .u).placeArrived .l).wordAt a :=
        wordAt_congr (s := (s.placeArrived .u).placeArrived .l) (t := s.bridgeRestart) rfl hepoch.symm a
    _ = (s.placeArrived .u).wordAt a := wordAt_placeArrived (mt arrivesAt_placeArrived.1 hl)
    _ = s.wordAt a := wordAt_placeArrived hu

/-- Settles O3: the words are those before the restart where no open write had placed any. -/
theorem bridgeRestartKeepsStoredProfilesAndWords : Obligations.BridgeRestartKeepsStoredProfilesAndWords := by
  intro s h
  refine ⟨s.bridgeRestart, congrArg _ (live_of_released h _), rfl, rfl, rfl, rfl, rfl, fun a => wordAt_bridgeRestart, rfl,
    rfl, rfl, rfl, fun p => ?_, fun n => ⟨get_replicate _ n, get_replicate _ n⟩,
    fun n => ⟨get_replicate _ n, get_replicate _ n⟩, fun n => ?_, rfl, rfl, fun n => get_replicate _ n, fun n => ?_, rfl,
    fun i => get_replicate _ i, rfl, rfl, rfl, rfl, rfl, rfl⟩
  · cases p <;> exact ⟨rfl, rfl, rfl, rfl, rfl, rfl, rfl⟩
  · exact ⟨get_replicate _ n, get_replicate _ n, get_replicate _ n, get_replicate _ n, get_replicate _ n,
      get_replicate _ n⟩
  · have hreset : s.bridgeRestart.queues[n] = .reset := get_replicate _ n
    rw [hreset]
    exact ⟨rfl, rfl, rfl, rfl⟩

/-! ## O27 -/

theorem disturb_parityGood_self (b : Bank) (ref : RecordRef) : (b.disturb ref).parityGood ref = false := by
  cases ref <;> simp [Bank.disturb, Bank.parityGood]

theorem set_parityGood_of_ne {α : Type} {k : Nat} {v : Vector (Stored α) k} {m n : Fin k} {x : Stored α} (h : m ≠ n) :
    (v.set m.val x)[n].parityGood = v[n].parityGood := by
  rw [Fin.getElem_fin, Vector.getElem_set_ne _ _ fun he => h (Fin.ext he)]
  rfl

theorem disturb_parityGood_of_ne {b : Bank} {ref ref' : RecordRef} (h : ref' ≠ ref) :
    (b.disturb ref).parityGood ref' = b.parityGood ref' := by
  cases ref with
  | mailbox m =>
    cases ref' with
    | mailbox n => exact set_parityGood_of_ne fun he => h (by rw [he])
    | _ => rfl
  | queue m =>
    cases ref' with
    | queue n => exact set_parityGood_of_ne fun he => h (by rw [he])
    | _ => rfl
  | capture m =>
    cases ref' with
    | capture n => exact set_parityGood_of_ne fun he => h (by rw [he])
    | _ => rfl
  | emit m =>
    cases ref' with
    | emit n => exact set_parityGood_of_ne fun he => h (by rw [he])
    | _ => rfl

/-- The banks after a disturbance: one bank has its record disturbed. -/
theorem disturbRecord_bank (s : State) (role role' : BankRole) (ref : RecordRef) (alreadyRead : Bool) :
    (s.disturbRecord role ref alreadyRead).bank role' =
      if role' = role then (s.bank role').disturb ref else s.bank role' := by
  cases role <;> cases role' <;> rfl

theorem disturbRecord_sameFields (s : State) (role role' : BankRole) (ref : RecordRef) (alreadyRead : Bool) :
    (s.bank role').SameFields ((s.disturbRecord role ref alreadyRead).bank role') := by
  rw [disturbRecord_bank]
  split
  · exact disturb_sameFields _ ref
  · exact ⟨fun _ => rfl, fun _ => rfl, fun _ => rfl, fun _ => rfl⟩

theorem wordAt_disturbWord (s : State) (word : BitVec 12) (placed : Bool) (a : Nat) :
    (s.disturbWord word placed).wordAt a = if a = word.toNat then .failed else s.wordAt a := by
  have hwritten : (s.disturbWord word placed).wordAt a =
      (s.withStore (storeWrite word.toNat .failed s.store)).wordAt a := by
    cases placed <;> rfl
  rw [hwritten, wordAt_withStore_write]
  simp only [word.isLt, and_true]

/-- Settles O27: one parity condition, or one word, is failed. -/
theorem disturbanceFailsParityAlone : Obligations.DisturbanceFailsParityAlone := by
  refine ⟨fun role ref alreadyRead s h => ?_, fun word placed s h => ?_⟩
  · have hfields := fun role' => disturbRecord_sameFields s role role' ref alreadyRead
    refine ⟨s.disturbRecord role ref alreadyRead, congrArg _ (live_of_released h _), ?_, fun role' ref' hne => ?_,
      fun role' n => (hfields role').mailboxes n, fun role' n => (hfields role').queues n,
      fun role' n => ⟨(hfields role').captures n, (hfields role').emits n⟩, ?_⟩
    · rw [disturbRecord_bank, if_pos rfl, disturb_parityGood_self]
    · rw [disturbRecord_bank]
      split
      · exact disturb_parityGood_of_ne fun he => hne (by rw [he, ‹role' = role›])
      · rfl
    · cases role <;> exact ⟨rfl, rfl, rfl⟩
  · refine ⟨s.disturbWord word placed, congrArg _ (live_of_released h _), ?_, fun a ha => ?_, ?_⟩
    · rw [wordAt_disturbWord, if_pos rfl]
    · rw [wordAt_disturbWord, if_neg ha]
    · cases placed <;> exact ⟨rfl, rfl, rfl, rfl, rfl⟩

end Sys2Proof.Machine
end

section
/-! Cells received: the tests of an arrival, the reception it begins, and cells completed (R6 to R10). -/

set_option Elab.async false

namespace Sys2Proof.Machine

/-! ## The tests of R8 -/

theorem receives_eq {s : State} {p : Port} (hoff : s.portOff p = false) (hsent : (s.slotFlags.get p).sent = false) :
    s.receives p = true := by
  simp [State.receives, hoff, hsent]

theorem not_receives {s : State} {p : Port} (h : s.portOff p = true ∨ (s.slotFlags.get p).sent = true) :
    s.receives p = false := by
  rcases h with h | h <;> simp [State.receives, h]

theorem exec_cellArrival {s : State} {p : Port} {header : BitVec 64} {inWindow : Bool} (h : s.resetnLow = false) :
    exec (.cellArrival p header inWindow) s = .next (if s.receives p then s.arrive p header inWindow else s) :=
  congrArg _ (live_of_released h _)

section
variable {s : State} {p : Port} {h : Header} {inWindow : Bool}

theorem testHeader_misplaced (hbeacon : ¬(p = .u ∧ h.kind = .beacon)) (hplace : s.placementApplies p = true)
    (hwrong : s.currentSlot p ≠ some h.slot ∨ s.currentRound p ≠ some h.round) :
    s.testHeader p h inWindow = .misplaced := by
  rw [State.testHeader, if_neg (by simpa [hplace] using hbeacon), if_pos (by simpa using hwrong)]

theorem testHeader_late (hbeacon : ¬(p = .u ∧ h.kind = .beacon)) (hplace : s.placementApplies p = true)
    (hslot : s.currentSlot p = some h.slot) (hround : s.currentRound p = some h.round)
    (hlate : inWindow = false ∨ (s.slotFlags.get p).accepted = true) : s.testHeader p h inWindow = .late := by
  rw [State.testHeader, if_neg (by simpa [hplace] using hbeacon), if_neg (by simp [hslot, hround]),
    if_pos (by simpa using hlate)]

/-- The tests that apply are passed. -/
theorem testHeader_accepted (hpass : p = .u ∧ h.kind = .beacon ∨ s.placementApplies p = false ∨
    s.currentSlot p = some h.slot ∧ s.currentRound p = some h.round ∧ inWindow = true ∧
      (s.slotFlags.get p).accepted = false) : s.testHeader p h inWindow = .accepted := by
  unfold State.testHeader
  split
  · rfl
  · rename_i hnot
    simp only [Bool.or_eq_true, Bool.and_eq_true, decide_eq_true_eq, Bool.not_eq_true', not_or, Bool.not_eq_false] at hnot
    obtain ⟨hbeacon, hplace⟩ := hnot
    rcases hpass with hpass | hpass | ⟨hslot, hround, hwindow, hfirst⟩
    · exact absurd hpass hbeacon
    · exact absurd hpass (by simp [hplace])
    · simp [hslot, hround, hwindow, hfirst]

end

/-- Settles O5: the tests in their order. -/
theorem refusedArrivalIsCountedOnce : Obligations.RefusedArrivalIsCountedOnce := by
  intro p header inWindow s hrel c
  refine ⟨fun hdeaf => ?_, fun hoff hsent => ⟨fun hbad => ?_, fun h hparse hbeacon hplace => ⟨fun hwrong => ?_,
    fun hslot hround hlate => ?_⟩⟩⟩
  · rw [exec_cellArrival hrel, not_receives hdeaf]
    rfl
  all_goals rw [exec_cellArrival hrel, if_pos (receives_eq hoff hsent)]
  · simp only [State.arrive, hbad]
    rfl
  · simp only [State.arrive, hparse, testHeader_misplaced hbeacon hplace hwrong]
    rfl
  · simp only [State.arrive, hparse, testHeader_late hbeacon hplace hslot hround hlate]
    rfl

/-! ## Headers accepted -/

/-- The port keeps the reception of the header and marks its current slot; nothing else is done yet. -/
def State.receiving (s : State) (p : Port) (h : Header) (inWindow : Bool) : State :=
  { s with
    rx := s.rx.set p (some (s.receptionOf p h inWindow))
    slotFlags := if (s.currentSlot p).isSome then s.slotFlags.set p { accepted := true, sent := false } else s.slotFlags }

/-- The capture unit's part in a header-accepted event: DATA and VOID cells are delivered to it (R10). -/
def State.offered (s : State) (p : Port) (h : Header) : State :=
  if s.delivers p && (h.kind = .data || h.kind = .void) then s.captureAtHeader p h else s

section
variable {s : State} {p : Port} {header : BitVec 64} {inWindow : Bool} {h : Header} (hrel : s.resetnLow = false)
  (hoff : s.portOff p = false) (hsent : (s.slotFlags.get p).sent = false) (hparse : parseHeader header = some h)
  (hctx : s.contexts.get p = none)
  (hpass : p = .u ∧ h.kind = .beacon ∨ s.placementApplies p = false ∨
    s.currentSlot p = some h.slot ∧ s.currentRound p = some h.round ∧ inWindow = true ∧
      (s.slotFlags.get p).accepted = false)
include hrel hoff hsent hparse hctx hpass

theorem exec_cellArrival_accepted : exec (.cellArrival p header inWindow) s =
    .next (if h.length = 0 then
        ((s.receiving p h inWindow).offered p h).completeReception p (s.receptionOf p h inWindow) [] true
      else (s.receiving p h inWindow).offered p h) := by
  rw [exec_cellArrival hrel, if_pos (receives_eq hoff hsent)]
  simp only [State.arrive, hparse, testHeader_accepted hpass]
  have hdrop : s.dropContext p = s := by simp only [State.dropContext, hctx]
  have hreceiving : (if (s.currentSlot p).isSome = true then
      ((s.dropContext p).withRx p (some (s.receptionOf p h inWindow))).withFlags p
        { ((s.dropContext p).withRx p (some (s.receptionOf p h inWindow))).slotFlags.get p with accepted := true }
      else (s.dropContext p).withRx p (some (s.receptionOf p h inWindow))) = s.receiving p h inWindow := by
    rw [hdrop, State.receiving]
    split
    · have hflags : { s.slotFlags.get p with accepted := true } = ({ accepted := true, sent := false } : SlotFlags) := by
        rw [← hsent]
      rw [← hflags]
      rfl
    · rfl
  have hdelivers : (s.receptionOf p h inWindow).deliverable = (s.receiving p h inWindow).delivers p := by
    cases p <;> rfl
  simp only [State.acceptHeader, hreceiving, hdelivers]
  rfl

end

theorem delivers_receiving (s : State) (p q : Port) (h : Header) (inWindow : Bool) :
    (s.receiving p h inWindow).delivers q = s.delivers q := by
  cases q <;> rfl

theorem offered_of_not_delivered {s : State} {p : Port} {h : Header} (hnot : h.kind ≠ .data ∧ h.kind ≠ .void ∨ s.delivers p = false) :
    s.offered p h = s := by
  refine if_neg ?_
  rcases hnot with ⟨hdata, hvoid⟩ | hnot
  · simp [hdata, hvoid]
  · simp [hnot]

theorem offered_of_delivered {s : State} {p : Port} {h : Header} (hdelivers : s.delivers p = true)
    (hkind : h.kind = .data ∨ h.kind = .void) : s.offered p h = s.captureAtHeader p h :=
  if_pos (by simpa [hdelivers] using hkind)

/-- A legal header keeps the rule of its kind on destination and length (R5). -/
theorem kindFieldsOk_of_parseHeader {header : BitVec 64} {h : Header} (hparse : parseHeader header = some h) :
    ∃ dest, kindFieldsOk h.kind dest h.length = true := by
  unfold parseHeader at hparse
  dsimp only at hparse
  split at hparse
  · cases hparse
  · split at hparse
    · rename_i hok
      cases hparse
      simp only [Bool.and_eq_true] at hok
      exact ⟨_, hok.2⟩
    · cases hparse

theorem length_of_void {header : BitVec 64} {h : Header} (hparse : parseHeader header = some h) (hkind : h.kind = .void) :
    h.length = 0 := by
  obtain ⟨dest, hok⟩ := kindFieldsOk_of_parseHeader hparse
  rw [hkind] at hok
  simp only [kindFieldsOk, Bool.and_eq_true, decide_eq_true_eq] at hok
  exact hok.2

theorem length_of_beacon {header : BitVec 64} {h : Header} (hparse : parseHeader header = some h)
    (hkind : h.kind = .beacon) : h.length = 1 := by
  obtain ⟨dest, hok⟩ := kindFieldsOk_of_parseHeader hparse
  rw [hkind] at hok
  simp only [kindFieldsOk, Bool.and_eq_true, decide_eq_true_eq] at hok
  exact hok.2

/-- Settles O6: the reception begins and is offered to no one. -/
theorem acceptedHeaderBeginsReception : Obligations.AcceptedHeaderBeginsReception := by
  intro p header inWindow s h hrel hoff hsent hparse hlength hctx hpass hnot
  rw [exec_cellArrival_accepted hrel hoff hsent hparse hctx hpass, if_neg hlength, offered_of_not_delivered]
  · rfl
  · rw [delivers_receiving]
    have hvoid : h.kind ≠ .void := fun hkind => hlength (length_of_void hparse hkind)
    exact hnot.imp (fun hdata => ⟨hdata, hvoid⟩) id

/-! ## Cells completed -/

theorem exec_payloadComplete {s : State} {p : Port} {payload : List Word} {check : BitVec 16} (h : s.resetnLow = false) :
    exec (.payloadComplete p payload check) s = .next (s.payloadArrives p payload check) :=
  congrArg _ (live_of_released h _)

/-- The receive buffer is free and the cell counted (R9). -/
def State.counted (s : State) (p : Port) (valid : Bool) : State :=
  { s with
    rx := s.rx.set p none
    counters := s.counters.set p (if valid then (s.counters.get p).countGood else (s.counters.get p).countMalformed) }

theorem completeReception_eq (s : State) (p : Port) (r : Reception) (payload : List Word) (valid : Bool) :
    s.completeReception p r payload valid = (s.counted p valid).deliverCell p r payload valid := by
  cases valid <;> rfl

theorem exec_payloadComplete_of_reception {s : State} {p : Port} {payload : List Word} {check : BitVec 16} {r : Reception}
    (h : s.resetnLow = false) (hoff : s.portOff p = false) (hrx : s.rx.get p = some r) (hlength : r.header.length ≠ 0)
    (hpayload : payload.length = r.header.length) : exec (.payloadComplete p payload check) s =
      .next ((s.counted p (payloadValid r.header payload check)).deliverCell p r payload
        (payloadValid r.header payload check)) := by
  have hcompleting : s.completing p payload = some r := by
    simp [State.completing, hoff, hrx, Option.filter, hlength, hpayload]
  rw [exec_payloadComplete h, State.payloadArrives, hcompleting, ← completeReception_eq]

theorem captureComplete_of_none {s : State} {p : Port} (h : s.contexts.get p = none) (header : Header) (payload : List Word)
    (valid : Bool) : s.captureComplete p header payload valid = s := by
  simp only [State.captureComplete, h]

theorem captureComplete_of_cut {s : State} {p : Port} {c : CaptureContext} (h : s.contexts.get p = some c)
    (hcut : c.mark = .cut) (header : Header) (payload : List Word) (valid : Bool) :
    s.captureComplete p header payload valid = s.withContext p none := by
  simp only [State.captureComplete, h, hcut]

/-- Settles O10: a cell delivered nowhere has no effect after it is counted. -/
theorem completedCellIsCounted : Obligations.CompletedCellIsCounted := by
  intro p payload check s hrel
  refine ⟨fun hnone => ?_, fun r hoff hrx hlength hpayload => ?_⟩
  · have hcompleting : s.completing p payload = none := by
      rcases hnone with h | h <;> simp [State.completing, h]
    rw [exec_payloadComplete hrel, State.payloadArrives, hcompleting]
  · intro valid c counted
    have hcounted : s.counted p valid = counted := rfl
    refine ⟨fun hkind => ?_, fun x hdata hctx hcut => ?_⟩
    all_goals rw [exec_payloadComplete_of_reception hrel hoff hrx hlength hpayload]
    · change Host.Outcome.next ((s.counted p valid).deliverCell p r payload valid) = _
      rw [hcounted]
      refine congrArg _ ?_
      rcases hkind with ⟨hdata, hctx⟩ | hresponse | hnotice | ⟨hbeacon, hcase⟩ | ⟨hrequest, hcase⟩
      · rw [State.deliverCell, hdata]
        exact captureComplete_of_none (s := counted) hctx _ _ _
      · rw [State.deliverCell, hresponse]
      · rw [State.deliverCell, hnotice]
      · rw [State.deliverCell, hbeacon]
        refine if_neg ?_
        rcases hcase with h | h <;> simp [h]
      · rw [State.deliverCell, hrequest]
        have hdelivers : counted.delivers p = s.delivers p := by cases p <;> rfl
        have haddress : counted.address p = s.address p := by cases p <;> rfl
        simp only [State.takeRequestCell, hdelivers, haddress]
        rcases hcase with h | h | h | h <;> simp [h]
    · change Host.Outcome.next ((s.counted p valid).deliverCell p r payload valid) = _
      rw [hcounted, State.deliverCell, hdata]
      exact congrArg _ (captureComplete_of_cut (s := counted) hctx hcut _ _ _)

end Sys2Proof.Machine
end

section
/-! What the capture unit does at a header, and the cells of length 0 (R6, R61, R93 to R99). -/

set_option Elab.async false

namespace Sys2Proof.Machine

/-! ## The figures of a target -/

/-- In a sound plan a target is available exactly when it is defined. -/
theorem targetFigures_eq_none {s : State} (hsound : s.ActiveSound) {k : Place} (h : s.active.placeDefined k = false) :
    s.targetFigures k = none := by
  cases k with
  | mailbox n =>
    have hgood : s.active.mailboxes[n].parityGood = true := hsound (.mailbox n)
    have hnone : s.active.mailboxes[n].fields = none := by simpa [Bank.placeDefined] using h
    rw [State.targetFigures, seen_of_good hgood, hnone]
    rfl
  | queue n =>
    have hgood : s.active.queues[n].parityGood = true := hsound (.queue n)
    have hnone : s.active.queues[n].fields = none := by simpa [Bank.placeDefined] using h
    rw [State.targetFigures, seen_of_good hgood, hnone]
    rfl

theorem targetFigures_mailbox {s : State} (hsound : s.ActiveSound) {n : Fin 64} {d : MailboxDef}
    (h : s.active.mailboxes[n].fields = some d) : s.targetFigures (.mailbox n) = some (.mailbox n d.base d.capacity []) := by
  have hgood : s.active.mailboxes[n].parityGood = true := hsound (.mailbox n)
  rw [State.targetFigures, seen_of_good hgood, h]
  rfl

theorem targetFigures_queue {s : State} (hsound : s.ActiveSound) {n : Fin 8} {d : QueueDef}
    (h : s.active.queues[n].fields = some d) :
    s.targetFigures (.queue n) = some (.queue n d.base d.capacity d.depth d.fullPolicy) := by
  have hgood : s.active.queues[n].parityGood = true := hsound (.queue n)
  rw [State.targetFigures, seen_of_good hgood, h]
  rfl

theorem targetFigures_isSome {s : State} (hsound : s.ActiveSound) {k : Place} (h : s.active.placeDefined k = true) :
    ∃ t, s.targetFigures k = some t := by
  cases k with
  | mailbox n =>
    obtain ⟨d, hd⟩ := Option.isSome_iff_exists.1 h
    exact ⟨_, targetFigures_mailbox hsound hd⟩
  | queue n =>
    obtain ⟨d, hd⟩ := Option.isSome_iff_exists.1 h
    exact ⟨_, targetFigures_queue hsound hd⟩

/-! ## The lines of Table 6-2 -/

section
variable {s : State} {p : Port} {h : Header} {n : Fin 128} {e : CaptureEntry}

theorem captureMatched_unavailable (ht : s.targetFigures e.target = none) :
    s.captureMatched p h n e = s.recordCapture n .invalid h.round := by
  simp only [State.captureMatched, ht]

theorem captureMatched_foreign {t : CaptureTarget} (ht : s.targetFigures e.target = some t) (hzero : e.acceptFrom ≠ 0)
    (hother : e.acceptFrom ≠ h.source) : s.captureMatched p h n e = s.recordCapture n .foreign h.round := by
  simp only [State.captureMatched, ht]
  exact if_pos (by rw [Bool.and_eq_true]; exact ⟨decide_eq_true hzero, decide_eq_true hother⟩)

theorem captureMatched_accepted {t : CaptureTarget} (ht : s.targetFigures e.target = some t)
    (hfrom : e.acceptFrom = 0 ∨ e.acceptFrom = h.source) : s.captureMatched p h n e =
      if h.kind = .void then s.recordCapture n .void h.round else s.openCapture p n h.round t := by
  simp only [State.captureMatched, ht]
  rw [if_neg (by rcases hfrom with h | h <;> simp [h])]

theorem openCapture_mailbox {r : Round} {k : Fin 64} {base capacity : Nat} {spoiled : List Nat}
    (hopen : s.mailboxes[k].openWrite = none) : s.openCapture p n r (.mailbox k base capacity spoiled) =
      (s.withMailbox k { s.mailboxes[k] with openWrite := some p }).withContext p
        (some ⟨n, r, .mailbox k base capacity spoiled, .none⟩) := by
  simp only [State.openCapture, State.openWrite, hopen, if_true]

theorem openCapture_refused {r : Round} {k : Fin 64} {base capacity : Nat} {spoiled : List Nat}
    (hopen : s.mailboxes[k].openWrite.isSome = true) :
    s.openCapture p n r (.mailbox k base capacity spoiled) = s.recordCapture n .invalid r := by
  obtain ⟨q, hq⟩ := Option.isSome_iff_exists.1 hopen
  simp only [State.openCapture, State.openWrite, hq, Bool.false_eq_true, if_false]

end

/-! ## The lookup -/

theorem captureAtHeader_of_no_hit {s : State} {p : Port} {h : Header} (hsound : s.ActiveSound)
    (hnone : ∀ (n : Fin 128) (e : CaptureEntry), s.active.captures[n].fields = some e → e.hits p h.slot h.round = false) :
    s.captureAtHeader p h = s := by
  have hfind : s.active.findCapture p h.slot h.round = none :=
    findCapture_eq_none.2 fun n e he => hnone n e (congrArg Stored.fields he)
  simp only [State.captureAtHeader, hfind, readCaptures_of_sound hsound]

theorem readable_of_sound {s : State} (hsound : s.ActiveSound) {n : Fin 128} {e : CaptureEntry}
    (he : s.active.captures[n].fields = some e) : s.active.captures[n] = ⟨some e, true⟩ :=
  seen_eq_some.1 ((seen_of_good (hsound (.capture n))).trans he)

theorem captureAtHeader_of_hit {s : State} {p : Port} {h : Header} (hsound : s.ActiveSound) (hone : s.active.OneMatch)
    {n : Fin 128} {e : CaptureEntry} (he : s.active.captures[n].fields = some e) (hhit : e.hits p h.slot h.round = true) :
    s.captureAtHeader p h = s.captureMatched p h n e := by
  have hfind := findCapture_of_hit hone (readable_of_sound hsound he) hhit
  simp only [State.captureAtHeader, hfind, readCaptures_of_sound hsound, readActive_of_good (hsound e.target.ref)]

/-- In a sound plan the event touches outcomes, mailboxes and contexts alone. -/
theorem captureAtHeader_sound_frame {s : State} {p : Port} {h : Header} (hsound : s.ActiveSound) : ∃ co ms cs,
    s.captureAtHeader p h = { s with captureOutcomes := co, mailboxes := ms, contexts := cs } := by
  unfold State.captureAtHeader
  dsimp only
  split
  · exact ⟨_, _, _, readCaptures_of_sound hsound⟩
  · rename_i n e _
    rw [readCaptures_of_sound hsound, readActive_of_good (hsound e.target.ref)]
    exact captureMatched_frame s p h n e

theorem captureMatched_void_contexts {s : State} {p : Port} {h : Header} {n : Fin 128} {e : CaptureEntry}
    (hvoid : h.kind = .void) : (s.captureMatched p h n e).contexts = s.contexts := by
  unfold State.captureMatched
  split
  · rfl
  · split
    · rfl
    · rfl

/-- A VOID cell opens no capture. -/
theorem captureAtHeader_void_contexts {s : State} {p : Port} {h : Header} (hvoid : h.kind = .void) :
    (s.captureAtHeader p h).contexts = s.contexts := by
  obtain ⟨u, hread⟩ := readCaptures_frame s
  unfold State.captureAtHeader
  dsimp only
  split
  · rw [hread]
  · rename_i n e _
    obtain ⟨u', hread'⟩ := readActive_frame s.readCaptures e.target.ref
    rw [captureMatched_void_contexts hvoid, hread', hread]

/-! ## O7 -/

section
variable {s : State} {p : Port} {header : BitVec 64} {h : Header} (hrel : s.resetnLow = false) (hoff : s.portOff p = false)
  (hclear : s.slotFlags.get p = .clear) (hparse : parseHeader header = some h) (hslot : s.currentSlot p = some h.slot)
  (hround : s.currentRound p = some h.round) (hdelivers : s.delivers p = true) (hctx : s.contexts.get p = none)
include hrel hoff hclear hparse hslot hround hdelivers hctx

theorem exec_cellArrival_data (hdata : h.kind = .data) (hlength : h.length ≠ 0) :
    exec (.cellArrival p header true) s = .next ((s.receiving p h true).captureAtHeader p h) := by
  rw [exec_cellArrival_accepted hrel hoff (by rw [hclear]; rfl) hparse hctx
    (.inr (.inr ⟨hslot, hround, rfl, by rw [hclear]; rfl⟩)), if_neg hlength,
    offered_of_delivered ((delivers_receiving s p p h true).trans hdelivers) (.inl hdata)]

theorem exec_cellArrival_void (hvoid : h.kind = .void) : exec (.cellArrival p header true) s =
    .next (((s.receiving p h true).captureAtHeader p h).counted p true) := by
  rw [exec_cellArrival_accepted hrel hoff (by rw [hclear]; rfl) hparse hctx
    (.inr (.inr ⟨hslot, hround, rfl, by rw [hclear]; rfl⟩)), if_pos (length_of_void hparse hvoid),
    offered_of_delivered ((delivers_receiving s p p h true).trans hdelivers) (.inr hvoid), completeReception_eq]
  refine congrArg _ ?_
  have hkind : (s.receptionOf p h true).header.kind = .void := hvoid
  rw [State.deliverCell, hkind]
  refine captureComplete_of_none ?_ _ _ _
  exact (congrArg (PerPort.get · p) (captureAtHeader_void_contexts (s := s.receiving p h true) hvoid)).trans hctx

end

/-- The counter GOOD goes up to 65535 (R17). -/
theorem countGood_eq (c : Counters) : c.countGood = { c with good := if c.good = 65535 then 65535 else c.good + 1 } := by
  have hmax : BitVec.allOnes 16 = 65535 := rfl
  rw [Counters.countGood, satInc, hmax]
  by_cases h : c.good = 65535
  · rw [if_pos h, if_pos h, h]
  · rw [if_neg h, if_neg h]

/-- The three parts of the state that the capture unit writes at a header. -/
structure State.SameCapture (s t : State) : Prop where
  captureOutcomes : t.captureOutcomes = s.captureOutcomes
  mailboxes : t.mailboxes = s.mailboxes
  contexts : t.contexts = s.contexts

/-- Settles O7: the lines of Table 6-2 for the entry found, on the state that has begun the reception. -/
theorem captureAtHeaderFollowsTable : Obligations.CaptureAtHeaderFollowsTable := by
  intro p header s h hrel hoff hclear hparse hslot hround hdelivers hctx hsound hone hcase c
  let x := (s.receiving p h true).captureAtHeader p h
  have hsound' : (s.receiving p h true).ActiveSound := hsound
  obtain ⟨co, ms, cs, hframe⟩ := captureAtHeader_sound_frame (p := p) (h := h) hsound'
  have hreceiving : s.receiving p h true = { s with
      rx := s.rx.set p (some { header := h, slotAt := some h.slot, roundAt := some h.round, inWindow := true,
                               deliverable := true })
      slotFlags := s.slotFlags.set p { accepted := true, sent := false } } := by
    simp only [State.receiving, State.receptionOf, hslot, hround, hdelivers, Option.isSome_some, if_true]
  obtain ⟨t, hexec, hshape, hsame⟩ : ∃ t, exec (.cellArrival p header true) s = .next t ∧
      t = { s with
        rx := s.rx.set p (if h.kind = .data then
          some { header := h, slotAt := some h.slot, roundAt := some h.round, inWindow := true, deliverable := true }
          else none)
        slotFlags := s.slotFlags.set p { accepted := true, sent := false }
        counters := if h.kind = .data then s.counters
          else s.counters.set p { c with good := if c.good = 65535 then 65535 else c.good + 1 }
        captureOutcomes := t.captureOutcomes
        mailboxes := t.mailboxes
        contexts := t.contexts } ∧ x.SameCapture t := by
    rcases hcase with ⟨hdata, hlength⟩ | ⟨hvoid, -⟩
    · refine ⟨x, exec_cellArrival_data hrel hoff hclear hparse hslot hround hdelivers hctx hdata hlength, ?_, rfl, rfl, rfl⟩
      simp only [x, hframe, hreceiving, hdata, if_true]
    · refine ⟨x.counted p true, exec_cellArrival_void hrel hoff hclear hparse hslot hround hdelivers hctx hvoid, ?_,
        rfl, rfl, rfl⟩
      have hnotdata : ¬ h.kind = .data := by simp [hvoid]
      simp only [x, hframe, hreceiving, hnotdata, if_false, State.counted, if_true, PerPort.set_set, countGood_eq, c]
  refine ⟨t, hexec, hshape, fun hnone => ?_, fun n e he hhit => ⟨fun hundef => ?_, fun hdef => ⟨fun ⟨hzero, hother⟩ => ?_,
    fun hfrom => ⟨fun hvoid => ?_, fun k d hdata htarget hd => ⟨fun hopen => ?_, fun hopen => ?_⟩,
      fun k d hdata htarget hd => ?_⟩⟩⟩⟩
  · have hx : x = s.receiving p h true := captureAtHeader_of_no_hit hsound' hnone
    exact ⟨by rw [hsame.captureOutcomes, hx]; rfl, by rw [hsame.mailboxes, hx]; rfl, by rw [hsame.contexts, hx]; rfl⟩
  all_goals have hx : x = (s.receiving p h true).captureMatched p h n e := captureAtHeader_of_hit hsound' hone he hhit
  · rw [captureMatched_unavailable (targetFigures_eq_none hsound' hundef)] at hx
    exact ⟨by rw [hsame.captureOutcomes, hx]; rfl, by rw [hsame.mailboxes, hx]; rfl, by rw [hsame.contexts, hx]; rfl⟩
  · obtain ⟨f, hf⟩ := targetFigures_isSome hsound' hdef
    rw [captureMatched_foreign hf hzero hother] at hx
    exact ⟨by rw [hsame.captureOutcomes, hx]; rfl, by rw [hsame.mailboxes, hx]; rfl, by rw [hsame.contexts, hx]; rfl⟩
  · obtain ⟨f, hf⟩ := targetFigures_isSome hsound' hdef
    rw [captureMatched_accepted hf hfrom, if_pos hvoid] at hx
    exact ⟨by rw [hsame.captureOutcomes, hx]; rfl, by rw [hsame.mailboxes, hx]; rfl, by rw [hsame.contexts, hx]; rfl⟩
  · rw [captureMatched_accepted (by rw [htarget]; exact targetFigures_mailbox hsound' hd) hfrom,
      if_neg (by simp [hdata]), openCapture_refused (s := s.receiving p h true) hopen] at hx
    exact ⟨by rw [hsame.captureOutcomes, hx]; rfl, by rw [hsame.mailboxes, hx]; rfl, by rw [hsame.contexts, hx]; rfl⟩
  · rw [captureMatched_accepted (by rw [htarget]; exact targetFigures_mailbox hsound' hd) hfrom,
      if_neg (by simp [hdata]), openCapture_mailbox (s := s.receiving p h true) hopen] at hx
    exact ⟨by rw [hsame.captureOutcomes, hx]; rfl, by rw [hsame.mailboxes, hx]; rfl, by rw [hsame.contexts, hx]; rfl⟩
  · rw [captureMatched_accepted (by rw [htarget]; exact targetFigures_queue hsound' hd) hfrom,
      if_neg (by simp [hdata])] at hx
    exact ⟨by rw [hsame.captureOutcomes, hx]; rfl, by rw [hsame.mailboxes, hx]; rfl, by rw [hsame.contexts, hx]; rfl⟩

end Sys2Proof.Machine
end

section
/-! Captures completed (R98, R99, R116), cells of length 0 (R6), and REQUEST cells (R134). -/

set_option Elab.async false

namespace Sys2Proof.Machine

/-! ## The capture unit at payload complete -/

/-- The outcomes after the outcome `o` of a context that no swap has marked (R87). -/
def State.outcomesWith (s : State) (c : CaptureContext) (o : CaptureOutcome) : Vector (Option (CaptureOutcome × Round)) 128 :=
  if c.mark = .none then s.captureOutcomes.set c.entry (some (o, c.round)) else s.captureOutcomes

theorem contextOutcome_eq (s : State) (c : CaptureContext) (o : CaptureOutcome) :
    s.contextOutcome c o = { s with captureOutcomes := s.outcomesWith c o } := by
  unfold State.contextOutcome State.outcomesWith
  split <;> simp_all [State.recordCapture]

theorem captureComplete_mailbox {s : State} {p : Port} {c : CaptureContext} {n : Fin 64} {base capacity : Nat}
    {spoiled : List Nat} (hc : s.contexts.get p = some c) (htarget : c.target = .mailbox n base capacity spoiled)
    (hmark : c.mark ≠ .cut) (h : Header) (payload : List Word) (valid : Bool) : s.captureComplete p h payload valid =
      (s.withContext p none).closeCapture p c h n base capacity spoiled payload valid := by
  simp only [State.captureComplete, hc, htarget]
  split
  · exact absurd ‹_› hmark
  · rename_i hn
    cases hn
    rfl
  · rename_i hn
    cases hn
    rfl
  · rename_i hn
    cases hn
  · rename_i hn
    cases hn

theorem captureComplete_queue {s : State} {p : Port} {c : CaptureContext} {n : Fin 8} {base capacity depth : Nat}
    {policy : FullPolicy} (hc : s.contexts.get p = some c) (htarget : c.target = .queue n base capacity depth policy)
    (hmark : c.mark ≠ .cut) (h : Header) (payload : List Word) (valid : Bool) : s.captureComplete p h payload valid =
      (s.withContext p none).appendCapture c h n base capacity depth policy payload valid := by
  simp only [State.captureComplete, hc, htarget]
  split
  · exact absurd ‹_› hmark
  · rename_i hn
    cases hn
  · rename_i hn
    cases hn
  · rename_i hn
    cases hn
    rfl
  · rename_i hn
    cases hn
    rfl

/-- An open write is closed: the words are placed, the mailbox is flipped when the payload is valid. -/
theorem closeCapture_eq {s : State} {p : Port} {n : Fin 64} (hopen : s.mailboxes[n].openWrite = some p) (c : CaptureContext)
    (h : Header) (base capacity : Nat) (spoiled : List Nat) (payload : List Word) (valid : Bool) :
    s.closeCapture p c h n base capacity spoiled payload valid =
      { s.placeWords s.mailboxes[n] base capacity spoiled payload with
        mailboxes := s.mailboxes.set n (if valid then
            s.mailboxes[n].flip (min h.length capacity) h.source c.round (capacity < h.length)
          else s.mailboxes[n].closeWrite)
        captureOutcomes := s.outcomesWith c (if valid then (if capacity < h.length then .truncated else .received)
          else .invalid) } := by
  simp only [State.closeCapture]
  rw [if_pos hopen]
  cases valid
  · simp only [Bool.false_eq_true, if_false, contextOutcome_eq]
    rfl
  · simp only [if_true, contextOutcome_eq]
    rfl

theorem append_of_room {s : State} {n : Fin 8} {depth : Nat} (hroom : s.queues[n].entries.length < depth)
    (base capacity : Nat) (policy : FullPolicy) (e : QueueEntry) (ws : List Word) :
    s.append n base capacity depth policy e ws = (s.putEntry n base capacity depth e ws, .appended) :=
  if_pos hroom

theorem append_dropped {s : State} {n : Fin 8} {depth : Nat} {policy : FullPolicy} (hfull : depth ≤ s.queues[n].entries.length)
    (hkeep : s.queues[n].headInFlight.isSome = true ∨ policy = .dropNewest) (base capacity : Nat) (e : QueueEntry)
    (ws : List Word) : s.append n base capacity depth policy e ws = (s.raise .queueOverrun (.queue n), .dropped) := by
  refine (if_neg (Nat.not_lt.2 hfull)).trans (if_pos ?_)
  rw [Bool.or_eq_true, decide_eq_true_eq]
  exact hkeep

theorem append_replaced {s : State} {n : Fin 8} {depth : Nat} {policy : FullPolicy}
    (hfull : depth ≤ s.queues[n].entries.length) (hidle : s.queues[n].headInFlight = none) (hpolicy : policy = .replaceOldest)
    (base capacity : Nat) (e : QueueEntry) (ws : List Word) : s.append n base capacity depth policy e ws =
      (((s.withQueue n (s.queues[n].removeHead depth)).putEntry n base capacity depth e ws).raise .queueOverrun (.queue n),
        .replaced) := by
  refine (if_neg (Nat.not_lt.2 hfull)).trans (if_neg ?_)
  rw [hpolicy, hidle]
  decide

/-- The words of an entry put in the ring at `start`. -/
theorem wordAt_putEntry (s : State) (n : Fin 8) (base capacity depth : Nat) (e : QueueEntry) (ws : List Word) (a : Nat) :
    let start := ringBase base capacity depth s.queues[n].headPos s.queues[n].entries.length
    (s.putEntry n base capacity depth e ws).wordAt a =
      if start ≤ a ∧ a < start + (ws.take capacity).length ∧ a < 4096 then .good ((ws.take capacity).getD (a - start) 0)
      else s.wordAt a :=
  wordAt_withStore_writeAll s a _ _

theorem getD_take {l : List Word} {k i : Nat} (h : i < k) : (l.take k).getD i 0 = l.getD i 0 := by
  rw [List.getD_eq_getElem?_getD, List.getD_eq_getElem?_getD, List.getElem?_take_of_lt h]

/-! ## O11 -/

/-- The state after the payload of an open mailbox write. -/
theorem exec_payloadComplete_mailbox {s : State} {p : Port} {payload : List Word} {check : BitVec 16} {r : Reception}
    {c : CaptureContext} {n : Fin 64} {base capacity : Nat} {spoiled : List Nat} (hrel : s.resetnLow = false)
    (hoff : s.portOff p = false) (hrx : s.rx.get p = some r) (hdata : r.header.kind = .data) (hlength : r.header.length ≠ 0)
    (hpayload : payload.length = r.header.length) (hc : s.contexts.get p = some c)
    (htarget : c.target = .mailbox n base capacity spoiled) (hmark : c.mark ≠ .cut)
    (hopen : s.mailboxes[n].openWrite = some p) :
    let valid := payloadValid r.header payload check
    let m := s.mailboxes[n]
    exec (.payloadComplete p payload check) s = .next
      { ((s.counted p valid).withContext p none).placeWords m base capacity spoiled payload with
        mailboxes := s.mailboxes.set n (if valid then
            m.flip (min r.header.length capacity) r.header.source c.round (capacity < r.header.length)
          else m.closeWrite)
        captureOutcomes := s.outcomesWith c (if valid then (if capacity < r.header.length then .truncated else .received)
          else .invalid) } := by
  intro valid m
  rw [exec_payloadComplete_of_reception hrel hoff hrx hlength hpayload, State.deliverCell, hdata]
  refine congrArg _ ?_
  dsimp only
  rw [captureComplete_mailbox (s := s.counted p valid) hc htarget hmark,
    closeCapture_eq (s := (s.counted p valid).withContext p none) hopen]
  rfl

/-- Settles O11: the words placed, the mailbox flipped or its write closed. -/
theorem mailboxCaptureClosesItsWrite : Obligations.MailboxCaptureClosesItsWrite := by
  intro p payload check s r c n base capacity spoiled hrel hoff hrx hdata hlength hpayload hc htarget hmark hopen m h start k g
  have hstart : halfBase base capacity m.half.other = start := otherHalf_eq base capacity m.half
  have hk : (payload.take capacity).length = k := by
    rw [List.length_take, hpayload]
    exact Nat.min_comm _ _
  have hexec := exec_payloadComplete_mailbox hrel hoff hrx hdata hlength hpayload hc htarget hmark hopen (check := check)
  have hword := fun a => wordAt_placeWords ((s.counted p (payloadValid h payload check)).withContext p none) m base capacity
    spoiled payload a
  rw [hstart, hk] at hword
  refine ⟨_, hexec, rfl, PerPort.get_set_self _ _ _, rfl, rfl, rfl, fun a ha => (hword a).trans ?_,
    fun i hi hin => (hword (start + i)).trans ?_, fun hvalid => ?_, fun hinvalid => ?_⟩
  · rw [if_neg (by omega)]
    rfl
  · rw [if_pos (by omega), Nat.add_sub_cancel_left, getD_take (by omega)]
  · simp only [show payloadValid r.header payload check = true from hvalid, if_true]
    exact ⟨rfl, rfl⟩
  · simp only [show payloadValid r.header payload check = false from hinvalid, Bool.false_eq_true, if_false]
    exact ⟨rfl, rfl⟩

/-! ## O12 -/

theorem exec_payloadComplete_queue {s : State} {p : Port} {payload : List Word} {check : BitVec 16} {r : Reception}
    {c : CaptureContext} {n : Fin 8} {base capacity depth : Nat} {policy : FullPolicy} (hrel : s.resetnLow = false)
    (hoff : s.portOff p = false) (hrx : s.rx.get p = some r) (hdata : r.header.kind = .data) (hlength : r.header.length ≠ 0)
    (hpayload : payload.length = r.header.length) (hc : s.contexts.get p = some c)
    (htarget : c.target = .queue n base capacity depth policy) (hmark : c.mark ≠ .cut) :
    let valid := payloadValid r.header payload check
    exec (.payloadComplete p payload check) s = .next (((s.counted p valid).withContext p none).appendCapture c r.header n
      base capacity depth policy payload valid) := by
  intro valid
  rw [exec_payloadComplete_of_reception hrel hoff hrx hlength hpayload, State.deliverCell, hdata]
  exact congrArg _ (captureComplete_queue (s := s.counted p valid) hc htarget hmark _ _ _)

/-- The entry that a held cell becomes (R99). -/
def heldEntry (c : CaptureContext) (h : Header) (capacity : Nat) : QueueEntry :=
  { length := min h.length capacity, source := h.source, round := c.round, truncated := capacity < h.length }

section
variable {s : State} {c : CaptureContext} {h : Header} {n : Fin 8} {base capacity depth : Nat} {policy : FullPolicy}
  {payload : List Word}

theorem appendCapture_invalid : s.appendCapture c h n base capacity depth policy payload false =
    { s with captureOutcomes := s.outcomesWith c .invalid } := contextOutcome_eq s c .invalid

theorem appendCapture_of_room (hroom : s.queues[n].entries.length < depth) :
    s.appendCapture c h n base capacity depth policy payload true =
      { s.putEntry n base capacity depth (heldEntry c h capacity) payload with
        captureOutcomes := s.outcomesWith c (if capacity < h.length then .truncated else .received) } := by
  simp only [State.appendCapture, if_true, append_of_room hroom, contextOutcome_eq, Appended.outcome, decide_eq_true_eq]
  rfl

theorem appendCapture_dropped (hfull : depth ≤ s.queues[n].entries.length)
    (hkeep : s.queues[n].headInFlight.isSome = true ∨ policy = .dropNewest) :
    s.appendCapture c h n base capacity depth policy payload true =
      { s.raise .queueOverrun (.queue n) with captureOutcomes := s.outcomesWith c .dropped } := by
  simp only [State.appendCapture, if_true, append_dropped hfull hkeep, contextOutcome_eq, Appended.outcome]
  rfl

theorem appendCapture_replaced (hfull : depth ≤ s.queues[n].entries.length) (hidle : s.queues[n].headInFlight = none)
    (hpolicy : policy = .replaceOldest) : s.appendCapture c h n base capacity depth policy payload true =
      { (s.withQueue n (s.queues[n].removeHead depth)).putEntry n base capacity depth (heldEntry c h capacity) payload with
        notices := s.notices.raise .queueOverrun (.queue n) s.raiseRound
        captureOutcomes := s.outcomesWith c (if capacity < h.length then .truncated else .received) } := by
  simp only [State.appendCapture, if_true, append_replaced hfull hidle hpolicy, contextOutcome_eq, Appended.outcome,
    decide_eq_true_eq, raise_eq]
  rfl

end

/-- The queue after a replacement: the oldest entry is gone, the new one at the tail. -/
theorem queues_putEntry_removeHead (s : State) (n : Fin 8) (base capacity depth : Nat) (e : QueueEntry) (ws : List Word) :
    ((s.withQueue n (s.queues[n].removeHead depth)).putEntry n base capacity depth e ws).queues =
      s.queues.set n { entries := s.queues[n].entries.tail ++ [e], headInFlight := none, attempts := 0, drained := false,
                       headPos := (s.queues[n].headPos + 1) % depth } := by
  simp [State.putEntry, State.withQueue, State.withStore, QueueRt.removeHead]

/-- Settles O12: the cell is appended, replaces the oldest entry, or is dropped. -/
theorem queueCaptureAppendsOrDrops : Obligations.QueueCaptureAppendsOrDrops := by
  intro p payload check s r c n base capacity depth policy hrel hoff hrx hdata hlength hpayload hc htarget hmark q h k e
    stored recorded written g
  have hexec := exec_payloadComplete_queue hrel hoff hrx hdata hlength hpayload hc htarget hmark (check := check)
  have hk : (payload.take capacity).length = k := by
    rw [List.length_take, hpayload]
    exact Nat.min_comm _ _
  let y := (s.counted p true).withContext p none
  have hwritten : ∀ {t y' : State} {start : Nat}, (∀ a, t.wordAt a = (y'.putEntry n base capacity depth e payload).wordAt a) →
      ringBase base capacity depth y'.queues[n].headPos y'.queues[n].entries.length = start →
      (∀ a, y'.wordAt a = s.wordAt a) → written t start := by
    intro t y' start ht hstart hy
    have hword := fun a => (ht a).trans (wordAt_putEntry y' n base capacity depth e payload a)
    rw [hstart, hk] at hword
    refine ⟨fun i hi hin => (hword _).trans ?_, fun a ha => (hword a).trans ?_⟩
    · rw [if_pos (by omega), Nat.add_sub_cancel_left, getD_take (by omega)]
    · rw [if_neg (by omega), hy]
  cases hvalid : payloadValid h payload check with
  | false =>
    simp only [show payloadValid r.header payload check = false from hvalid, appendCapture_invalid] at hexec
    exact ⟨_, hexec, rfl, PerPort.get_set_self _ _ _, rfl, rfl, fun _ => ⟨rfl, rfl, rfl, rfl⟩,
      fun hno => Bool.noConfusion hno, fun hno => Bool.noConfusion hno⟩
  | true =>
    simp only [show payloadValid r.header payload check = true from hvalid] at hexec
    by_cases hroom : q.entries.length < depth
    · rw [appendCapture_of_room (s := y) hroom] at hexec
      exact ⟨_, hexec, rfl, PerPort.get_set_self _ _ _, rfl, rfl, fun hno => Bool.noConfusion hno,
        fun _ _ => ⟨rfl, rfl, hwritten (y' := y) (wordAt_congr rfl rfl) rfl (wordAt_congr rfl rfl), rfl⟩,
        fun _ hfull => absurd hroom (Nat.not_lt.2 hfull)⟩
    · have hfull := Nat.not_lt.1 hroom
      by_cases hkeep : q.headInFlight.isSome = true ∨ policy = .dropNewest
      · rw [appendCapture_dropped (s := y) hfull hkeep] at hexec
        refine ⟨_, hexec, rfl, PerPort.get_set_self _ _ _, rfl, rfl, fun hno => Bool.noConfusion hno,
          fun _ hlt => absurd hlt hroom, fun _ _ => ⟨rfl, fun _ => ⟨rfl, rfl, rfl⟩, fun hidle hpolicy => ?_⟩⟩
        rw [hidle, hpolicy] at hkeep
        simp at hkeep
      · have hidle : q.headInFlight = none := by
          rw [← Option.not_isSome_iff_eq_none]
          exact fun hs => hkeep (.inl hs)
        have hpolicy : policy = .replaceOldest := by
          cases policy with
          | dropNewest => exact absurd (.inr rfl) hkeep
          | replaceOldest => rfl
        rw [appendCapture_replaced (s := y) hfull hidle hpolicy] at hexec
        refine ⟨_, hexec, rfl, PerPort.get_set_self _ _ _, rfl, rfl, fun hno => Bool.noConfusion hno,
          fun _ hlt => absurd hlt hroom, fun _ _ => ⟨rfl, fun hk => absurd hk hkeep, fun _ _ => ⟨?_, ?_, rfl⟩⟩⟩
        · exact queues_putEntry_removeHead y n base capacity depth e payload
        · refine hwritten (y' := y.withQueue n (y.queues[n].removeHead depth)) (wordAt_congr rfl rfl) ?_ (wordAt_congr rfl rfl)
          have hq : (y.withQueue n (q.removeHead depth)).queues[n] = q.removeHead depth := Vector.getElem_set_self _
          refine (congrArg (fun x : QueueRt => ringBase base capacity depth x.headPos x.entries.length) hq).trans ?_
          simp only [QueueRt.removeHead, List.length_tail, ringBase]

/-! ## O8 -/

/-- No word of an empty payload is placed. -/
theorem placeWords_nil (s : State) (m : MailboxRt) (base capacity : Nat) : s.placeWords m base capacity [] [] = s := by
  simp [State.placeWords, storeWriteAll, State.withStore]

theorem putEntry_nil (s : State) (n : Fin 8) (base capacity depth : Nat) (e : QueueEntry) :
    s.putEntry n base capacity depth e [] =
      s.withQueue n { s.queues[n] with entries := s.queues[n].entries ++ [e] } := by
  simp [State.putEntry, storeWriteAll, State.withStore]

theorem withQueue_removeHead (s : State) (n : Fin 8) (depth : Nat) (e : QueueEntry) :
    let t := s.withQueue n (s.queues[n].removeHead depth)
    t.withQueue n { t.queues[n] with entries := t.queues[n].entries ++ [e] } = s.withQueue n
      { entries := s.queues[n].entries.tail ++ [e], headInFlight := none, attempts := 0, drained := false,
        headPos := (s.queues[n].headPos + 1) % depth } := by
  simp [State.withQueue, QueueRt.removeHead]

/-- The header of a cell of length 0 has been accepted and the cell counted. -/
def State.countedEmpty (s : State) (p : Port) : State :=
  { s with
    rx := s.rx.set p none
    counters := s.counters.set p (s.counters.get p).countGood
    slotFlags := if (s.currentSlot p).isSome then s.slotFlags.set p { accepted := true, sent := false } else s.slotFlags }

theorem counted_receiving (s : State) (p : Port) (h : Header) (inWindow : Bool) :
    (s.receiving p h inWindow).counted p true = s.countedEmpty p := by
  simp [State.counted, State.receiving, State.countedEmpty]

/-- A cell that no one is offered, or whose capture is over, completes without an effect. -/
theorem deliverCell_empty_quiet {s : State} {p : Port} {r : Reception} (hctx : s.contexts.get p = none)
    (hbeacon : r.header.kind ≠ .beacon) : s.deliverCell p r [] true = s := by
  unfold State.deliverCell
  cases hk : r.header.kind with
  | data => exact captureComplete_of_none hctx _ _ _
  | void => exact captureComplete_of_none hctx _ _ _
  | beacon => exact absurd hk hbeacon
  | request =>
    dsimp only
    rw [if_pos rfl, State.takeRequestCell]
    split <;> rfl
  | response => rfl
  | notice => rfl

section
variable {s : State} {p : Port} {header : BitVec 64} {inWindow : Bool} {h : Header} (hrel : s.resetnLow = false)
  (hoff : s.portOff p = false) (hsent : (s.slotFlags.get p).sent = false) (hparse : parseHeader header = some h)
  (hlength : h.length = 0) (hctx : s.contexts.get p = none)
  (hpass : s.placementApplies p = false ∨ s.currentSlot p = some h.slot ∧ s.currentRound p = some h.round ∧
    inWindow = true ∧ (s.slotFlags.get p).accepted = false)
include hrel hoff hsent hparse hlength hctx hpass

theorem exec_cellArrival_empty : exec (.cellArrival p header inWindow) s =
    .next ((((s.receiving p h inWindow).offered p h).counted p true).deliverCell p (s.receptionOf p h inWindow) [] true) := by
  rw [exec_cellArrival_accepted hrel hoff hsent hparse hctx (.inr hpass), if_pos hlength, completeReception_eq]

/-- The cell has opened no capture. -/
theorem exec_cellArrival_empty_of {x : State} (hx : (s.receiving p h inWindow).offered p h = x)
    (hnone : x.contexts.get p = none) : exec (.cellArrival p header inWindow) s = .next (x.counted p true) := by
  have hbeacon : h.kind ≠ .beacon := fun hk => by
    have := length_of_beacon hparse hk
    omega
  rw [exec_cellArrival_empty hrel hoff hsent hparse hlength hctx hpass, hx,
    deliverCell_empty_quiet (s := x.counted p true) hnone hbeacon]

/-- The cell has opened a capture, which completes. -/
theorem exec_cellArrival_empty_captured {x : State} (hx : (s.receiving p h inWindow).offered p h = x)
    (hdata : h.kind = .data) :
    exec (.cellArrival p header inWindow) s = .next ((x.counted p true).captureComplete p h [] true) := by
  rw [exec_cellArrival_empty hrel hoff hsent hparse hlength hctx hpass, hx]
  have hkind : (s.receptionOf p h inWindow).header.kind = .data := hdata
  rw [State.deliverCell, hkind]
  rfl

end

/-- Settles O8: the lines of Table 6-2 at the header, and the capture completed at once. -/
theorem zeroLengthCellCompletesAtItsHeader : Obligations.ZeroLengthCellCompletesAtItsHeader := by
  intro p header inWindow s h hrel hoff hsent hparse hlength hctx hpass c counted
  have hcounted : (s.receiving p h inWindow).counted p true = counted := counted_receiving s p h inWindow
  have hfree : s.contexts.set p none = s.contexts := by rw [← hctx, PerPort.set_get]
  have hquiet : ∀ {x : State}, (s.receiving p h inWindow).offered p h = x → x.contexts.get p = none →
      exec (.cellArrival p header inWindow) s = .next (x.counted p true) :=
    exec_cellArrival_empty_of hrel hoff hsent hparse hlength hctx hpass
  refine ⟨fun hnot => ?_, fun hdata hdelivers hslot hround hsound hone => ⟨fun hnone => ?_, fun i e he hhit =>
    ⟨fun hundef => ?_, fun hdef hzero hother => ?_, fun hfrom => ⟨?_, ?_⟩⟩⟩⟩
  · rw [hquiet (offered_of_not_delivered (hnot.imp id ((delivers_receiving s p p h inWindow).trans ·))) hctx, hcounted]
  all_goals
    have hoffered : (s.receiving p h inWindow).offered p h = (s.receiving p h inWindow).captureAtHeader p h :=
      offered_of_delivered ((delivers_receiving s p p h inWindow).trans hdelivers) (.inl hdata)
    have hsound' : (s.receiving p h inWindow).ActiveSound := hsound
  · rw [hquiet (hoffered.trans (captureAtHeader_of_no_hit hsound' hnone)) hctx, hcounted]
  all_goals have hmatched := hoffered.trans (captureAtHeader_of_hit hsound' hone he hhit)
  · rw [hquiet (hmatched.trans (captureMatched_unavailable (targetFigures_eq_none hsound' hundef))) hctx, ← hcounted]
    rfl
  · obtain ⟨f, hf⟩ := targetFigures_isSome hsound' hdef
    rw [hquiet (hmatched.trans (captureMatched_foreign hf hzero hother)) hctx, ← hcounted]
    rfl
  · intro k d htarget hd m
    have hfigures := targetFigures_mailbox hsound' hd
    rw [← htarget] at hfigures
    have haccepted := hmatched.trans (captureMatched_accepted hfigures hfrom)
    rw [if_neg (by simp [hdata])] at haccepted
    refine ⟨fun hopen => ?_, fun hopen => ?_⟩
    · rw [exec_cellArrival_empty_captured hrel hoff hsent hparse hlength hctx hpass
        (haccepted.trans (openCapture_mailbox (s := s.receiving p h inWindow) hopen)) hdata]
      let y := (((s.receiving p h inWindow).withMailbox k { m with openWrite := some p }).withContext p
        (some ⟨i, h.round, .mailbox k d.base d.capacity [], .none⟩)).counted p true
      have hctx' : y.contexts.get p = some ⟨i, h.round, .mailbox k d.base d.capacity [], .none⟩ := PerPort.get_set_self _ _ _
      have hwrite : (y.withContext p none).mailboxes[k] = { m with openWrite := some p } := Vector.getElem_set_self _
      let flipped : MailboxRt :=
        { state := .fresh, half := m.half.other, openWrite := none, length := 0, source := some h.source,
          round := some h.round, age := 0, truncated := false, tag := m.tag + 1 }
      have hclosed : y.captureComplete p h [] true = { y.withContext p none with
          mailboxes := y.mailboxes.set k flipped
          captureOutcomes := s.captureOutcomes.set i (some (.received, h.round)) } := by
        rw [captureComplete_mailbox hctx' rfl (fun hno => SwapMark.noConfusion hno),
          closeCapture_eq (by rw [hwrite]), placeWords_nil, hwrite, hlength, Nat.zero_min]
        rfl
      refine congrArg _ (hclosed.trans ?_)
      rw [← hcounted]
      simp only [y, flipped, State.withContext, State.withMailbox, State.counted, PerPort.set_set, Vector.set_set]
      rw [show (s.receiving p h inWindow).contexts.set p none = (s.receiving p h inWindow).contexts from hfree]
      rfl
    · rw [hquiet (haccepted.trans (openCapture_refused (s := s.receiving p h inWindow) hopen)) hctx, ← hcounted]
      rfl
  · intro k d htarget hd q x overrun
    have hfigures := targetFigures_queue hsound' hd
    rw [← htarget] at hfigures
    have haccepted := hmatched.trans (captureMatched_accepted hfigures hfrom)
    rw [if_neg (by simp [hdata])] at haccepted
    rw [exec_cellArrival_empty_captured hrel hoff hsent hparse hlength hctx hpass haccepted hdata]
    let context : CaptureContext := ⟨i, h.round, .queue k d.base d.capacity d.depth d.fullPolicy, .none⟩
    let y := ((s.receiving p h inWindow).withContext p (some context)).counted p true
    have hctx' : y.contexts.get p = some context := PerPort.get_set_self _ _ _
    have hy : y.withContext p none = counted := by
      rw [← hcounted]
      simp only [y, State.withContext, State.counted, State.receiving, PerPort.set_set, hfree]
    have hclosed : y.captureComplete p h [] true =
        counted.appendCapture context h k d.base d.capacity d.depth d.fullPolicy [] true := by
      rw [captureComplete_queue hctx' rfl (fun hno => SwapMark.noConfusion hno), hy]
    have hentry : heldEntry context h d.capacity = x := by
      simp [heldEntry, x, hlength, context]
    refine ⟨fun hroom => congrArg _ (hclosed.trans ?_), fun hfull hkeep => congrArg _ (hclosed.trans ?_),
      fun hfull hidle hpolicy => congrArg _ (hclosed.trans ?_)⟩
    · rw [appendCapture_of_room (s := counted) hroom, hentry, hlength, if_neg (Nat.not_lt_zero _), putEntry_nil]
      rfl
    · rw [appendCapture_dropped (s := counted) hfull hkeep]
      rfl
    · rw [appendCapture_replaced (s := counted) hfull hidle hpolicy, hentry, hlength, if_neg (Nat.not_lt_zero _),
        putEntry_nil, withQueue_removeHead]
      rfl

end Sys2Proof.Machine
end

section
/-! REQUEST cells addressed to the bridge (R134). -/

set_option Elab.async false

namespace Sys2Proof.Machine

/-- The codes of the requests are 1 to 28 (Table 12-2). -/
theorem reqCode_bounds (q : Req) : 1 ≤ q.code.toNat ∧ q.code.toNat ≤ 28 := by
  cases q <;> decide

theorem reqOfCode_eq_none {c : BitVec 8} (h : c = 0 ∨ 28 < c.toNat) : reqOfCode c = none := by
  cases hq : reqOfCode c with
  | none => rfl
  | some q =>
    have hcode := (reqOfCode_eq_some q c).1 hq
    have hbounds := reqCode_bounds q
    rw [← hcode] at hbounds
    rcases h with h | h
    · rw [h] at hbounds
      exact absurd hbounds.1 (by decide)
    · omega

/-- A code that no request has is answered UNKNOWN. -/
theorem serve_unknown {s : State} {r : Request} {i : Fin 8} (h : s.Executes r i) (code : BitVec 8) :
    s.serve none code r = (s.begun r i).replied r i code .unknown [] none := by
  rw [serve_executes h]
  change (((s.begun r i).updateParty i fun q => { q with
      cached := some { status := .unknown, seq := r.seq, code, results := [] } }).enqueue r.port _) = _
  have hroom : ((s.begun r i).updateParty i fun q => { q with
      cached := some { status := .unknown, seq := r.seq, code, results := [] } }).hasRoom r.port = true := by
    have hlt : (s.responses.get r.port).length < 8 := h.2.2.2
    rw [hasRoom_iff, updateParty_responses, begun_responses]
    exact hlt
  rw [State.enqueue, if_pos hroom]
  rfl

/-- Settles O13: the cell is counted, then its request is served. -/
theorem requestCellIsTakenAsItsRequest : Obligations.RequestCellIsTakenAsItsRequest := by
  intro p w operands check s r hrel hoff hrx hkind hlength hvalid hdeliverable hdelivers hdest c counted code spelt
  have hserved : exec (.payloadComplete p (w :: operands) check) s = .next (counted.serve (reqOfCode code) code spelt) := by
    rw [exec_payloadComplete_of_reception hrel hoff hrx (by omega) (by rw [hlength, List.length_cons]), hvalid,
      State.deliverCell, hkind]
    have hcounted : s.counted p true = counted := rfl
    have hdelivers' : counted.delivers p = true := by
      rw [← hdelivers]
      cases p <;> rfl
    have haddress : r.header.dest = counted.address p := by
      rw [hdest]
      cases p <;> rfl
    have hrequest : requestIn p r.header.source (w :: operands) = some (code, spelt) := by
      simp only [requestIn, code, spelt, extract_eq_ofNat_field]
    simp only [if_true, hcounted, State.takeRequestCell, hdeliverable, hdelivers', haddress, hrequest, decide_true,
      Bool.and_self]
  have hruns : counted.Takes spelt := by
    refine ⟨hrel, ?_⟩
    cases p with
    | u => exact hdelivers
    | l =>
      change decide (s.lTime.state ≠ .off) = true
      have hstate : decide (s.lTime.state = .off) = false := hoff
      simpa using hstate
  refine ⟨fun q hq => ?_, fun hcode i hex => ?_⟩
  · rw [hserved, exec_command q spelt hruns, (reqOfCode_eq_some q code).2 hq.symm, hq]
  · rw [hserved, reqOfCode_eq_none hcode, serve_unknown hex]

end Sys2Proof.Machine
end

section
/-! The uplink timing: beacons, rounds before lock, rounds delivered in LOCKED (R23 to R31). -/

set_option Elab.async false

namespace Sys2Proof.Machine

/-! ## Beacons -/

theorem beaconCounts_iff {s : State} {a : Station} :
    s.beaconCounts a = true ↔ s.uInUse.timingStations = [] ∨ a ∈ s.uInUse.timingStations := by
  simp [State.beaconCounts]

theorem announcedCount_singleton (w : Word) : announcedCount [w] = (w.extractLsb' 0 16).toNat := by
  simp [announcedCount, field, extract_eq_ofNat_field]

theorem beaconAdoptable_iff {s : State} {r : Reception} {w : Word} : s.beaconAdoptable r [w] = true ↔
    (w.extractLsb' 0 16).toNat = s.uInUse.slotCount ∧ r.header.slot ≤ s.uInUse.slotCount := by
  simp only [State.beaconAdoptable, Bool.and_eq_true, decide_eq_true_eq, announcedCount_singleton]

theorem beaconConsistent_iff {s : State} {r : Reception} {w : Word} : s.beaconConsistent r [w] = true ↔
    r.slotAt = some r.header.slot ∧ r.roundAt = some r.header.round ∧ r.inWindow = true ∧
      (w.extractLsb' 0 16).toNat = s.uInUse.slotCount := by
  simp only [State.beaconConsistent, Bool.and_eq_true, decide_eq_true_eq, announcedCount_singleton, and_assoc]

theorem exec_payloadComplete_beacon {w : Word} {check : BitVec 16} {s : State} {r : Reception} (hrel : s.resetnLow = false)
    (hoff : s.uTime.state ≠ .off) (hrx : s.rx.u = some r) (hkind : r.header.kind = .beacon) (hlength : r.header.length = 1)
    (hvalid : payloadValid r.header [w] check = true) :
    exec (.payloadComplete .u [w] check) s = .next ((s.counted .u true).uplinkBeacon r [w]) := by
  rw [exec_payloadComplete_of_reception (p := .u) hrel (decide_eq_false hoff) hrx (by omega) (by rw [hlength]; rfl), hvalid,
    State.deliverCell, hkind]
  rfl

section
variable {s : State} {r : Reception} {w : Word}

theorem uplinkBeacon_unlisted (h : ¬(s.uInUse.timingStations = [] ∨ r.header.source ∈ s.uInUse.timingStations)) :
    s.uplinkBeacon r [w] = s := if_neg (mt beaconCounts_iff.1 h)

theorem uplinkBeacon_classified (h : s.uInUse.timingStations = [] ∨ r.header.source ∈ s.uInUse.timingStations)
    (hseek : s.uTime.state ≠ .seek) :
    s.uplinkBeacon r [w] = s.classified (s.beaconConsistent r [w]) r.header.source :=
  (if_pos (beaconCounts_iff.2 h)).trans (if_neg hseek)

end

theorem classified_align {s : State} (h : s.uTime.state = .align) (consistent : Bool) (a : Station) :
    s.classified consistent a =
      if consistent then s.withUTime { s.uTime with consistentSeen := true } else s.seekAgain := by
  simp only [State.classified, h]

theorem classified_confirm {s : State} (h : s.uTime.state = .confirm) (consistent : Bool) (a : Station) :
    s.classified consistent a = if consistent then
        s.withUTime { s.uTime with confirmSet := joinConfirmSet s.uTime.confirmSet a } else s.seekAgain := by
  simp only [State.classified, h]

theorem classified_locked {s : State} (h : s.uTime.state = .locked) (consistent : Bool) (a : Station) :
    s.classified consistent a = if consistent then
        s.withUTime { s.uTime with consistentTally := satInc s.uTime.consistentTally }
      else s.withUTime { s.uTime with discordantTally := satInc s.uTime.discordantTally } := by
  simp only [State.classified, h]

/-- A classified beacon touches the timing record and the slot marks of U alone. -/
theorem classified_frame (s : State) (consistent : Bool) (a : Station) :
    ∃ u f, s.classified consistent a = { s with uTime := u, slotFlags := f } := by
  unfold State.classified
  split
  · split <;> exact ⟨_, _, rfl⟩
  · split <;> exact ⟨_, _, rfl⟩
  · split <;> exact ⟨_, _, rfl⟩
  · exact ⟨_, _, rfl⟩
  · exact ⟨_, _, rfl⟩

theorem uplinkBeacon_frame {s : State} (r : Reception) (w : Word) (hseek : s.uTime.state ≠ .seek) :
    ∃ u f, s.uplinkBeacon r [w] = { s with uTime := u, slotFlags := f } := by
  by_cases h : s.uInUse.timingStations = [] ∨ r.header.source ∈ s.uInUse.timingStations
  · rw [uplinkBeacon_classified h hseek]
    exact classified_frame s _ _
  · exact ⟨_, _, uplinkBeacon_unlisted h⟩

theorem joinConfirmSet_of_kept {set : List Station} {a : Station} (h : a ∈ set ∨ 4 ≤ set.length) :
    joinConfirmSet set a = set := if_pos (by simpa using h)

theorem joinConfirmSet_of_new {set : List Station} {a : Station} (hnew : a ∉ set) (hroom : set.length < 4) :
    joinConfirmSet set a = set ++ [a] := if_neg (by simp [hnew, hroom])

/-- Settles O14: adoption in SEEK, and each class of beacon in each later state. -/
theorem beaconsAreAdoptedOrClassified : Obligations.BeaconsAreAdoptedOrClassified := by
  intro w check s r hrel hrx hkind hlength hvalid g u listed fits consistent counted
  have hexec : s.uTime.state ≠ .off → exec (.payloadComplete .u [w] check) s = .next (counted.uplinkBeacon r [w]) :=
    fun hoff => exec_payloadComplete_beacon hrel hoff hrx hkind hlength hvalid
  refine ⟨fun hseek => ⟨fun ⟨hlisted, hfits⟩ => ?_, fun hnot => ?_⟩, fun hstate => ?_⟩
  · have hcounts : counted.beaconCounts r.header.source = true := beaconCounts_iff.2 hlisted
    have hseek' : counted.uTime.state = .seek := hseek
    have hadopt : counted.beaconAdoptable r [w] = true := beaconAdoptable_iff.2 hfits
    rw [hexec (by rw [show s.uTime.state = .seek from hseek]; decide), State.uplinkBeacon, if_pos hcounts, if_pos hseek',
      if_pos hadopt]
    rfl
  · rw [hexec (by rw [show s.uTime.state = .seek from hseek]; decide)]
    by_cases hlisted : listed
    · have hcounts : counted.beaconCounts r.header.source = true := beaconCounts_iff.2 hlisted
      have hseek' : counted.uTime.state = .seek := hseek
      have hadopt : ¬counted.beaconAdoptable r [w] = true := fun ha => hnot ⟨hlisted, beaconAdoptable_iff.1 ha⟩
      rw [State.uplinkBeacon, if_pos hcounts, if_pos hseek', if_neg hadopt]
    · rw [uplinkBeacon_unlisted (s := counted) hlisted]
  · have hoff : s.uTime.state ≠ .off := by rcases hstate with h | h | h <;> rw [show s.uTime.state = _ from h] <;> decide
    have hseek : counted.uTime.state ≠ .seek := by
      rcases hstate with h | h | h <;> rw [show counted.uTime.state = _ from h] <;> decide
    obtain ⟨x, f, hframe⟩ := uplinkBeacon_frame (s := counted) r w hseek
    have hclassified : listed → ∀ {b}, counted.beaconConsistent r [w] = b →
        counted.uplinkBeacon r [w] = counted.classified b r.header.source := fun hlisted b hb =>
      hb ▸ uplinkBeacon_classified (s := counted) hlisted hseek
    have hyes : consistent → counted.beaconConsistent r [w] = true := beaconConsistent_iff.2
    have hno : ¬consistent → counted.beaconConsistent r [w] = false := fun hc =>
      Bool.eq_false_iff.2 (mt beaconConsistent_iff.1 hc)
    refine ⟨_, hexec hoff, by rw [hframe], by rw [hframe], by rw [hframe], by rw [hframe], by rw [hframe], by rw [hframe],
      fun hlisted => ?_, fun hlisted hc halign => ?_, fun hlisted hc hconfirm => ⟨fun hkept => ?_, fun hnew hroom => ?_⟩,
      fun hlisted hc hlocked => ?_, fun hlisted hc hlocked => ?_, fun hlisted hc hearly => ?_⟩
    · rw [uplinkBeacon_unlisted (s := counted) hlisted]
    · rw [hclassified hlisted (hyes hc), classified_align (s := counted) halign]
      rfl
    · rw [hclassified hlisted (hyes hc), classified_confirm (s := counted) hconfirm]
      change { u with confirmSet := joinConfirmSet u.confirmSet r.header.source } = u
      rw [joinConfirmSet_of_kept hkept]
    · rw [hclassified hlisted (hyes hc), classified_confirm (s := counted) hconfirm]
      change { u with confirmSet := joinConfirmSet u.confirmSet r.header.source } = _
      rw [joinConfirmSet_of_new hnew hroom]
    · rw [hclassified hlisted (hyes hc), classified_locked (s := counted) hlocked]
      rfl
    · rw [hclassified hlisted (hno hc), classified_locked (s := counted) hlocked]
      rfl
    · have hagain : counted.classified false r.header.source = counted.seekAgain := by
        rcases hearly with h | h
        · exact classified_align (s := counted) h false _
        · exact classified_confirm (s := counted) h false _
      rw [hclassified hlisted (hno hc), hagain]
      exact ⟨rfl, rfl, rfl, rfl, rfl, rfl⟩

/-! ## U round starts before lock -/

/-- The last slot of the U round has ended in a state in which the timer runs rounds. -/
theorem exec_uRoundStart {s : State} (hrel : s.resetnLow = false) (hslot : s.uTime.slot = none)
    (hlast : s.uInUse.slotCount ≤ s.uTime.lastSlot)
    (hstate : s.uTime.state = .align ∨ s.uTime.state = .confirm ∨ s.uTime.state = .locked) :
    exec .uRoundStart s = .next s.uRound := by
  have hmay : s.uRoundMayStart = true := by
    have hplace : s.placementApplies .u = true := by rcases hstate with h | h | h <;> simp [State.placementApplies, h]
    simp only [State.uRoundMayStart, hplace, hslot, Bool.and_eq_true, decide_eq_true_eq, true_and]
    exact hlast
  refine congrArg _ ((live_of_released hrel _).trans ?_)
  exact if_pos hmay

theorem nextURound_of {s : State} {n : Round} (h : s.uTime.round = some n) : s.nextURound = n + 1 := by
  rw [State.nextURound, h]
  rfl

/-- Settles O15: the branches of ALIGN, and CONFIRM without the quorum. -/
theorem uRoundStartBeforeLock : Obligations.URoundStartBeforeLock := by
  intro s hrel hslot hlast n hround u sought hstate
  have hexec := exec_uRoundStart hrel hslot hlast (by
    rcases hstate with h | ⟨h, -⟩
    · exact .inl h
    · exact .inr (.inl h))
  have hsought : sought s.seekAgain := ⟨rfl, rfl, rfl, rfl⟩
  rcases hstate with halign | ⟨hconfirm, hfew⟩
  · have hround' : s.uRound = s.alignRound := by rw [State.uRound, show s.uTime.state = .align from halign]
    have hnot : u.state ≠ .confirm := by rw [halign]; decide
    rw [hround'] at hexec
    cases hseen : u.consistentSeen with
    | true =>
      have hnext : s.alignRound = (s.withUTime { s.uTime with
          confirmSet := [], adoptionRound := false, consistentSeen := false }).beginURound .confirm := if_pos hseen
      rw [hnext] at hexec
      refine ⟨_, hexec, rfl, fun _ _ => ⟨rfl, rfl, ?_, rfl, rfl⟩, fun _ hno => Bool.noConfusion hno,
        fun _ hno => Bool.noConfusion hno, fun hc => absurd hc hnot⟩
      exact congrArg some (nextURound_of (s := s.withUTime _) hround)
    | false =>
      cases hadoption : u.adoptionRound with
      | true =>
        have hnext : s.alignRound = (s.withUTime { s.uTime with adoptionRound := false }).beginURound .align :=
          (if_neg (by rw [show s.uTime.consistentSeen = false from hseen]; decide)).trans (if_pos hadoption)
        rw [hnext] at hexec
        refine ⟨_, hexec, rfl, fun _ hno => Bool.noConfusion hno, fun _ _ _ => ⟨rfl, ?_⟩,
          fun _ _ hno => Bool.noConfusion hno, fun hc => absurd hc hnot⟩
        have hn : (s.withUTime { s.uTime with adoptionRound := false }).nextURound = n + 1 :=
          nextURound_of (s := s.withUTime _) hround
        simp only [State.beginURound, hn]
        simp only [State.withUTime, halign, show s.uTime.consistentSeen = false from hseen]
        rfl
      | false =>
        have hnext : s.alignRound = s.seekAgain :=
          (if_neg (by rw [show s.uTime.consistentSeen = false from hseen]; decide)).trans
            (if_neg (by rw [show s.uTime.adoptionRound = false from hadoption]; decide))
        rw [hnext] at hexec
        exact ⟨_, hexec, rfl, fun _ hno => Bool.noConfusion hno, fun _ _ hno => Bool.noConfusion hno,
          fun _ _ _ => hsought, fun hc => absurd hc hnot⟩
  · have hnext : s.uRound = s.seekAgain := by
      rw [State.uRound, show s.uTime.state = .confirm from hconfirm]
      exact if_neg (Nat.not_le.2 hfew)
    have hnot : u.state ≠ .align := by rw [hconfirm]; decide
    rw [hnext] at hexec
    exact ⟨_, hexec, rfl, fun ha => absurd ha hnot, fun ha => absurd ha hnot, fun ha => absurd ha hnot, fun _ => hsought⟩

/-! ## U rounds delivered in LOCKED -/

theorem tieConditions_iff {s : State} : s.tieConditions = true ↔ s.lInUse.tieEnabled = true ∧
    s.lInUse.tieOffset < s.uInUse.slotCount * s.uInUse.slotLength ∧
    s.lInUse.slotCount * s.lInUse.slotLength ≤ s.uInUse.slotCount * s.uInUse.slotLength := by
  simp only [State.tieConditions, Bool.and_eq_true, and_assoc, decide_eq_true_eq]
  rfl

/-- The local timing takes the round start: it is TYING or TIED, or becomes TYING. -/
theorem deliverURound_of_tying {s : State} (n : Round) (h : s.lTime.state = .tying ∨ s.lTime.state = .tied ∨
    s.lTime.state = .untied ∧ s.tieConditions = true) : s.deliverURound n = s.withLTime { s.lTime with
      state := if s.lTime.state = .tied then .tied else .tying
      pending := some { round := n, offset := s.lInUse.tieOffset, held := false } } := by
  rcases h with h | h | ⟨h, hc⟩
  · simp [State.deliverURound, State.tyingOrTied, h]
  · simp [State.deliverURound, State.tyingOrTied, h]
  · simp [State.deliverURound, State.tyingOrTied, h, hc, State.withLTime]

theorem deliverURound_of_not_tying {s : State} (n : Round) (h : ¬(s.lTime.state = .tying ∨ s.lTime.state = .tied ∨
    s.lTime.state = .untied ∧ s.tieConditions = true)) : s.deliverURound n = s := by
  simp only [not_or] at h
  obtain ⟨htying, htied, huntied⟩ := h
  have hsame : ¬(s.lTime.state = .untied && s.tieConditions) = true := by simpa using huntied
  simp only [State.deliverURound, if_neg hsame]
  exact if_neg (by simp [State.tyingOrTied, htying, htied])

theorem deliverURound_frame (s : State) (n : Round) : ∃ l, s.deliverURound n = { s with lTime := l } := by
  by_cases h : s.lTime.state = .tying ∨ s.lTime.state = .tied ∨ s.lTime.state = .untied ∧ s.tieConditions = true
  · exact ⟨_, deliverURound_of_tying n h⟩
  · exact ⟨_, deliverURound_of_not_tying n h⟩

theorem missed_iff {u : UplinkRecord} : u.missed = true ↔ u.consistentTally = 0 ∨ u.consistentTally < u.discordantTally := by
  simp [UplinkRecord.missed]

theorem wouldLapse_iff {s : State} : s.wouldLapse = true ↔
    s.uTime.state = .locked ∧ s.uInUse.lapseLimit ≤ s.uTime.judgedMisses := by
  simp [State.wouldLapse, State.locked]

theorem wouldLapse_of_missed {s : State} (hlocked : s.uTime.state = .locked)
    (hmissed : s.uTime.consistentTally = 0 ∨ s.uTime.consistentTally < s.uTime.discordantTally)
    (hlimit : s.uInUse.lapseLimit ≤ s.uTime.missCount + 1) : s.wouldLapse = true := by
  rw [wouldLapse_iff, UplinkRecord.judgedMisses, if_pos (missed_iff.2 hmissed)]
  exact ⟨hlocked, hlimit⟩

/-- The round start in CONFIRM with the quorum (R28). -/
theorem uRound_of_quorum {s : State} {n : Round} (hround : s.uTime.round = some n) (hconfirm : s.uTime.state = .confirm)
    (hquorum : s.uInUse.confirmQuorum ≤ s.uTime.confirmSet.length) : s.uRound = ({ s with
      uTime := { s.uTime with state := .locked, round := some (n + 1), slot := none, lastSlot := 0, confirmSet := [],
                              consistentTally := 0, discordantTally := 0, missCount := 0 }
      notices := s.notices.raise .lockGained .none s.raiseRound } : State).deliverURound (n + 1) := by
  have hn : (s.withUTime { s.uTime with
      missCount := 0, consistentTally := 0, discordantTally := 0, confirmSet := [] }).nextURound = n + 1 :=
    nextURound_of (s := s.withUTime _) hround
  rw [State.uRound, hconfirm]
  refine (if_pos hquorum).trans ?_
  rw [State.beginURound, hn, nextURound_of hround]
  rfl

/-- The round start in LOCKED below the lapse limit (R29). -/
theorem uRound_of_kept {s : State} {n : Round} (hround : s.uTime.round = some n) (hlocked : s.uTime.state = .locked)
    (hkept : s.wouldLapse = false) : s.uRound = ({ s with
      uTime := { s.uTime with state := .locked, round := some (n + 1), slot := none, lastSlot := 0,
                              consistentTally := 0, discordantTally := 0, missCount := s.uTime.judgedMisses }
      } : State).deliverURound (n + 1) := by
  have hn : s.judged.nextURound = n + 1 := nextURound_of (s := s.judged) hround
  rw [State.uRound, hlocked]
  refine (if_neg (by rw [hkept]; decide)).trans ?_
  rw [State.beginURound, hn, nextURound_of hround]
  rfl

/-- The two ways in which port U goes on LOCKED: the timing record and the notices, before the delivery. -/
theorem uRound_locked {s : State} {n : Round} (hround : s.uTime.round = some n)
    (hcase : s.uTime.state = .confirm ∧ s.uInUse.confirmQuorum ≤ s.uTime.confirmSet.length ∨
      s.uTime.state = .locked ∧ s.wouldLapse = false) : ∃ x y,
    s.uRound = ({ s with uTime := x, notices := y } : State).deliverURound (n + 1) ∧
    x.state = .locked ∧ x.round = some (n + 1) ∧ x.slot = none ∧ x.consistentTally = 0 ∧ x.discordantTally = 0 ∧
    (s.uTime.state = .confirm → x.missCount = 0 ∧ y = s.notices.raise .lockGained .none s.raiseRound) ∧
    (s.uTime.state = .locked → y = s.notices ∧ x.missCount = s.uTime.judgedMisses) := by
  rcases hcase with ⟨hconfirm, hquorum⟩ | ⟨hlocked, hkept⟩
  · exact ⟨_, _, uRound_of_quorum hround hconfirm hquorum, rfl, rfl, rfl, rfl, rfl, fun _ => ⟨rfl, rfl⟩,
      fun hl => absurd (hconfirm.symm.trans hl) (by decide)⟩
  · exact ⟨_, _, uRound_of_kept hround hlocked hkept, rfl, rfl, rfl, rfl, rfl,
      fun hc => absurd (hlocked.symm.trans hc) (by decide), fun _ => ⟨rfl, rfl⟩⟩

/-- Settles O16: the judgement of the round, then its delivery. -/
theorem lockedURoundIsDelivered : Obligations.LockedURoundIsDelivered := by
  intro s hrel hslot hlast n hround u missed tying hcase
  have hmisses : s.uTime.judgedMisses = if s.uTime.missed then u.missCount + 1 else 0 := rfl
  obtain ⟨x, y, huRound, hlocked, hnext, hnone, hgood, hbad, hconfirmed, hkept⟩ :=
    uRound_locked hround (hcase.imp id fun ⟨hlocked, hlimit, hmissed⟩ => ⟨hlocked, by
      rw [Bool.eq_false_iff, ne_eq, wouldLapse_iff, hmisses]
      rintro ⟨-, hle⟩
      split at hle
      · have := hmissed (missed_iff.1 ‹_›)
        omega
      · omega⟩)
  have hexec := exec_uRoundStart hrel hslot hlast (by
    rcases hcase with ⟨h, -⟩ | ⟨h, -⟩
    · exact .inr (.inl h)
    · exact .inr (.inr h))
  let z : State := { s with uTime := x, notices := y }
  have htying : tying ↔ z.lTime.state = .tying ∨ z.lTime.state = .tied ∨ z.lTime.state = .untied ∧ z.tieConditions = true := by
    rw [tieConditions_iff]
  have hjudged : u.state = .locked → y = s.notices ∧ (missed → x.missCount = u.missCount + 1) ∧
      (¬missed → x.missCount = 0) := by
    intro hl
    obtain ⟨hy, hx⟩ := hkept hl
    rw [hx, hmisses]
    exact ⟨hy, fun hm => if_pos (missed_iff.2 hm), fun hm => if_neg (mt missed_iff.1 hm)⟩
  by_cases hl : tying
  · rw [huRound, deliverURound_of_tying (s := z) _ (htying.1 hl)] at hexec
    exact ⟨_, hexec, hlocked, hnext, hnone, hgood, hbad, rfl, rfl, rfl, hconfirmed, hjudged,
      fun _ => ⟨rfl, rfl, rfl, rfl, rfl⟩, fun hn => absurd hl hn⟩
  · rw [huRound, deliverURound_of_not_tying (s := z) _ (mt htying.2 hl)] at hexec
    exact ⟨_, hexec, hlocked, hnext, hnone, hgood, hbad, rfl, rfl, rfl, hconfirmed, hjudged, fun hy => absurd hy hl,
      fun _ => rfl⟩

end Sys2Proof.Machine
end

section
/-! Slot starts and slot ends (R2, R11, R13, R14, R43, R101, R123). -/

set_option Elab.async false

namespace Sys2Proof.Machine

/-! ## Slot starts -/

theorem exec_slotStart {s : State} {p : Port} (hrel : s.resetnLow = false) (hmay : s.slotMayStart p = true) {n : Round}
    (hround : s.currentRound p = some n) : exec (.slotStart p) s =
      .next ((s.enterSlot p (s.lastSlot p + 1)).serveSlot p (s.lastSlot p + 1) n) := by
  refine congrArg _ ((live_of_released hrel _).trans ?_)
  rw [if_pos hmay, State.slotStarts, hround]
  rfl

/-- A slot of P may start: the port runs a round, no slot is current, and one is left. -/
theorem slotMayStart_of {s : State} {p : Port} (hruns : match p with
      | .u => s.placementApplies .u = true
      | .l => s.lTime.running = true ∧ s.lTime.state ≠ .off)
    (hslot : s.currentSlot p = none) (hlast : s.lastSlot p < s.slotCount p) : s.slotMayStart p = true := by
  cases p with
  | u => simp [State.slotMayStart, hruns, hslot, hlast]
  | l => simp [State.slotMayStart, hruns, hslot, hlast]

/-- Port P serves slot `k` from its response queue or by its plan: it is port U in LOCKED, or port L outside its beacon
slot. -/
def State.Serves (s : State) (p : Port) (k : Nat) : Prop :=
  p = .u ∧ s.uTime.state = .locked ∨ p = .l ∧ s.lTime.running = true ∧ s.lTime.state ≠ .off ∧ k ≠ s.lInUse.beaconSlot

theorem slotMayStart_of_serves {s : State} {p : Port} {k : Nat} (h : s.Serves p k) (hslot : s.currentSlot p = none)
    (hlast : s.lastSlot p < s.slotCount p) : s.slotMayStart p = true := by
  rcases h with ⟨rfl, hlocked⟩ | ⟨rfl, hrunning, hstate, -⟩
  · exact slotMayStart_of (p := .u) (by simp [State.placementApplies, hlocked]) hslot hlast
  · exact slotMayStart_of (p := .l) ⟨hrunning, hstate⟩ hslot hlast

/-- The lines of R13 below the beacon slot and the silence of U out of lock. -/
theorem serveSlot_of_serves {s : State} {p : Port} {k : Nat} (h : s.Serves p k) (n : Round) : s.serveSlot p k n =
    if k = s.responseSlot p then s.serveResponseSlot p k n
    else if s.forwarding = .forwarding then s.serveDataSlot p k n else s := by
  unfold State.serveSlot
  rcases h with ⟨rfl, hlocked⟩ | ⟨rfl, -, -, hbeacon⟩
  · rw [if_neg (by simp), if_neg (by simp [State.locked, hlocked])]
  · rw [if_neg (by simp [hbeacon]), if_neg (by simp)]

theorem serves_enterSlot {s : State} {p : Port} {k : Nat} (h : s.Serves p k) (j : Nat) : (s.enterSlot p j).Serves p k := by
  rcases h with ⟨rfl, hlocked⟩ | ⟨rfl, hrunning, hstate, hbeacon⟩
  · exact .inl ⟨rfl, hlocked⟩
  · exact .inr ⟨rfl, hrunning, hstate, hbeacon⟩

/-- A slot start that is served from the response queue or by the plan. -/
theorem exec_slotStart_of_serves {s : State} {p : Port} (hrel : s.resetnLow = false) {n : Round}
    (hround : s.currentRound p = some n) (hslot : s.currentSlot p = none) (hlast : s.lastSlot p < s.slotCount p) {k : Nat}
    (hk : s.lastSlot p + 1 = k) (hserves : s.Serves p k) : exec (.slotStart p) s = .next
      (if k = s.responseSlot p then (s.enterSlot p k).serveResponseSlot p k n
       else if s.forwarding = .forwarding then (s.enterSlot p k).serveDataSlot p k n else s.enterSlot p k) := by
  rw [exec_slotStart hrel (slotMayStart_of_serves hserves hslot hlast) hround, hk,
    serveSlot_of_serves (serves_enterSlot hserves k)]
  cases p <;> rfl

/-! ## O28 -/

theorem beaconWord_fields (tied : Bool) {count : Nat} (h : count ≤ 1023) : (beaconWord tied count).getLsbD 31 = tied ∧
    bitsAt (beaconWord tied count) 30 16 = 0 ∧ bitsAt (beaconWord tied count) 15 0 = count := by
  have ht := tied.toNat_lt
  have hlt : putBit tied 31 + put count 15 0 < 2 ^ 32 := by
    simp only [put, putBit]
    omega
  simp only [beaconWord, getLsbD_eq_iff_bitsAt, bitsAt_toWord hlt]
  simp only [field, put, putBit]
  omega

/-- In a sound plan no emit entry matches: the data slot is silent. -/
theorem serveDataSlot_of_no_hit {s : State} (hsound : s.ActiveSound) {p : Port} {k : Nat} {n : Round}
    (hnone : ∀ (i : Fin 128) (e : EmitEntry), s.active.emits[i].fields = some e → e.hits p k n = false) :
    s.serveDataSlot p k n = s := by
  have hfind : s.active.findEmit p k n = none :=
    findEmit_eq_none.2 fun i e he => hnone i e (congrArg Stored.fields he)
  simp only [State.serveDataSlot, hfind, readEmits_of_sound hsound]

/-- A data slot in HALTED, or one that no entry of a sound plan matches: the slot becomes current, and no more. -/
theorem exec_slotStart_quiet {s : State} {p : Port} (hrel : s.resetnLow = false) {n : Round}
    (hround : s.currentRound p = some n) (hslot : s.currentSlot p = none) (hlast : s.lastSlot p < s.slotCount p) {k : Nat}
    (hk : s.lastSlot p + 1 = k) (hserves : s.Serves p k) (hresponse : k ≠ s.responseSlot p)
    (hquiet : s.forwarding = .halted ∨ s.ActiveSound ∧
      ∀ (i : Fin 128) (e : EmitEntry), s.active.emits[i].fields = some e → e.hits p k n = false) :
    exec (.slotStart p) s = .next (s.enterSlot p k) := by
  rw [exec_slotStart_of_serves hrel hround hslot hlast hk hserves, if_neg hresponse]
  refine congrArg _ ?_
  rcases hquiet with hhalted | ⟨hsound, hnone⟩
  · exact if_neg (by rw [hhalted]; decide)
  · split
    · have hactive : (s.enterSlot p k).active = s.active := by cases p <;> rfl
      exact serveDataSlot_of_no_hit (by rw [State.ActiveSound, hactive]; exact hsound) (by rw [hactive]; exact hnone)
    · rfl

/-- On U out of lock nothing is sent: the slot becomes current, and no more. -/
theorem exec_slotStart_out_of_lock {s : State} {n : Round} (hrel : s.resetnLow = false) (hround : s.currentRound .u = some n)
    (hslot : s.currentSlot .u = none) (hlast : s.lastSlot .u < s.slotCount .u)
    (hstate : s.uTime.state = .align ∨ s.uTime.state = .confirm) :
    exec (.slotStart .u) s = .next (s.enterSlot .u (s.lastSlot .u + 1)) := by
  have hplace : s.placementApplies .u = true := by rcases hstate with h | h <;> simp [State.placementApplies, h]
  have hnot : (s.enterSlot .u (s.lastSlot .u + 1)).locked = false := by
    rw [show (s.enterSlot .u (s.lastSlot .u + 1)).locked = s.locked from rfl, State.locked]
    rcases hstate with h | h <;> rw [h] <;> rfl
  rw [exec_slotStart (p := .u) hrel (slotMayStart_of (p := .u) hplace hslot hlast) hround]
  exact congrArg _ ((if_neg (by simp)).trans (if_pos (by rw [hnot]; rfl)))

/-- Settles O28: the beacon slot, then U out of lock and the silent data slots. -/
theorem beaconSlotsSendAndQuietSlotsListen : Obligations.BeaconSlotsSendAndQuietSlotsListen := by
  refine ⟨fun s n hrel hrunning hstate hslot hround hbeacon hle hcount => ?_, ?_, ?_⟩
  · obtain ⟨htied, hhigh, hlow⟩ := beaconWord_fields (decide (s.lTime.state = .tied)) hcount
    refine ⟨_, htied, hhigh, hlow, ?_⟩
    rw [exec_slotStart (p := .l) hrel (slotMayStart_of (p := .l) ⟨hrunning, hstate⟩ hslot
      (Nat.lt_of_lt_of_le (Nat.lt_of_succ_le hbeacon.le) hle)) hround]
    have hk : s.lastSlot .l + 1 = s.lInUse.beaconSlot := hbeacon
    rw [hk, State.serveSlot, if_pos (by rw [Bool.and_eq_true]; exact ⟨rfl, decide_eq_true rfl⟩)]
    rfl
  · intro s n hrel hround hslot hlast k hcase
    rcases hcase with halign | hconfirm | ⟨hlocked, hresponse, hquiet⟩
    · exact exec_slotStart_out_of_lock hrel hround hslot hlast (.inl halign)
    · exact exec_slotStart_out_of_lock hrel hround hslot hlast (.inr hconfirm)
    · exact exec_slotStart_quiet (p := .u) hrel hround hslot hlast rfl (.inl ⟨rfl, hlocked⟩) hresponse hquiet
  · intro s n hrel hround hslot hrunning hstate hlast k hbeacon hresponse hquiet
    exact exec_slotStart_quiet (p := .l) hrel hround hslot hlast rfl (.inr ⟨rfl, hrunning, hstate, hbeacon⟩) hresponse hquiet

/-! ## O29 -/

/-- The transmit buffer of the slot just entered is loaded. -/
theorem load_entered {s t : State} {p : Port} (h : t.slotFlags = s.slotFlags.set p .clear) (c : Cell) :
    t.load p c = { t with
      tx := t.tx.set p (some c), slotFlags := s.slotFlags.set p { accepted := false, sent := true } } := by
  simp only [State.load, State.withFlags, State.withTx, h, PerPort.get_set_self, PerPort.set_set]
  rfl

theorem enterSlot_slotFlags (s : State) (p : Port) (k : Nat) : (s.enterSlot p k).slotFlags = s.slotFlags.set p .clear := by
  cases p <;> rfl

theorem statusCode_lt (x : Status) : x.code < 2 ^ 8 := by
  cases x <;> decide

theorem responseWord_fields (r : Reply) : ∃ w : Word, r.payload = w :: r.results ∧
    (w.extractLsb' 24 8).toNat = r.status.code ∧ w.extractLsb' 16 8 = r.seq ∧ w.extractLsb' 8 8 = r.code ∧
    w.extractLsb' 0 8 = 0 := by
  refine ⟨_, rfl, ?_⟩
  have hstatus := statusCode_lt r.status
  have hseq := r.seq.isLt
  have hcode := r.code.isLt
  have hlt : put r.status.code 31 24 + put r.seq.toNat 23 16 + put r.code.toNat 15 8 < 2 ^ 32 := by
    simp only [put]
    omega
  have hfields : bitsAt (toWord (put r.status.code 31 24 + put r.seq.toNat 23 16 + put r.code.toNat 15 8)) 31 24 = r.status.code ∧
      bitsAt (toWord (put r.status.code 31 24 + put r.seq.toNat 23 16 + put r.code.toNat 15 8)) 23 16 = r.seq.toNat ∧
      bitsAt (toWord (put r.status.code 31 24 + put r.seq.toNat 23 16 + put r.code.toNat 15 8)) 15 8 = r.code.toNat ∧
      bitsAt (toWord (put r.status.code 31 24 + put r.seq.toNat 23 16 + put r.code.toNat 15 8)) 7 0 = 0 := by
    simp only [bitsAt_toWord hlt]
    simp only [field, put]
    omega
  obtain ⟨h1, h2, h3, h4⟩ := hfields
  exact ⟨h1, BitVec.eq_of_toNat_eq h2, BitVec.eq_of_toNat_eq h3, BitVec.eq_of_toNat_eq h4⟩

/-- The first entry with countdown 0 is the oldest due one. -/
theorem oldestDue_of_split {s : State} {a b : List Notice} {e : Notice} (h : s.notices.entries = a ++ e :: b)
    (hbefore : ∀ x, x ∈ a → x.countdown ≠ 0) (hdue : e.countdown = 0) : s.oldestDue = some e := by
  rw [State.oldestDue, h, List.find?_append]
  have hnone : a.find? (·.due) = none := List.find?_eq_none.2 fun x hx => by simpa [Notice.due] using hbefore x hx
  rw [hnone, List.find?_cons_of_pos (by simpa [Notice.due] using hdue)]
  rfl

theorem oldestDue_of_none {s : State} (h : ∀ x, x ∈ s.notices.entries → x.countdown ≠ 0) : s.oldestDue = none :=
  List.find?_eq_none.2 fun x hx => by simpa [Notice.due] using h x hx

/-- With ids unique, loading an entry changes that entry alone. -/
theorem markSent_eq {s : State} (hlaw : s.notices.Lawful) {a b : List Notice} {e : Notice}
    (h : s.notices.entries = a ++ e :: b) : s.markSent e = { s with notices := { s.notices with
      entries := a ++ { e with countdown := s.settings.repeatInterval, sentEver := true } :: b } } := by
  have hother : ∀ x, x ∈ a ∨ x ∈ b → x.id ≠ e.id := by
    obtain ⟨-, -, hids⟩ := hlaw
    rw [h, List.map_append, List.map_cons, List.nodup_middle, List.nodup_cons, List.mem_append, not_or] at hids
    obtain ⟨⟨ha, hb⟩, -⟩ := hids
    rintro x (hx | hx) he
    · exact ha (he ▸ List.mem_map_of_mem hx)
    · exact hb (he ▸ List.mem_map_of_mem hx)
  have hkeep : ∀ l : List Notice, (∀ x, x ∈ l → x.id ≠ e.id) → (l.map fun x =>
      if x.id = e.id then { x with countdown := s.settings.repeatInterval, sentEver := true } else x) = l := by
    intro l hl
    exact (List.map_congr_left fun x hx => if_neg (hl x hx)).trans (List.map_id l)
  rw [State.markSent, h, List.map_append, List.map_cons, hkeep a fun x hx => hother x (.inl hx),
    hkeep b fun x hx => hother x (.inr hx), if_pos rfl]
  rfl

/-- Settles O29: the head response, the oldest due notice, or nothing. -/
theorem responseSlotServesInOrder : Obligations.ResponseSlotServesInOrder := by
  intro p s n hrel hround hslot hlast hle hcase hlaw k entered sends
  have hserves : s.Serves p k := by
    rcases hcase with ⟨rfl, hlocked⟩ | ⟨rfl, hrunning, hstate, hbeacon⟩
    · exact .inl ⟨rfl, hlocked⟩
    · exact .inr ⟨rfl, hrunning, hstate, fun hk => hbeacon hk.symm⟩
  have hexec : exec (.slotStart p) s = .next (entered.serveResponseSlot p k n) := by
    rw [exec_slotStart_of_serves hrel hround hslot (by omega) hlast hserves, if_pos rfl]
  have hresponses : entered.responses = s.responses := by cases p <;> rfl
  have hnotices : entered.notices = s.notices := by cases p <;> rfl
  have htarget : entered.noticeTarget p = s.noticeTarget p := by cases p <;> rfl
  have hflags : entered.slotFlags = s.slotFlags.set p .clear := enterSlot_slotFlags s p k
  refine ⟨fun x rest hx => ?_, fun a e b hempty hto hsplit hbefore hdue => ?_, fun hempty hnone => ?_⟩
  · obtain ⟨w, hpayload, h1, h2, h3, h4⟩ := responseWord_fields x.reply
    refine ⟨w, h1, h2, h3, h4, hexec.trans (congrArg _ ?_)⟩
    simp only [State.serveResponseSlot, hresponses, hx]
    rw [load_entered hflags, State.responseCell, hpayload]
    cases p <;> rfl
  · obtain ⟨v, w, hwords, h1, h2, h3, h4, h5, h6, h7⟩ := notice_fields e (low := 0) (by decide)
    refine ⟨v, w, BitVec.eq_of_toNat_eq h1, h2, BitVec.eq_of_toNat_eq h3, BitVec.eq_of_toNat_eq h4, h5, h6, h7,
      hexec.trans (congrArg _ ?_)⟩
    have hoffered : entered.oldestDue = some e := oldestDue_of_split (by rw [hnotices]; exact hsplit) hbefore hdue
    simp only [State.serveResponseSlot, hresponses, hempty, hoffered, htarget]
    rw [if_pos hto, markSent_eq (by rw [hnotices]; exact hlaw) (by rw [hnotices]; exact hsplit)]
    rw [load_entered (s := s) (by exact hflags), State.noticeCell, Notice.payload, hwords, hnotices]
    cases p <;> rfl
  · refine hexec.trans (congrArg _ ?_)
    simp only [State.serveResponseSlot, hresponses, hempty, htarget]
    rcases hnone with hzero | hnone
    · split
      · rw [if_neg (fun hne => hne hzero)]
      · rfl
    · rw [oldestDue_of_none (by rw [hnotices]; exact hnone)]

end Sys2Proof.Machine
end

section
/-! Data slots: the emit lookup and what its source answers (R62, R112, R117, R124 to R130). -/

set_option Elab.async false

namespace Sys2Proof.Machine

/-! ## Cells sent in the slot just entered -/

/-- `t` comes from `s` by entering a slot of P and by changes that leave the emit unit of P alone. -/
structure State.Entered (s t : State) (p : Port) : Prop where
  tx : t.tx = s.tx
  slotFlags : t.slotFlags = s.slotFlags.set p .clear
  emitRecords : t.emitRecords = s.emitRecords
  emitOutcomes : t.emitOutcomes = s.emitOutcomes
  address : t.address p = s.address p

theorem entered_enterSlot (s : State) (p : Port) (k : Nat) : s.Entered (s.enterSlot p k) p := by
  cases p <;> exact ⟨rfl, rfl, rfl, rfl, rfl⟩

/-- The cell `c` is in the transmit buffer of P, with the record `x` of its transmission. -/
def State.sending (s t : State) (p : Port) (c : Cell) (x : EmitRecord) : State :=
  { t with
    tx := s.tx.set p (some c)
    slotFlags := s.slotFlags.set p { accepted := false, sent := true }
    emitRecords := s.emitRecords.set p (some x) }

/-- The on-empty policy has been applied: a void cell, or silence recorded. -/
def State.emptied (s t : State) (p : Port) (slot : Nat) (r : Round) (n : Fin 128) (e : EmitEntry)
    (sentAs quietAs : EmitOutcome) : State :=
  match e.onEmpty with
  | .void => s.sending t p
      ⟨{ kind := .void, stale := false, round := r, slot, source := s.address p, dest := 0, length := 0 }, []⟩
      ⟨n, r, true, .none, sentAs, .none⟩
  | .silent => { t with emitOutcomes := s.emitOutcomes.set n (some (quietAs, r)) }

section
variable {s t : State} {p : Port} (h : s.Entered t p)
include h

theorem load_withEmitRecord_entered (c : Cell) (x : EmitRecord) :
    (t.load p c).withEmitRecord p (some x) = s.sending t p c x := by
  rw [load_entered h.slotFlags, h.tx]
  simp only [State.withEmitRecord, h.emitRecords]
  rfl

theorem sendVoid_entered (slot : Nat) (r : Round) (n : Fin 128) (intended : EmitOutcome) :
    t.sendVoid p slot r n intended = s.sending t p
      ⟨{ kind := .void, stale := false, round := r, slot, source := s.address p, dest := 0, length := 0 }, []⟩
      ⟨n, r, true, .none, intended, .none⟩ := by
  rw [State.sendVoid, load_withEmitRecord_entered h, State.voidCell, h.address]
  rfl

theorem applyOnEmpty_entered (slot : Nat) (r : Round) (n : Fin 128) (e : EmitEntry) (sentAs quietAs : EmitOutcome) :
    t.applyOnEmpty p slot r n e sentAs quietAs = s.emptied t p slot r n e sentAs quietAs := by
  unfold State.applyOnEmpty State.emptied
  cases e.onEmpty with
  | void => exact sendVoid_entered h slot r n sentAs
  | silent =>
    simp only [State.recordEmit, h.emitOutcomes]

end

/-! ## The lookup -/

/-- The entry that matches in a sound plan, with its source. -/
theorem serveDataSlot_of_hit {s : State} (hsound : s.ActiveSound) (hone : s.active.OneMatch) {p : Port} {slot : Nat}
    {r : Round} {n : Fin 128} {e : EmitEntry} (he : s.active.emits[n].fields = some e) (hhit : e.hits p slot r = true) :
    s.serveDataSlot p slot r = match e.source with
      | .mailbox k =>
        match s.active.mailboxes[k].seen with
        | some d => s.emitMailbox p slot r n e k d
        | none => s.emitFault p slot r n e
      | .queue k =>
        match s.active.queues[k].seen with
        | some d => s.emitQueue p slot r n e k d
        | none => s.emitFault p slot r n e := by
  have hread : s.active.emits[n] = ⟨some e, true⟩ := seen_eq_some.1 ((seen_of_good (hsound (.emit n))).trans he)
  have hfind := findEmit_of_hit hone hread hhit
  simp only [State.serveDataSlot, hfind, readEmits_of_sound hsound, readActive_of_good (hsound e.source.ref)] <;> rfl

section
variable {s : State} {p : Port} {r : Round} {n : Fin 128} {e : EmitEntry} (hrel : s.resetnLow = false)
  (hround : s.currentRound p = some r) (hslot : s.currentSlot p = none) (hlast : s.lastSlot p < s.slotCount p)
  (hserves : s.Serves p (s.lastSlot p + 1)) (hresponse : s.lastSlot p + 1 ≠ s.responseSlot p)
  (hforwarding : s.forwarding = .forwarding) (hsound : s.ActiveSound) (hone : s.active.OneMatch)
  (he : s.active.emits[n].fields = some e) (hhit : e.hits p (s.lastSlot p + 1) r = true)
include hrel hround hslot hlast hserves hresponse hforwarding hsound hone he hhit

theorem exec_slotStart_mailbox {k : Fin 64} {d : MailboxDef} (hsource : e.source = .mailbox k)
    (hd : s.active.mailboxes[k].fields = some d) : exec (.slotStart p) s =
      .next ((s.enterSlot p (s.lastSlot p + 1)).emitMailbox p (s.lastSlot p + 1) r n e k d) := by
  have hactive : (s.enterSlot p (s.lastSlot p + 1)).active = s.active := by cases p <;> rfl
  have hsound' : (s.enterSlot p (s.lastSlot p + 1)).ActiveSound := by
    rw [State.ActiveSound, hactive]
    exact hsound
  rw [exec_slotStart_of_serves hrel hround hslot hlast rfl hserves, if_neg hresponse, if_pos hforwarding,
    serveDataSlot_of_hit hsound' (by rw [hactive]; exact hone) (by rw [hactive]; exact he) hhit, hsource]
  simp only [hactive, (seen_of_good (hsound (.mailbox k))).trans hd]

theorem exec_slotStart_queue {k : Fin 8} {d : QueueDef} (hsource : e.source = .queue k)
    (hd : s.active.queues[k].fields = some d) : exec (.slotStart p) s =
      .next ((s.enterSlot p (s.lastSlot p + 1)).emitQueue p (s.lastSlot p + 1) r n e k d) := by
  have hactive : (s.enterSlot p (s.lastSlot p + 1)).active = s.active := by cases p <;> rfl
  have hsound' : (s.enterSlot p (s.lastSlot p + 1)).ActiveSound := by
    rw [State.ActiveSound, hactive]
    exact hsound
  rw [exec_slotStart_of_serves hrel hround hslot hlast rfl hserves, if_neg hresponse, if_pos hforwarding,
    serveDataSlot_of_hit hsound' (by rw [hactive]; exact hone) (by rw [hactive]; exact he) hhit, hsource]
  simp only [hactive, (seen_of_good (hsound (.queue k))).trans hd]

theorem exec_slotStart_undefined (hundef : s.active.placeDefined e.source = false) : exec (.slotStart p) s =
      .next ((s.enterSlot p (s.lastSlot p + 1)).emitFault p (s.lastSlot p + 1) r n e) := by
  have hactive : (s.enterSlot p (s.lastSlot p + 1)).active = s.active := by cases p <;> rfl
  have hsound' : (s.enterSlot p (s.lastSlot p + 1)).ActiveSound := by
    rw [State.ActiveSound, hactive]
    exact hsound
  rw [exec_slotStart_of_serves hrel hround hslot hlast rfl hserves, if_neg hresponse, if_pos hforwarding,
    serveDataSlot_of_hit hsound' (by rw [hactive]; exact hone) (by rw [hactive]; exact he) hhit]
  cases hsource : e.source with
  | mailbox k =>
    have hnone : s.active.mailboxes[k].fields = none := by simpa [Bank.placeDefined, hsource] using hundef
    simp only [hactive, (seen_of_good (hsound (.mailbox k))).trans hnone]
  | queue k =>
    have hnone : s.active.queues[k].fields = none := by simpa [Bank.placeDefined, hsource] using hundef
    simp only [hactive, (seen_of_good (hsound (.queue k))).trans hnone]

end

/-! ## Mailbox sources -/

section
variable {s t : State} {p : Port} {slot : Nat} {r : Round} {n : Fin 128} {e : EmitEntry} {k : Fin 64} {d : MailboxDef}

theorem emitMailbox_asked (hasked : t.mailboxes[k].state = .fresh ∨ t.mailboxes[k].state = .stale ∧ e.onStale = .sendMarked) :
    t.emitMailbox p slot r n e k d = t.emitCopy p slot r n e k d (decide (t.mailboxes[k].state = .stale))
      (if t.mailboxes[k].state = .stale then .sentStale else .sent) := by
  unfold State.emitMailbox
  rcases hasked with h | ⟨h, hp⟩
  · simp only [h]
    rfl
  · simp only [h, hp]
    rfl

theorem emitMailbox_stale_void (h : t.mailboxes[k].state = .stale) (hp : e.onStale = .void) :
    t.emitMailbox p slot r n e k d = t.sendVoid p slot r n .voidSent := by
  simp only [State.emitMailbox, h, hp]

theorem emitMailbox_stale_silent (h : t.mailboxes[k].state = .stale) (hp : e.onStale = .silent) :
    t.emitMailbox p slot r n e k d = t.recordEmit n .silent r := by
  simp only [State.emitMailbox, h, hp]

theorem emitMailbox_empty (h : t.mailboxes[k].state = .empty ∨ t.mailboxes[k].state = .spent) :
    t.emitMailbox p slot r n e k d = t.applyOnEmpty p slot r n e .voidSent .silent := by
  rcases h with h | h <;> simp only [State.emitMailbox, h] <;> rfl

theorem emitMailbox_faulted (h : t.mailboxes[k].state = .faulted) :
    t.emitMailbox p slot r n e k d = t.applyOnEmpty p slot r n e .fault .fault := by
  simp only [State.emitMailbox, h]
  rfl

theorem emitCopy_of_payload {stale : Bool} {intended : EmitOutcome} {ws : List Word}
    (hws : t.mailboxPayload k d = some ws) : t.emitCopy p slot r n e k d stale intended =
      (t.load p (t.dataCell p slot r stale e.origin (t.mailboxes[k].source.getD 0) ws)).withEmitRecord p
        (some { entry := n, round := r, void := false, effect := .mailbox k t.mailboxes[k].tag d.readMode, intended,
                mark := .none }) := by
  simp only [State.emitCopy, hws]

theorem emitCopy_of_failed {stale : Bool} {intended : EmitOutcome} (hws : t.mailboxPayload k d = none) :
    t.emitCopy p slot r n e k d stale intended = (t.faultMailbox k).applyOnEmpty p slot r n e .fault .fault := by
  simp only [State.emitCopy, hws]
  rfl

end

theorem dataCell_eq {s t : State} {p : Port} (h : t.address p = s.address p) (slot : Nat) (r : Round) (stale : Bool)
    (origin : Origin) (stored : Station) (ws : List Word) : t.dataCell p slot r stale origin stored ws =
      ⟨{ kind := .data, stale, round := r, slot, source := match origin with
                                                   | .preserve => stored
                                                   | .self => s.address p,
         dest := 0, length := ws.length }, ws⟩ := by
  cases origin with
  | preserve => rfl
  | self =>
    rw [State.dataCell, h]
    rfl

theorem readWords_enterSlot (s : State) (p : Port) (j a k : Nat) : (s.enterSlot p j).readWords a k = s.readWords a k :=
  readWords_congr (fun b => by cases p <;> exact wordAt_congr rfl rfl b) a k

/-- Settles O30, line by line of Table 8-2. -/
theorem emitMailboxFollowsTable : Obligations.EmitMailboxFollowsTable := by
  intro p s r n e k d hrel hround hslot hlast slot hserves hresponse hforwarding hsound hone he hhit hsource hd m entered start
    header sends onEmpty origin asked
  have hexec : exec (.slotStart p) s = .next (entered.emitMailbox p slot r n e k d) :=
    exec_slotStart_mailbox hrel hround hslot hlast hserves hresponse hforwarding hsound hone he hhit hsource hd
  have hentered : s.Entered entered p := entered_enterSlot s p slot
  have hm : entered.mailboxes = s.mailboxes := by cases p <;> rfl
  have hstart : halfBase d.base d.capacity m.half = start := (halfBase_eq d.base d.capacity m.half).symm
  have hpayload : entered.mailboxPayload k d = s.mailboxPayload k d := by
    rw [State.mailboxPayload, hm]
    exact readWords_enterSlot s p slot _ _
  have honempty : ∀ {t : State} (a b : EmitOutcome), s.Entered t p →
      t.applyOnEmpty p slot r n e a b = onEmpty t a b := fun a b ht =>
    (applyOnEmpty_entered ht slot r n e a b).trans rfl
  have hcopy : asked → exec (.slotStart p) s = .next (entered.emitCopy p slot r n e k d (decide (m.state = .stale))
      (if m.state = .stale then .sentStale else .sent)) := fun hasked => by
    rw [hexec, emitMailbox_asked (by rw [hm]; exact hasked), hm]
  refine ⟨fun ws hasked hlen hwords => ?_, fun hasked hfailed => ?_, fun hstale hvoid => ?_, fun hstale hsilent => ?_,
    fun hempty => ?_, fun hfaulted => ?_⟩
  · have hws : s.mailboxPayload k d = some ws := mailboxPayload_eq_some.2 ⟨hlen, by rw [hstart]; exact hwords⟩
    rw [hcopy hasked, emitCopy_of_payload (hpayload.trans hws), load_withEmitRecord_entered hentered, hm,
      dataCell_eq hentered.address, hlen]
    rfl
  · have hws : s.mailboxPayload k d = none := mailboxPayload_eq_none.2 (by rw [hstart]; exact hfailed)
    have hfault : entered.faultMailbox k = { entered with
        mailboxes := s.mailboxes.set k { m with state := .faulted }
        notices := s.notices.raise .storeParity (.mailbox k) s.raiseRound } := by
      rw [State.faultMailbox, raise_eq]
      cases p <;> rfl
    rw [hcopy hasked, emitCopy_of_failed (hpayload.trans hws), hfault, honempty]
    exact ⟨hentered.tx, hentered.slotFlags, hentered.emitRecords, hentered.emitOutcomes, hentered.address⟩
  · rw [hexec, emitMailbox_stale_void (by rw [hm]; exact hstale) hvoid, sendVoid_entered hentered]
    rfl
  · rw [hexec, emitMailbox_stale_silent (by rw [hm]; exact hstale) hsilent, State.recordEmit, hentered.emitOutcomes]
  · rw [hexec, emitMailbox_empty (by rw [hm]; exact hempty), honempty _ _ hentered]
  · rw [hexec, emitMailbox_faulted (by rw [hm]; exact hfaulted), honempty _ _ hentered]

/-! ## Queue sources -/

section
variable {s t : State} {p : Port} {slot : Nat} {r : Round} {n : Fin 128} {e : EmitEntry} {k : Fin 8} {d : QueueDef}

theorem emitQueue_nothing (h : t.queues[k].entries = [] ∨ t.queues[k].headInFlight.isSome = true) :
    t.emitQueue p slot r n e k d = t.applyOnEmpty p slot r n e .voidSent .silent := by
  have hselect : t.selectHead k d p = (t, .nothing) := by
    unfold State.selectHead
    rcases h with h | h
    · simp only [h]
    · obtain ⟨q, hq⟩ := Option.isSome_iff_exists.1 h
      cases hentries : t.queues[k].entries <;> simp only [hentries, hq]
  simp only [State.emitQueue, hselect]
  rfl

variable {x : QueueEntry} {rest : List QueueEntry}

theorem emitQueue_head (hentries : t.queues[k].entries = x :: rest) (hidle : t.queues[k].headInFlight = none)
    {ws : List Word} (hws : t.readWords (ringBase d.base d.capacity d.depth t.queues[k].headPos 0) x.length = some ws) :
    t.emitQueue p slot r n e k d =
      let y := t.withQueue k { t.queues[k] with headInFlight := some p }
      (y.load p (y.dataCell p slot r false e.origin x.source ws)).withEmitRecord p
        (some { entry := n, round := r, void := false, effect := .queue k d.depth d.retryLimit, intended := .sent,
                mark := .none }) := by
  have hselect : t.selectHead k d p = (t.withQueue k { t.queues[k] with headInFlight := some p }, .head x ws) := by
    simp only [State.selectHead, hentries, hidle, hws]
  simp only [State.emitQueue, hselect]

theorem emitQueue_failed (hentries : t.queues[k].entries = x :: rest) (hidle : t.queues[k].headInFlight = none)
    (hws : t.readWords (ringBase d.base d.capacity d.depth t.queues[k].headPos 0) x.length = none) :
    t.emitQueue p slot r n e k d = ((t.withQueue k (t.queues[k].removeHead d.depth)).raise .storeParity
      (.queue k)).applyOnEmpty p slot r n e .fault .fault := by
  have hselect : t.selectHead k d p =
      ((t.withQueue k (t.queues[k].removeHead d.depth)).raise .storeParity (.queue k), .faulted) := by
    simp only [State.selectHead, hentries, hidle, hws]
  simp only [State.emitQueue, hselect]
  rfl

end

/-- Settles O31: an undefined source, and each answer of a queue. -/
theorem emitQueueFollowsTable : Obligations.EmitQueueFollowsTable := by
  intro p s r n e hrel hround hslot hlast slot hserves hresponse hforwarding hsound hone he hhit entered header sends onEmpty
  have hentered : s.Entered entered p := entered_enterSlot s p slot
  have honempty : ∀ {t : State} (a b : EmitOutcome), s.Entered t p →
      t.applyOnEmpty p slot r n e a b = onEmpty t a b := fun a b ht =>
    (applyOnEmpty_entered ht slot r n e a b).trans rfl
  refine ⟨fun hundef => ?_, ?_⟩
  · rw [exec_slotStart_undefined hrel hround hslot hlast hserves hresponse hforwarding hsound hone he hhit hundef]
    exact congrArg _ (honempty _ _ hentered)
  · intro k d hsource hd q start
    have hexec : exec (.slotStart p) s = .next (entered.emitQueue p slot r n e k d) :=
      exec_slotStart_queue hrel hround hslot hlast hserves hresponse hforwarding hsound hone he hhit hsource hd
    have hq : entered.queues = s.queues := by cases p <;> rfl
    have hwords : ∀ j, entered.readWords (ringBase d.base d.capacity d.depth entered.queues[k].headPos 0) j =
        s.readWords start j := by
      intro j
      have hstart : ringBase d.base d.capacity d.depth entered.queues[k].headPos 0 = start := by
        rw [hq]
        rfl
      rw [hstart]
      exact readWords_enterSlot s p slot _ _
    refine ⟨fun hnothing => ?_, fun x rest hentries hidle => ⟨fun ws hlen hgood => ?_, fun hfailed => ?_⟩⟩
    · rw [hexec, emitQueue_nothing (by rw [hq]; exact hnothing), honempty _ _ hentered]
    · have hws : s.readWords start x.length = some ws := readWords_eq_some.2 ⟨hlen, hgood⟩
      have htaken : s.Entered (entered.withQueue k { entered.queues[k] with headInFlight := some p }) p :=
        ⟨hentered.tx, hentered.slotFlags, hentered.emitRecords, hentered.emitOutcomes, by rw [← hentered.address]; cases p <;> rfl⟩
      rw [hexec, emitQueue_head (by rw [hq]; exact hentries) (by rw [hq]; exact hidle) ((hwords _).trans hws)]
      simp only
      rw [load_withEmitRecord_entered htaken, dataCell_eq htaken.address, hlen]
      simp only [State.withQueue, hq]
      rfl
    · have hws : s.readWords start x.length = none := readWords_eq_none.2 hfailed
      have hremoved : (entered.withQueue k (entered.queues[k].removeHead d.depth)).raise .storeParity (.queue k) = { entered with
          queues := s.queues.set k { entries := rest, headInFlight := none, attempts := 0, drained := false,
                                     headPos := (q.headPos + 1) % d.depth }
          notices := s.notices.raise .storeParity (.queue k) s.raiseRound } := by
        have hrest : s.queues[k].removeHead d.depth = { entries := rest, headInFlight := none, attempts := 0, drained := false,
                                                        headPos := (q.headPos + 1) % d.depth } := by
          rw [QueueRt.removeHead, show s.queues[k].entries = x :: rest from hentries]
          rfl
        rw [raise_eq, hq, hrest]
        cases p <;> rfl
      rw [hexec, emitQueue_failed (by rw [hq]; exact hentries) (by rw [hq]; exact hidle) ((hwords _).trans hws), hremoved,
        honempty]
      exact ⟨hentered.tx, hentered.slotFlags, hentered.emitRecords, hentered.emitOutcomes, hentered.address⟩

end Sys2Proof.Machine
end

section
/-! Slot ends with nothing in flight (R11, R101), and transmission ends (R15, R90, R113, R118, R131, R146, R148). -/

set_option Elab.async false

namespace Sys2Proof.Machine

/-! ## O32 -/

/-- The current slot of P is over, and with the last one the L round, when no alignment is held. -/
def State.slotOver (s : State) : Port → State
  | .u => { s with uTime := { s.uTime with slot := none }, slotFlags := s.slotFlags.set .u .clear }
  | .l => { s with
      lTime := { s.lTime with slot := none, running := s.lTime.running && s.lTime.lastSlot < s.lInUse.slotCount }
      slotFlags := s.slotFlags.set .l .clear }

theorem lRoundEnds_of_not_held {s : State} (h : ∀ a, s.lTime.pending = some a → a.held = false) :
    s.lRoundEnds = s.withLTime { s.lTime with running := false } := by
  unfold State.lRoundEnds
  dsimp only [State.withLTime]
  split
  · rename_i a ha
    exact if_neg (by rw [h a ha]; simp)
  · rfl

/-- A slot end with nothing in flight and no alignment held. -/
theorem exec_slotEnd {s : State} {p : Port} (hrel : s.resetnLow = false) (hslot : (s.currentSlot p).isSome = true)
    (htx : s.tx.get p = none) (hrx : s.rx.get p = none)
    (hheld : ∀ a, p = .l → s.lTime.pending = some a → a.held = false) {x : State} (hx : s.slotPassedEmpty p = x)
    (htime : x.lTime = s.lTime) (hprofile : x.lInUse = s.lInUse) : exec (.slotEnd p) s = .next (x.slotOver p) := by
  have hmay : s.slotMayEnd p = true := by simp [State.slotMayEnd, hslot, htx, hrx]
  refine congrArg _ (((live_of_released hrel _).trans (if_pos hmay)).trans ?_)
  rw [State.slotEnds, hx]
  cases p with
  | u => exact if_neg (by simp)
  | l =>
    by_cases hlast : s.slotCount .l ≤ s.lTime.lastSlot
    · refine (if_pos (by simpa using hlast)).trans ?_
      rw [lRoundEnds_of_not_held (s := x.leaveSlot .l) (by
        intro a ha
        refine hheld a rfl ?_
        rw [← htime]
        exact ha)]
      have hrunning : (x.lTime.running && x.lTime.lastSlot < x.lInUse.slotCount) = false := by
        rw [htime, hprofile, decide_eq_false (show ¬s.lTime.lastSlot < s.lInUse.slotCount from Nat.not_lt.2 hlast), Bool.and_false]
      simp only [State.slotOver, hrunning]
      rfl
    · refine (if_neg (by simpa using hlast)).trans ?_
      have hrunning : (x.lTime.running && x.lTime.lastSlot < x.lInUse.slotCount) = x.lTime.running := by
        rw [htime, hprofile, decide_eq_true (show s.lTime.lastSlot < s.lInUse.slotCount from Nat.lt_of_not_le hlast), Bool.and_true]
      simp only [State.slotOver, hrunning]
      rfl

section
variable {s : State} {p : Port} {k : Nat} {r : Round} (hslot : s.currentSlot p = some k) (hround : s.currentRound p = some r)
include hslot hround

theorem slotPassedEmpty_eq : s.slotPassedEmpty p =
    if !(s.slotFlags.get p).accepted && !(s.slotFlags.get p).sent && s.delivers p then s.captureEmpty p k r else s := by
  simp only [State.slotPassedEmpty, hslot, hround]

theorem slotPassedEmpty_of_used (h : (s.slotFlags.get p).accepted = true ∨ (s.slotFlags.get p).sent = true ∨
    p = .u ∧ s.uTime.state ≠ .locked) : s.slotPassedEmpty p = s := by
  rw [slotPassedEmpty_eq hslot hround]
  refine if_neg ?_
  rcases h with h | h | ⟨rfl, h⟩
  · simp [h]
  · simp [h]
  · simp [State.delivers, State.locked, h]

theorem slotPassedEmpty_of_empty (hclear : s.slotFlags.get p = .clear) (hlocked : p = .u → s.uTime.state = .locked) :
    s.slotPassedEmpty p = s.captureEmpty p k r := by
  rw [slotPassedEmpty_eq hslot hround, hclear]
  refine if_pos ?_
  have hdelivers : s.delivers p = true := by
    cases p with
    | u => exact decide_eq_true (hlocked rfl)
    | l =>
      have hl : s.lTime.slot = some k := hslot
      rw [State.delivers, hl]
      rfl
  rw [hdelivers]
  rfl

end

theorem captureEmpty_of_no_hit {s : State} {p : Port} {k : Nat} {r : Round} (hsound : s.ActiveSound)
    (hnone : ∀ (i : Fin 128) (e : CaptureEntry), s.active.captures[i].fields = some e → e.hits p k r = false) :
    s.captureEmpty p k r = s := by
  have hfind : s.active.findCapture p k r = none :=
    findCapture_eq_none.2 fun i e he => hnone i e (congrArg Stored.fields he)
  simp only [State.captureEmpty, hfind, readCaptures_of_sound hsound]

theorem captureEmpty_of_hit {s : State} {p : Port} {k : Nat} {r : Round} (hsound : s.ActiveSound) (hone : s.active.OneMatch)
    {i : Fin 128} {e : CaptureEntry} (he : s.active.captures[i].fields = some e) (hhit : e.hits p k r = true) :
    s.captureEmpty p k r = s.recordCapture i .empty r := by
  have hfind := findCapture_of_hit hone (readable_of_sound hsound he) hhit
  simp only [State.captureEmpty, hfind, readCaptures_of_sound hsound]

/-- Settles O32: the slot is over; EMPTY is recorded for the entry of an empty one. -/
theorem slotEndRecordsEmpty : Obligations.SlotEndRecordsEmpty := by
  intro p s k r hrel hslot hround htx hrx hsound hone hheld ended
  have hend : ∀ {x : State}, s.slotPassedEmpty p = x → x.lTime = s.lTime → x.lInUse = s.lInUse →
      exec (.slotEnd p) s = .next (x.slotOver p) := exec_slotEnd hrel (by rw [hslot]; rfl) htx hrx hheld
  refine ⟨fun hused => ?_, fun hclear hlocked => ⟨fun hnone => ?_, fun i e he hhit => ?_⟩⟩
  · rw [hend (slotPassedEmpty_of_used hslot hround hused) rfl rfl]
    cases p <;> rfl
  · rw [hend ((slotPassedEmpty_of_empty hslot hround hclear hlocked).trans (captureEmpty_of_no_hit hsound hnone)) rfl rfl]
    cases p <;> rfl
  · rw [hend ((slotPassedEmpty_of_empty hslot hround hclear hlocked).trans (captureEmpty_of_hit hsound hone he hhit)) rfl rfl]
    cases p <;> rfl

/-! ## O34 -/

theorem exec_transmissionEnd {s : State} {p : Port} {e : TxEnd} (hrel : s.resetnLow = false) :
    exec (.transmissionEnd p e) s = .next (s.transmissionEnd p e) := congrArg _ (live_of_released hrel _)

theorem transmissionEnd_of_other {s : State} {p : Port} {e : TxEnd} {c : Cell} (hc : s.tx.get p = some c)
    (hkind : c.header.kind ≠ .response ∨ e = .aborted) : s.transmissionEnd p e = s.finishTx p e := by
  simp only [State.transmissionEnd, hc]
  refine if_neg ?_
  rcases hkind with h | h <;> simp [h]

theorem finishTx_of_plain {s : State} {p : Port} {c : Cell} (hc : s.tx.get p = some c) (e : TxEnd)
    (hkind : c.header.kind ≠ .data ∧ c.header.kind ≠ .void) : s.finishTx p e = s.freed p e := by
  rw [finishTx_of_some hc, if_neg (by simp [hkind])]

/-- Settles O34: the buffer freed, the response taken from its queue, its mark acted on. -/
theorem responseLeavesAtTransmissionEnd : Obligations.ResponseLeavesAtTransmissionEnd := by
  intro p e s c hrel hc counter freed
  have hfreed : s.freed p e = freed := rfl
  refine ⟨fun hkind => ?_, ?_⟩
  · rw [exec_transmissionEnd hrel, transmissionEnd_of_other hc (.inl (by rcases hkind with h | h <;> rw [h] <;> decide)),
      finishTx_of_plain hc e (by rcases hkind with h | h <;> rw [h] <;> decide), hfreed]
  · intro x rest hkind hresponses he left
    have hend : s.transmissionEnd p e = left.actOnMark x.mark := by
      simp only [State.transmissionEnd, hc]
      rw [if_pos (by simp [hkind, he]), finishTx_of_plain hc e (by rw [hkind]; decide), hfreed, hresponses]
      rfl
    rw [exec_transmissionEnd hrel, hend]
    have hlive : left.resetnLow = false := hrel
    refine ⟨fun hmark => ?_, fun hmark => ?_, fun hmark => ?_, fun hmark => ?_⟩ <;> rw [hmark]
    · rfl
    · exact (congrArg _ (live_of_released hlive (·.bridgeRestart))).symm
    · exact (congrArg _ (live_of_released hlive (·.linkStart .u))).symm
    · exact (congrArg _ (live_of_released hlive (·.linkStart .l))).symm

/-! ## O33 -/

/-- The queue entry that the end discards: a head in flight on P, drained or out of retries, at a DISTURBED end (R118). -/
def SourceEffect.discarded (x : SourceEffect) (queues : Vector QueueRt 8) (p : Port) (e : TxEnd) : Option (Fin 8) :=
  match x with
  | .queue n _ limit =>
    if queues[n].headInFlight = some p ∧ e = .disturbed ∧ (queues[n].drained = true ∨ limit < queues[n].attempts + 1) then some n
    else Option.none
  | .mailbox _ _ _ => Option.none
  | .none => Option.none

/-- QUEUE_DISCARD of the queue, if there is one. -/
def NoticeUnit.raiseDiscard (u : NoticeUnit) (r : Round) (o : Option (Fin 8)) : NoticeUnit :=
  match o with
  | some n => u.raise .queueDiscard (.queue n) r
  | none => u

/-- The mailboxes after the end of a transmission of this source (R113). -/
def SourceEffect.mailboxesAfter (x : SourceEffect) (mailboxes : Vector MailboxRt 64) (e : TxEnd) : Vector MailboxRt 64 :=
  match x with
  | .mailbox n tag mode =>
    if e = .clean ∧ mode = .take ∧ (mailboxes[n].state = .fresh ∨ mailboxes[n].state = .stale) ∧ mailboxes[n].tag = tag then
      mailboxes.set n { mailboxes[n] with state := .spent }
    else mailboxes
  | .queue _ _ _ => mailboxes
  | .none => mailboxes

/-- The queue whose head was in flight after the end of its transmission (R118). -/
def QueueRt.afterEnd (q : QueueRt) (depth limit : Nat) (e : TxEnd) : QueueRt :=
  if e = .clean ∨ q.drained = true ∨ e = .disturbed ∧ limit < q.attempts + 1 then q.removeHead depth
  else if e = .disturbed then { q with attempts := q.attempts + 1, headInFlight := none }
  else { q with headInFlight := none }

theorem afterEnd_aborted {q : QueueRt} (h : q.drained = false) (depth limit : Nat) :
    q.afterEnd depth limit .aborted = { q with headInFlight := none } := by
  simp [QueueRt.afterEnd, h]

theorem afterEnd_retried {q : QueueRt} {limit : Nat} (h : q.drained = false) (hlimit : q.attempts + 1 ≤ limit) (depth : Nat) :
    q.afterEnd depth limit .disturbed = { q with headInFlight := none, attempts := q.attempts + 1 } := by
  rw [QueueRt.afterEnd, if_neg (by simpa [h] using hlimit), if_pos rfl]

/-- The queues after the end of a transmission of this source (R118). -/
def SourceEffect.queuesAfter (x : SourceEffect) (queues : Vector QueueRt 8) (p : Port) (e : TxEnd) : Vector QueueRt 8 :=
  match x with
  | .queue n depth limit =>
    if queues[n].headInFlight = some p then queues.set n (queues[n].afterEnd depth limit e) else queues
  | .mailbox _ _ _ => queues
  | .none => queues

theorem queueEnd_eq (s : State) (n : Fin 8) (depth limit : Nat) (p : Port) (e : TxEnd) : s.queueEnd n depth limit p e =
    { s with
      queues := (SourceEffect.queue n depth limit).queuesAfter s.queues p e
      notices := s.notices.raiseDiscard s.raiseRound ((SourceEffect.queue n depth limit).discarded s.queues p e) } := by
  simp only [State.queueEnd, SourceEffect.queuesAfter, SourceEffect.discarded]
  generalize hq : s.queues[n] = q
  by_cases hflight : q.headInFlight = some p
  · simp only [hflight, if_true, true_and]
    cases e with
    | clean => simp [QueueRt.afterEnd, State.withQueue, NoticeUnit.raiseDiscard]
    | disturbed =>
      by_cases hlost : q.drained = true ∨ limit < q.attempts + 1
      · simp only [QueueRt.afterEnd, hlost, Bool.or_eq_true, decide_eq_true_eq, reduceCtorEq, false_or, true_and, if_true,
          NoticeUnit.raiseDiscard]
        rfl
      · simp only [QueueRt.afterEnd, hlost, Bool.or_eq_true, decide_eq_true_eq, reduceCtorEq, false_or, true_and, if_true,
          if_false, NoticeUnit.raiseDiscard]
        rfl
    | aborted =>
      by_cases hdrained : q.drained = true
      · simp [QueueRt.afterEnd, hdrained, State.withQueue, NoticeUnit.raiseDiscard]
      · simp [QueueRt.afterEnd, hdrained, State.withQueue, NoticeUnit.raiseDiscard]
  · simp [hflight, NoticeUnit.raiseDiscard]

theorem mailboxEnd_eq (s : State) (n : Fin 64) (tag : BitVec 8) (mode : ReadMode) (e : TxEnd) : s.mailboxEnd n tag mode e =
    { s with mailboxes := (SourceEffect.mailbox n tag mode).mailboxesAfter s.mailboxes e } := by
  simp only [State.mailboxEnd, SourceEffect.mailboxesAfter, Bool.and_eq_true, Bool.or_eq_true, decide_eq_true_eq, and_assoc]
  split <;> rfl

/-- The end of a transmission acts on its source. -/
theorem sourceEnd_eq (s : State) (p : Port) (x : SourceEffect) (e : TxEnd) : s.sourceEnd p x e = { s with
    mailboxes := x.mailboxesAfter s.mailboxes e
    queues := x.queuesAfter s.queues p e
    notices := s.notices.raiseDiscard s.raiseRound (x.discarded s.queues p e) } := by
  cases x with
  | mailbox n tag mode => exact mailboxEnd_eq s n tag mode e
  | queue n depth limit => exact queueEnd_eq s n depth limit p e
  | none => rfl

/-- The outcomes, the two kinds of source and the notices after the end of a DATA or VOID transmission. -/
theorem emitEnd_eq {s : State} {p : Port} {x : EmitRecord} (h : s.emitRecords.get p = some x) (e : TxEnd) :
    ∃ u k, s.emitEnd p e = { s with
        emitRecords := s.emitRecords.set p none
        emitOutcomes := if x.mark = .none then s.emitOutcomes.set x.entry (some (x.outcomeAt e, x.round)) else s.emitOutcomes
        mailboxes := if x.mark = .cut then s.mailboxes else x.effect.mailboxesAfter s.mailboxes e
        queues := if x.mark = .cut then s.queues else x.effect.queuesAfter s.queues p e
        notices := u
        choice := k } ∧
      (x.mark = .cut → u = s.notices) ∧
      (x.mark = .carried ∨ x.mark = .none ∧ e ≠ .disturbed →
        u = s.notices.raiseDiscard s.raiseRound (x.effect.discarded s.queues p e)) ∧
      (x.mark = .none → e = .disturbed →
        u = (s.notices.raise .collision (.emit x.entry) s.raiseRound).raiseDiscard s.raiseRound
          (x.effect.discarded s.queues p e) ∨
        u = (s.notices.raiseDiscard s.raiseRound (x.effect.discarded s.queues p e)).raise .collision (.emit x.entry)
          s.raiseRound) := by
  simp only [State.emitEnd, h]
  cases hmark : x.mark with
  | cut => exact ⟨s.notices, s.choice, rfl, fun _ => rfl, fun hno => by simp at hno, fun hno => by cases hno⟩
  | carried =>
    simp only [sourceEnd_eq]
    exact ⟨_, s.choice, rfl, (fun hno => by cases hno), fun _ => rfl, fun hno => by cases hno⟩
  | none =>
    by_cases hend : e = .disturbed
    · simp only [hend, if_true]
      rcases either_cases (·.raise .collision (.emit x.entry)) (·.sourceEnd p x.effect .disturbed)
        ((s.withEmitRecord p none).recordEmit x.entry (x.outcomeAt .disturbed) x.round) with he | he <;> rw [he]
      · simp only [sourceEnd_eq, raise_eq]
        exact ⟨_, s.choice + 1, rfl, (fun hno => by cases hno), (fun hno => by simp at hno), fun _ _ => .inl rfl⟩
      · simp only [sourceEnd_eq, raise_eq]
        exact ⟨_, s.choice + 1, rfl, (fun hno => by cases hno), (fun hno => by simp at hno), fun _ _ => .inr rfl⟩
    · simp only [hend, if_false, sourceEnd_eq]
      exact ⟨_, s.choice, rfl, (fun hno => by cases hno), fun _ => rfl, fun _ hd => hd.elim⟩

theorem discarded_eq_some {x : SourceEffect} {queues : Vector QueueRt 8} {p : Port} {e : TxEnd} {k : Fin 8} :
    x.discarded queues p e = some k ↔ ∃ depth limit, x = .queue k depth limit ∧ e = .disturbed ∧
      queues[k].headInFlight = some p ∧ (queues[k].drained = true ∨ limit < queues[k].attempts + 1) := by
  cases x with
  | queue n depth limit =>
    simp only [SourceEffect.discarded]
    constructor
    · intro h
      split at h
      · rename_i hc
        cases h
        exact ⟨depth, limit, rfl, hc.2.1, hc.1, hc.2.2⟩
      · cases h
    · rintro ⟨_, _, he, hend, hflight, hlost⟩
      cases he
      exact if_pos ⟨hflight, hend, hlost⟩
  | mailbox n tag mode => simp [SourceEffect.discarded]
  | none => simp [SourceEffect.discarded]

/-- Settles O33: the buffer freed, then the emit unit's part. -/
theorem emitTransmissionEndFollowsTable : Obligations.EmitTransmissionEndFollowsTable := by
  intro p e s c x hrel hc hkind hx counter discards
  obtain ⟨u, k, hend, hcut, hquiet, hcollision⟩ := emitEnd_eq (s := s.freed p e) hx e
  have hexec : exec (.transmissionEnd p e) s = .next ((s.freed p e).emitEnd p e) := by
    rw [exec_transmissionEnd hrel,
      transmissionEnd_of_other hc (.inl (by rcases hkind with h | h <;> rw [h] <;> decide)), finishTx_of_some hc, if_pos hkind]
  rw [hend] at hexec
  have hdiscards : discards ↔ x.mark ≠ .cut ∧ ∃ j, x.effect.discarded s.queues p e = some j := by
    simp only [discarded_eq_some]
    constructor
    · rintro ⟨j, depth, limit, heffect, hmark, hend, hflight, hlost⟩
      exact ⟨hmark, j, depth, limit, heffect, hend, hflight, hlost⟩
    · rintro ⟨hmark, j, depth, limit, heffect, hend, hflight, hlost⟩
      exact ⟨j, depth, limit, heffect, hmark, hend, hflight, hlost⟩
  have hnone : x.mark ≠ .cut → ¬discards → x.effect.discarded s.queues p e = none := by
    intro hmark hnot
    rw [Option.eq_none_iff_forall_ne_some]
    exact fun j hj => hnot (hdiscards.2 ⟨hmark, j, hj⟩)
  have hafter : ∀ {j : Fin 8} {depth limit : Nat}, x.effect = .queue j depth limit → x.mark ≠ .cut →
      s.queues[j].headInFlight = some p → (if x.mark = .cut then s.queues else x.effect.queuesAfter s.queues p e) =
        s.queues.set j (s.queues[j].afterEnd depth limit e) := by
    intro j depth limit heffect hmark hflight
    rw [if_neg hmark, heffect]
    exact if_pos hflight
  have hlost : ∀ {j : Fin 8} {depth limit : Nat}, x.effect = .queue j depth limit → discards →
      x.effect.discarded s.queues p e = some j := by
    intro j depth limit heffect hdisc
    obtain ⟨-, i, hi⟩ := hdiscards.1 hdisc
    obtain ⟨_, _, heffect', -⟩ := discarded_eq_some.1 hi
    rw [heffect] at heffect'
    cases heffect'
    exact hi
  refine ⟨_, hexec, rfl, rfl, rfl, rfl, rfl, rfl, rfl, rfl, rfl, fun hmark => ?_, fun hmark => if_neg hmark,
    fun k tag mode heffect => ⟨?_, fun hclean htake hmark htag hstate => ?_, fun hkept => ?_⟩,
    fun k depth limit heffect => ⟨?_, fun hkept => ?_, fun hmark hflight => ⟨fun hremoved => ?_,
      fun hdrained => ⟨fun haborted => ?_, fun hdisturbed hlimit => ?_⟩⟩⟩,
    fun heffect => ?_, fun hmark hdisturbed hnot => ?_, fun hcase hnot => ?_, fun k depth limit heffect hdisc => ⟨fun hmark => ?_,
      fun hmark => ?_⟩⟩
  · refine (if_pos hmark).trans ?_
    cases e <;> rfl
  · change (if x.mark = .cut then s.queues else x.effect.queuesAfter s.queues p e) = s.queues
    rw [heffect]
    exact ite_self _
  · change (if x.mark = .cut then s.mailboxes else x.effect.mailboxesAfter s.mailboxes e) = _
    rw [if_neg hmark, heffect]
    exact if_pos ⟨hclean, htake, hstate, htag⟩
  · change (if x.mark = .cut then s.mailboxes else x.effect.mailboxesAfter s.mailboxes e) = s.mailboxes
    rw [heffect]
    by_cases hmark : x.mark = .cut
    · exact if_pos hmark
    · refine (if_neg hmark).trans (if_neg ?_)
      rintro ⟨hclean, htake, hstate, htag⟩
      rcases hkept with h | h | h | h | ⟨hfresh, hstale⟩
      · exact h hclean
      · exact ReadMode.noConfusion (htake.symm.trans h)
      · exact hmark h
      · exact h htag
      · exact hstate.elim hfresh hstale
  · change (if x.mark = .cut then s.mailboxes else x.effect.mailboxesAfter s.mailboxes e) = s.mailboxes
    rw [heffect]
    exact ite_self _
  · change (if x.mark = .cut then s.queues else x.effect.queuesAfter s.queues p e) = s.queues
    rw [heffect]
    rcases hkept with hmark | hflight
    · exact if_pos hmark
    · rw [SourceEffect.queuesAfter, if_neg hflight, ite_self]
  · refine (hafter heffect hmark hflight).trans ?_
    have hcase : e = .clean ∨ s.queues[k].drained = true ∨ e = .disturbed ∧ limit < s.queues[k].attempts + 1 := hremoved
    rw [QueueRt.afterEnd, if_pos hcase]
    rfl
  · rw [haborted] at hafter ⊢
    exact (hafter heffect hmark hflight).trans (by rw [afterEnd_aborted hdrained])
  · rw [hdisturbed] at hafter ⊢
    exact (hafter heffect hmark hflight).trans (by rw [afterEnd_retried hdrained hlimit])
  · refine ⟨?_, ?_⟩
    · change (if x.mark = .cut then s.mailboxes else x.effect.mailboxesAfter s.mailboxes e) = s.mailboxes
      rw [heffect]
      exact ite_self _
    · change (if x.mark = .cut then s.queues else x.effect.queuesAfter s.queues p e) = s.queues
      rw [heffect]
      exact ite_self _
  · have hno := hnone (by rw [hmark]; decide) hnot
    rcases hcollision hmark hdisturbed with h | h
    · exact h.trans (congrArg (NoticeUnit.raiseDiscard _ _) hno)
    · refine h.trans ?_
      rw [show x.effect.discarded (s.freed p e).queues p e = none from hno]
      rfl
  · by_cases hmark : x.mark = .cut
    · exact hcut hmark
    · have hno := hnone hmark hnot
      refine (hquiet ?_).trans (congrArg (NoticeUnit.raiseDiscard _ _) hno)
      cases hm : x.mark with
      | cut => exact absurd hm hmark
      | carried => exact .inl rfl
      | none => exact .inr ⟨rfl, hcase.resolve_right fun h => h hm⟩
  · have hsome := hlost heffect hdisc
    exact (hquiet (.inl hmark)).trans (congrArg (NoticeUnit.raiseDiscard _ _) hsome)
  · have hsome := hlost heffect hdisc
    have hdisturbed : e = .disturbed := by
      obtain ⟨_, _, _, _, _, h, -⟩ := hdisc
      exact h
    have hunits := hcollision hmark hdisturbed
    rw [show x.effect.discarded (s.freed p e).queues p e = some k from hsome] at hunits
    exact hunits

end Sys2Proof.Machine
end

section
/-! The end of a check and its deferred answer (R74, R75, R143, R144). -/

set_option Elab.async false

namespace Sys2Proof.Machine

/-- The deferred answer joins the queue of its port when the port runs and has room (R144). -/
def State.responsesGiven (s : State) (id : PartyId) (reply : Reply) : PerPort (List Response) :=
  if s.portRunning id.port = true ∧ (s.responses.get id.port).length < 8 then
    s.responses.set id.port (s.responses.get id.port ++ [{ station := id.station, reply, mark := none }])
  else s.responses

/-- The deferred answer of the party with the outstanding sequence: cached, queued, no longer outstanding. -/
theorem giveDeferred_eq {s : State} {i : Fin 8} {q : Party} {n : Seq} (h : s.outstandingParty = some (i, q, n))
    (status : Status) (results : List Word) : s.giveDeferred status results = { s with
      parties := s.parties.set i (some (q.answered n status results))
      responses := s.responsesGiven q.id { status, seq := n, code := 20, results } } := by
  rw [giveDeferred_of_some h, State.responsesGiven]
  by_cases hruns : s.portRunning q.id.port = true
  · simp only [hruns, if_true, true_and, enqueue_frame]
    rfl
  · rw [if_neg hruns, if_neg fun h => hruns h.1]
    rfl

theorem responsesGiven_of_room {s : State} {id : PartyId} (hruns : s.portRunning id.port = true)
    (hroom : (s.responses.get id.port).length < 8) (reply : Reply) : s.responsesGiven id reply =
      s.responses.set id.port (s.responses.get id.port ++ [{ station := id.station, reply, mark := none }]) :=
  if_pos ⟨hruns, hroom⟩

theorem responsesGiven_of_none {s : State} {id : PartyId}
    (h : s.portRunning id.port = false ∨ 8 ≤ (s.responses.get id.port).length) (reply : Reply) :
    s.responsesGiven id reply = s.responses := by
  refine if_neg ?_
  rintro ⟨hruns, hroom⟩
  rcases h with h | h
  · simp [h] at hruns
  · omega

/-- What the end of a check sets besides the answer. -/
def State.judgedCheck (s : State) (fault : Option PlanFault) : State :=
  match fault with
  | none => s.withCheck .passed
  | some x => (s.withCheck (.failed x.1 x.2)).raiseAll (parityNotice x)

/-- The status and the fault word of the answer (R144). -/
def checkStatus : Option PlanFault → Status
  | none => .ok
  | some _ => .failed

theorem checkEnds_eq (s : State) (fault : Option PlanFault) :
    s.checkEnds fault = (s.judgedCheck fault).giveDeferred (checkStatus fault) [faultWord fault] := by
  cases fault <;> rfl

/-- The check state, and PLAN_PARITY for a PARITY fault. -/
theorem judgedCheck_eq (s : State) (fault : Option PlanFault) : ∃ c u, s.judgedCheck fault = { s with checkState := c, notices := u } ∧
    (fault = none → c = .passed ∧ u = s.notices) ∧
    (∀ code ref, fault = some (code, ref) → c = .failed code ref ∧
      u = if code = .parity then s.notices.raise .planParity (.record .staged ref) s.raiseRound else s.notices) := by
  cases fault with
  | none => exact ⟨_, _, rfl, fun _ => ⟨rfl, rfl⟩, fun _ _ h => by cases h⟩
  | some x =>
    obtain ⟨code, ref⟩ := x
    refine ⟨.failed code ref, _, raiseAll_eq _ _, (fun h => by cases h), fun code' ref' h => ?_⟩
    cases h
    refine ⟨rfl, ?_⟩
    cases code <;> rfl

theorem exec_checkComplete {s : State} {p : PartyId} {f : CheckFigures} {rb : List RecordRef} (hrel : s.resetnLow = false)
    (hc : s.checkState = .checking p f rb) : exec .checkComplete s = .next (s.checkEnds (s.staged.check f rb)) := by
  refine congrArg _ ((live_of_released hrel _).trans ?_)
  simp only [hc]

/-- Settles O23: the result, then the deferred answer. -/
theorem checkCompleteGivesTheResult : Obligations.CheckCompleteGivesTheResult := by
  intro s p f rb i q n hrel hc hparties hcheck hq hn
  obtain ⟨c, u, hjudged, hpassed, hfailed⟩ := judgedCheck_eq s (s.staged.check f rb)
  let x : State := { s with checkState := c, notices := u }
  let reply : Reply := { status := checkStatus (s.staged.check f rb), seq := n, code := 20, results := [faultWord (s.staged.check f rb)] }
  have ho : x.outstandingParty = some (i, q, n) := outstandingParty_of (s := s) hparties hcheck hq hn
  have hexec : exec .checkComplete s = .next { x with
      parties := x.parties.set i (some (q.answered n reply.status reply.results)), responses := x.responsesGiven q.id reply } := by
    rw [exec_checkComplete hrel hc, checkEnds_eq, hjudged, giveDeferred_eq ho]
  refine ⟨_, reply, hexec, rfl, rfl, fun hnone => ?_, fun code ref hsome => ?_, rfl, fun hruns hroom => ?_, fun hno => ?_, rfl, rfl,
    rfl, rfl⟩
  · obtain ⟨hstate, hnotices⟩ := hpassed hnone
    exact ⟨hstate, by simp only [reply, hnone]; rfl, by simp only [reply, hnone, faultWord], hnotices⟩
  · obtain ⟨hstate, hnotices⟩ := hfailed code ref hsome
    obtain ⟨hcode, href⟩ := faultWord_fields code ref
    exact ⟨hstate, by simp only [reply, hsome]; rfl, ⟨_, by simp only [reply, hsome], hcode, href⟩, hnotices⟩
  · exact responsesGiven_of_room (s := x) hruns hroom reply
  · exact responsesGiven_of_none (s := x) hno reply

end Sys2Proof.Machine
end

section
/-! What a row of raises leaves of the notice queue: the entries that stood still stand, and each raise shows (R165,
R166). -/

set_option Elab.async false

namespace Sys2Proof.Machine

/-- Every entry of `u` still stands in `v`, with its countdown, and an overflow is not forgotten. -/
def NoticeUnit.Extends (u v : NoticeUnit) : Prop :=
  (u.overflow = true → v.overflow = true) ∧
  ∀ e ∈ u.entries, ∃ e' ∈ v.entries, e'.id = e.id ∧ e'.kind = e.kind ∧ e'.subject = e.subject ∧ e'.countdown = e.countdown

theorem extends_refl (u : NoticeUnit) : u.Extends u := ⟨id, fun e he => ⟨e, he, rfl, rfl, rfl, rfl⟩⟩

theorem extends_trans {u v w : NoticeUnit} (huv : u.Extends v) (hvw : v.Extends w) : u.Extends w := by
  refine ⟨hvw.1 ∘ huv.1, fun e he => ?_⟩
  obtain ⟨e', he', hid, hkind, hsubject, hcount⟩ := huv.2 e he
  obtain ⟨e'', he'', hid', hkind', hsubject', hcount'⟩ := hvw.2 e' he'
  exact ⟨e'', he'', hid'.trans hid, hkind'.trans hkind, hsubject'.trans hsubject, hcount'.trans hcount⟩

theorem extends_raise (u : NoticeUnit) (k : NoticeKind) (j : Subject) (r : Round) : u.Extends (u.raise k j r) := by
  unfold NoticeUnit.raise
  split
  · refine ⟨id, fun e he => ⟨_, List.mem_map_of_mem he, ?_⟩⟩
    split <;> exact ⟨rfl, rfl, rfl, rfl⟩
  · split
    · exact ⟨id, fun e he => ⟨e, List.mem_append_left _ he, rfl, rfl, rfl, rfl⟩⟩
    · exact ⟨fun _ => rfl, fun e he => ⟨e, he, rfl, rfl, rfl, rfl⟩⟩

theorem extends_raiseEach (u : NoticeUnit) (r : Round) (l : List (NoticeKind × Subject)) : u.Extends (u.raiseEach r l) := by
  induction l generalizing u with
  | nil => exact extends_refl u
  | cons x l ih => exact extends_trans (extends_raise u x.1 x.2 r) (ih _)

theorem shows_of_extends {u v : NoticeUnit} {k : NoticeKind} {j : Subject} (h : u.Extends v) (hshows : u.Shows k j) :
    v.Shows k j := by
  rcases hshows with hfull | ⟨e, he, hkind, hsubject⟩
  · exact .inl (h.1 hfull)
  · obtain ⟨e', he', -, hkind', hsubject', -⟩ := h.2 e he
    exact .inr ⟨e', he', hkind'.trans hkind, hsubject'.trans hsubject⟩

theorem shows_raise (u : NoticeUnit) (k : NoticeKind) (j : Subject) (r : Round) : (u.raise k j r).Shows k j := by
  by_cases hstands : u.entries.any (·.same k j) = true
  · obtain ⟨e, he, hsame⟩ := List.any_eq_true.1 hstands
    obtain ⟨hkind, hsubject⟩ := Notice.same_iff.1 hsame
    exact shows_of_extends (extends_raise u k j r) (.inr ⟨e, he, hkind, hsubject⟩)
  · rw [NoticeUnit.raise, if_neg hstands]
    split
    · exact .inr ⟨_, List.mem_append_right _ (List.mem_singleton_self _), rfl, rfl⟩
    · exact .inl rfl

theorem shows_raiseEach {u : NoticeUnit} {r : Round} {l : List (NoticeKind × Subject)} {k : NoticeKind} {j : Subject}
    (h : (k, j) ∈ l) : (u.raiseEach r l).Shows k j := by
  induction l generalizing u with
  | nil => cases h
  | cons x l ih =>
    rcases List.mem_cons.1 h with rfl | h
    · exact shows_of_extends (extends_raiseEach _ r l) (shows_raise u k j r)
    · exact ih h

theorem raiseEach_append (u : NoticeUnit) (r : Round) (l m : List (NoticeKind × Subject)) :
    u.raiseEach r (l ++ m) = (u.raiseEach r l).raiseEach r m := List.foldl_append

/-! ## The countdowns (R166) -/

/-- Every countdown that is not 0 goes down by one (R166). -/
def NoticeUnit.countedDown (u : NoticeUnit) : NoticeUnit :=
  { u with entries := u.entries.map fun e => { e with countdown := satDec e.countdown } }

theorem countDown_eq (s : State) : s.countDown = { s with notices := s.notices.countedDown } := rfl

/-- The entry of a new notice is due at once, so a raise and a count come in either order (R49). -/
theorem countedDown_raise (u : NoticeUnit) (k : NoticeKind) (j : Subject) (r : Round) :
    u.countedDown.raise k j r = (u.raise k j r).countedDown := by
  have hany : u.countedDown.entries.any (·.same k j) = u.entries.any (·.same k j) := by
    simp only [NoticeUnit.countedDown, List.any_map]
    rfl
  have hids : u.countedDown.entries.map (·.id) = u.entries.map (·.id) := by
    simp [NoticeUnit.countedDown, List.map_map, Function.comp_def]
  have hlen : u.countedDown.entries.length = u.entries.length := by simp [NoticeUnit.countedDown]
  unfold NoticeUnit.raise
  rw [hany, hids, hlen]
  split
  · simp only [NoticeUnit.countedDown, List.map_map, NoticeUnit.mk.injEq, and_true]
    refine List.map_congr_left fun e _ => ?_
    have hsame : Notice.same { e with countdown := satDec e.countdown } k j = e.same k j := rfl
    simp only [Function.comp_apply, hsame]
    split <;> rfl
  · split
    · simp only [NoticeUnit.countedDown, List.map_append]
      rfl
    · rfl

theorem shows_countedDown {u : NoticeUnit} {k : NoticeKind} {j : Subject} (h : u.Shows k j) : u.countedDown.Shows k j := by
  rcases h with hfull | ⟨e, he, hkind, hsubject⟩
  · exact .inl hfull
  · exact .inr ⟨_, List.mem_map_of_mem he, hkind, hsubject⟩

theorem counted_of_extends {u v : NoticeUnit} (h : u.Extends v) : ∀ e ∈ u.entries, ∃ e' ∈ v.countedDown.entries,
    e'.id = e.id ∧ e'.kind = e.kind ∧ e'.subject = e.subject ∧ e'.countdown = satDec e.countdown := by
  intro e he
  obtain ⟨e', he', hid, hkind, hsubject, hcount⟩ := h.2 e he
  exact ⟨_, List.mem_map_of_mem he', hid, hkind, hsubject, congrArg satDec hcount⟩

end Sys2Proof.Machine
end

section
/-! An L round start (R49): each block's work and its raises told apart, and the three in any order. -/

set_option Elab.async false

namespace Sys2Proof.Machine

/-! ## Aging (R110) -/

/-- The mailboxes aged, without the raises. -/
def State.aged (s : State) : State :=
  { s with mailboxes := Vector.ofFn fun n : Fin 64 => agedUnder s.active.mailboxes[n] s.mailboxes[n] }

/-- What aging raises. -/
def State.agingRaises (s : State) : List (NoticeKind × Subject) :=
  (List.finRange 64).flatMap fun n => agingNotices n s.active.mailboxes[n] s.mailboxes[n]

/-! ## The agent (R136, R142) -/

/-- Idle rounds counted and the claim judged, without the raise. -/
def State.claimJudged (s : State) : State :=
  if s.claimAboutToExpire then (s.countIdle.withClaim none).abandonCheck else s.countIdle

/-- What the agent raises. -/
def State.agentRaises (s : State) : List (NoticeKind × Subject) :=
  if s.claimAboutToExpire then [(.claimExpired, .none)] else []

theorem findParty_countIdle (s : State) (id : PartyId) : s.countIdle.findParty id = s.findParty id := by
  refine congrArg (fun f => List.find? f (List.finRange 8)) (funext fun i => ?_)
  simp only [State.partyAt, State.countIdle, Fin.getElem_fin, Vector.getElem_ofFn]
  cases s.parties[i.val] <;> rfl

theorem holderIdle_countIdle (s : State) : s.countIdle.holderIdle = s.holderIdle.map satInc := by
  have hclaim : s.countIdle.claim = s.claim := rfl
  unfold State.holderIdle
  rw [hclaim]
  cases s.claim with
  | none => rfl
  | some id =>
    simp only [findParty_countIdle]
    cases s.findParty id with
    | none => rfl
    | some i =>
      simp only [Option.bind_some, State.countIdle, Fin.getElem_fin, Vector.getElem_ofFn, Option.map_map]
      rfl

theorem agentRound_eq (s : State) : s.agentRound = s.claimJudged.raiseAll s.agentRaises := by
  have hsettings : s.countIdle.settings = s.settings := rfl
  unfold State.agentRound State.judgeClaim State.claimJudged State.agentRaises State.claimAboutToExpire
  rw [holderIdle_countIdle]
  cases s.holderIdle with
  | none => rfl
  | some k =>
    simp only [Option.map_some, hsettings]
    by_cases hdue : s.settings.claimTimeout ≤ satInc k
    · simp only [hdue, decide_true, if_true]
      exact StepInvariant.abandonCheck_raise _ _ _
    · simp only [hdue, decide_false, if_false, Bool.false_eq_true]
      rfl

/-! ## The swap (R86) -/

/-- The banks exchanged and the outcomes reset, before the carry-over. -/
def State.exchanged (s : State) : State :=
  { s with
    active := s.staged, staged := s.active, generation := s.generation + 1
    captureOutcomes := Vector.replicate 128 none, emitOutcomes := Vector.replicate 128 none
    checkState := .unchecked }

/-- The swap without its raises. -/
def State.swapped (s : State) : State :=
  ((s.exchanged.cutWrite s.active s.staged .u).cutWrite s.active s.staged .l).carryOver s.active s.staged

/-- What the swap raises. -/
def State.swapRaises (s : State) : List (NoticeKind × Subject) := (.commitDone, .none) :: s.exchanged.carryOverNotices

theorem placeArrived_withNotices (s : State) (u : NoticeUnit) (p : Port) :
    (s.withNotices u).placeArrived p = (s.placeArrived p).withNotices u := by
  rcases writesTo_cases s p with ⟨c, n, base, capacity, spoiled, hw⟩ | hnone
  · rw [placeArrived_of_writesTo hw, placeArrived_of_writesTo (s := s.withNotices u) hw]
    rfl
  · rw [placeArrived_of_not_writes hnone, placeArrived_of_not_writes (s := s.withNotices u) hnone]

theorem cutWrite_withNotices (s : State) (u : NoticeUnit) (old new : Bank) (p : Port) :
    (s.withNotices u).cutWrite old new p = (s.cutWrite old new p).withNotices u := by
  have hcontexts : (s.withNotices u).contexts = s.contexts := rfl
  unfold State.cutWrite
  rw [hcontexts]
  split
  · rfl
  · split
    · rfl
    · exact placeArrived_withNotices s u p

theorem swap_eq (s : State) : s.swap = s.swapped.raiseAll s.swapRaises := by
  obtain ⟨st, k, hu⟩ := cutWrite_frame s.exchanged s.active s.staged .u
  obtain ⟨st', k', hl⟩ := cutWrite_frame (s.exchanged.cutWrite s.active s.staged .u) s.active s.staged .l
  have hraised : s.swap =
      (((s.exchanged.raiseAll s.swapRaises).cutWrite s.active s.staged .u).cutWrite s.active s.staged .l).carryOver
        s.active s.staged := rfl
  rw [hraised, raiseAll_eq, raiseAll_eq s.swapped]
  refine (congrArg (fun x => (State.cutWrite x s.active s.staged .l).carryOver s.active s.staged)
    (cutWrite_withNotices s.exchanged _ s.active s.staged .u)).trans ?_
  rw [cutWrite_withNotices, State.swapped, hl, hu]
  rfl

/-! ## The three blocks -/

/-- A block's work without its raises. -/
def RoundWork.quiet : RoundWork → State → State
  | .aging, s => s.aged
  | .agent, s => s.claimJudged
  | .swap, s => if s.checkState = .commitPending then s.swapped else s

/-- A block's raises, in their order. -/
def RoundWork.raises : RoundWork → State → List (NoticeKind × Subject)
  | .aging, s => s.agingRaises
  | .agent, s => s.agentRaises
  | .swap, s => if s.checkState = .commitPending then s.swapRaises else []

theorem run_eq (w : RoundWork) (s : State) : w.run s = (w.quiet s).raiseAll (w.raises s) := by
  cases w with
  | aging => rfl
  | agent => exact agentRound_eq s
  | swap =>
    rcases swapIfPending_cases s with ⟨hpending, he⟩ | ⟨hnot, he⟩
    · simp only [RoundWork.run, RoundWork.quiet, RoundWork.raises, if_pos hpending, he, swap_eq]
    · simp only [RoundWork.run, RoundWork.quiet, RoundWork.raises, if_neg hnot, he]
      rfl

/-- The agent's work says nothing of the timing, the notices, the banks and the mailboxes. -/
theorem claimJudged_frame (s : State) : ∃ ps rs c k, s.claimJudged =
    { s with parties := ps, responses := rs, checkState := c, claim := k } := by
  unfold State.claimJudged
  split
  · obtain ⟨ps, rs, c, h⟩ := abandonCheck_frame (s.countIdle.withClaim none)
    exact ⟨ps, rs, c, none, h⟩
  · exact ⟨_, _, _, _, rfl⟩

theorem abandonCheck_withNotices (s : State) (u : NoticeUnit) : (s.withNotices u).abandonCheck = s.abandonCheck.withNotices u := by
  have hcheck : (s.withNotices u).checkState = s.checkState := rfl
  unfold State.abandonCheck
  rw [hcheck]
  split
  · exact StepInvariant.giveDeferred_withNotices (s.withCheck .unchecked) u _ _
  all_goals rfl

theorem claimJudged_withNotices (s : State) (u : NoticeUnit) : (s.withNotices u).claimJudged = s.claimJudged.withNotices u := by
  have hexpires : (s.withNotices u).claimAboutToExpire = s.claimAboutToExpire := rfl
  unfold State.claimJudged
  rw [hexpires]
  split
  · exact abandonCheck_withNotices (s.countIdle.withClaim none) u
  · rfl

theorem swapped_frame (s : State) : ∃ st k, s.swapped = { s.exchanged.carryOver s.active s.staged with store := st, choice := k } := by
  obtain ⟨st, k, hu⟩ := cutWrite_frame s.exchanged s.active s.staged .u
  obtain ⟨st', k', hl⟩ := cutWrite_frame { s.exchanged with store := st, choice := k } s.active s.staged .l
  exact ⟨st', k', by rw [State.swapped, hu, hl]; rfl⟩

theorem swapped_withNotices (s : State) (u : NoticeUnit) : (s.withNotices u).swapped = s.swapped.withNotices u := by
  obtain ⟨st, k, hu⟩ := cutWrite_frame s.exchanged s.active s.staged .u
  obtain ⟨st', k', hl⟩ := cutWrite_frame (s.exchanged.cutWrite s.active s.staged .u) s.active s.staged .l
  refine (congrArg (fun x => (State.cutWrite x s.active s.staged .l).carryOver s.active s.staged)
    (cutWrite_withNotices s.exchanged u s.active s.staged .u)).trans ?_
  rw [cutWrite_withNotices, State.swapped, hl, hu]
  rfl

theorem quiet_withNotices (w : RoundWork) (s : State) (u : NoticeUnit) : w.quiet (s.withNotices u) = (w.quiet s).withNotices u := by
  cases w with
  | aging => rfl
  | agent => exact claimJudged_withNotices s u
  | swap =>
    have hcheck : (s.withNotices u).checkState = s.checkState := rfl
    unfold RoundWork.quiet
    simp only [hcheck]
    split
    · exact swapped_withNotices s u
    · rfl

theorem agentRaises_congr {s t : State} (h : t.claimAboutToExpire = s.claimAboutToExpire) : t.agentRaises = s.agentRaises := by
  rw [State.agentRaises, h, State.agentRaises]

theorem swapRaises_congr {s t : State} (ha : t.active = s.active) (hs : t.staged = s.staged) : t.swapRaises = s.swapRaises := by
  simp only [State.swapRaises, State.carryOverNotices, State.exchanged, ha, hs]

theorem raises_withNotices (w : RoundWork) (s : State) (u : NoticeUnit) : w.raises (s.withNotices u) = w.raises s := by
  cases w with
  | aging => rfl
  | agent => exact agentRaises_congr rfl
  | swap =>
    have hcheck : (s.withNotices u).checkState = s.checkState := rfl
    rw [RoundWork.raises, RoundWork.raises, hcheck, swapRaises_congr (s := s) (t := s.withNotices u) rfl rfl]

theorem quiet_timing (w : RoundWork) (s : State) : (w.quiet s).notices = s.notices ∧ (w.quiet s).lTime = s.lTime := by
  cases w with
  | aging => simp only [RoundWork.quiet, State.aged, and_self]
  | agent =>
    obtain ⟨ps, rs, c, k, h⟩ := claimJudged_frame s
    rw [RoundWork.quiet, h]
    exact ⟨rfl, rfl⟩
  | swap =>
    simp only [RoundWork.quiet]
    split
    · obtain ⟨st, k, h⟩ := swapped_frame s
      rw [h]
      exact ⟨rfl, rfl⟩
    · exact ⟨rfl, rfl⟩

/-- The work of several blocks in a row, without their raises. -/
def quietly (l : List RoundWork) (s : State) : State := l.foldl (fun s w => w.quiet s) s

/-- The raises of several blocks in a row. -/
def raisedBy : List RoundWork → State → List (NoticeKind × Subject)
  | [], _ => []
  | w :: l, s => w.raises s ++ raisedBy l (w.quiet s)

theorem raiseRound_congr {s t : State} (h : t.lTime = s.lTime) : t.raiseRound = s.raiseRound := by
  simp only [State.raiseRound, h]

theorem quietly_withNotices (l : List RoundWork) (s : State) (u : NoticeUnit) :
    quietly l (s.withNotices u) = (quietly l s).withNotices u := by
  induction l generalizing s with
  | nil => rfl
  | cons w l ih => exact (congrArg (quietly l) (quiet_withNotices w s u)).trans (ih _)

theorem raisedBy_withNotices (l : List RoundWork) (s : State) (u : NoticeUnit) : raisedBy l (s.withNotices u) = raisedBy l s := by
  induction l generalizing s with
  | nil => rfl
  | cons w l ih => rw [raisedBy, raises_withNotices, quiet_withNotices, ih, raisedBy]

theorem foldl_run (l : List RoundWork) (s : State) : l.foldl (fun s w => w.run s) s =
    (quietly l s).withNotices (s.notices.raiseEach s.raiseRound (raisedBy l s)) := by
  induction l generalizing s with
  | nil => rfl
  | cons w l ih =>
    obtain ⟨hnotices, htime⟩ := quiet_timing w s
    have hrun : w.run s = (w.quiet s).withNotices (s.notices.raiseEach s.raiseRound (w.raises s)) := by
      rw [run_eq, raiseAll_eq, hnotices, raiseRound_congr htime]
      rfl
    rw [List.foldl_cons, ih, hrun, quietly_withNotices, raisedBy_withNotices, raisedBy, raiseEach_append,
      raiseRound_congr (s := s) (t := (w.quiet s).withNotices (s.notices.raiseEach s.raiseRound (w.raises s))) htime]
    rfl

/-- An L round start: the work of the blocks in the order chosen, and their raises in that order, counted down. -/
theorem deliverLRound_eq (s : State) : ∃ o : RoundOrder, s.deliverLRound =
    { quietly (orderedWork o) { s with choice := s.choice + 1 } with
      notices := (s.notices.raiseEach s.raiseRound
        (raisedBy (orderedWork o) { s with choice := s.choice + 1 })).countedDown } := by
  refine ⟨Config.roundOrder s.choice, ?_⟩
  rw [State.deliverLRound, State.deliverIn, foldl_run]
  rfl

end Sys2Proof.Machine
end

section
/-! The work of an L round start as a whole (R49): without a commit pending the blocks do not meet; with one, aging and
the swap do. -/

set_option Elab.async false

namespace Sys2Proof.Machine

/-! ## The agent, whatever the mailboxes hold -/

theorem giveDeferred_mailboxes (s : State) (m : Vector MailboxRt 64) (status : Status) (results : List Word) :
    ({ s with mailboxes := m } : State).giveDeferred status results = { s.giveDeferred status results with mailboxes := m } := by
  cases ho : s.outstandingParty with
  | none => rw [giveDeferred_of_none ho, giveDeferred_of_none (s := { s with mailboxes := m }) ho]
  | some x =>
    obtain ⟨i, q, n⟩ := x
    rw [giveDeferred_eq ho, giveDeferred_eq (s := { s with mailboxes := m }) ho]
    rfl

theorem abandonCheck_mailboxes (s : State) (m : Vector MailboxRt 64) :
    ({ s with mailboxes := m } : State).abandonCheck = { s.abandonCheck with mailboxes := m } := by
  by_cases h : ∃ p f rb, s.checkState = .checking p f rb
  · obtain ⟨p, f, rb, hc⟩ := h
    simp only [State.abandonCheck, hc]
    exact giveDeferred_mailboxes (s.withCheck .unchecked) m _ _
  · have hnot : ∀ p f rb, s.checkState ≠ .checking p f rb := fun p f rb hc => h ⟨p, f, rb, hc⟩
    rw [abandonCheck_of_not_checking hnot, abandonCheck_of_not_checking (s := { s with mailboxes := m }) hnot]

theorem claimJudged_mailboxes (s : State) (m : Vector MailboxRt 64) :
    ({ s with mailboxes := m } : State).claimJudged = { s.claimJudged with mailboxes := m } := by
  have hexpires : ({ s with mailboxes := m } : State).claimAboutToExpire = s.claimAboutToExpire := rfl
  unfold State.claimJudged
  rw [hexpires]
  split
  · exact abandonCheck_mailboxes (s.countIdle.withClaim none) m
  · rfl

theorem abandonCheck_not_pending {s : State} (h : s.checkState ≠ .commitPending) : s.abandonCheck.checkState ≠ .commitPending := by
  unfold State.abandonCheck
  split
  · obtain ⟨ps, rs, hgive⟩ := giveDeferred_frame (s.withCheck .unchecked) .abandoned []
    rw [hgive]
    exact fun hno => by cases hno
  all_goals exact h

theorem claimJudged_not_pending {s : State} (h : s.checkState ≠ .commitPending) : s.claimJudged.checkState ≠ .commitPending := by
  unfold State.claimJudged
  split
  · exact abandonCheck_not_pending (s := s.countIdle.withClaim none) h
  · exact h

/-- Without a check in progress the agent counts idle rounds and ends the claim, and that is all. -/
theorem claimJudged_of_not_checking {s : State} (h : ∀ p f rb, s.checkState ≠ .checking p f rb) : s.claimJudged =
    { s with parties := s.countIdle.parties, claim := if s.claimAboutToExpire then none else s.claim } := by
  unfold State.claimJudged
  split
  · exact abandonCheck_of_not_checking (s := s.countIdle.withClaim none) h
  · rfl

theorem aged_checkState (s : State) : s.aged.checkState = s.checkState := by simp only [State.aged]

theorem claimAboutToExpire_congr {s t : State} (hp : t.parties = s.parties) (hclaim : t.claim = s.claim)
    (hsettings : t.settings = s.settings) : t.claimAboutToExpire = s.claimAboutToExpire := by
  have hat : ∀ id, t.partyAt id = s.partyAt id := fun id => funext fun i => by simp only [State.partyAt, hp]
  simp only [State.claimAboutToExpire, State.holderIdle, State.findParty, hat, hp, hclaim, hsettings]

theorem agentRaises_aged (s : State) : s.aged.agentRaises = s.agentRaises :=
  agentRaises_congr (claimAboutToExpire_congr (by simp only [State.aged]) (by simp only [State.aged]) (by simp only [State.aged]))

theorem agingRaises_congr {s t : State} (ha : t.active = s.active) (hm : t.mailboxes = s.mailboxes) :
    t.agingRaises = s.agingRaises := by
  simp only [State.agingRaises, ha, hm]

theorem aged_claimJudged (s : State) : s.claimJudged.aged = { s.claimJudged with mailboxes := s.aged.mailboxes } := by
  obtain ⟨ps, rs, c, k, h⟩ := claimJudged_frame s
  rw [h]
  rfl

theorem agingRaises_claimJudged (s : State) : s.claimJudged.agingRaises = s.agingRaises := by
  obtain ⟨ps, rs, c, k, h⟩ := claimJudged_frame s
  rw [h]
  exact agingRaises_congr rfl rfl

theorem swap_quiet_of_not {s : State} (h : s.checkState ≠ .commitPending) : RoundWork.swap.quiet s = s := if_neg h

theorem swap_raises_of_not {s : State} (h : s.checkState ≠ .commitPending) : RoundWork.swap.raises s = [] := if_neg h

/-! ## Without a commit pending -/

/-- The mailboxes age, and the agent does its part. -/
theorem quietly_of_not_pending (o : RoundOrder) {s : State} (h : s.checkState ≠ .commitPending) :
    quietly (orderedWork o) s = { s.claimJudged with mailboxes := s.aged.mailboxes } := by
  have hjudged := claimJudged_not_pending h
  have hagent : s.aged.claimJudged = { s.claimJudged with mailboxes := s.aged.mailboxes } := claimJudged_mailboxes s _
  have hswap : ∀ t : State, t.checkState ≠ .commitPending → RoundWork.swap.quiet t = t := fun t => swap_quiet_of_not
  have hagentFirst : RoundWork.aging.quiet (RoundWork.agent.quiet s) = _ := aged_claimJudged s
  have hagingFirst : RoundWork.agent.quiet (RoundWork.aging.quiet s) = _ := hagent
  have haged : (RoundWork.aging.quiet s).checkState ≠ .commitPending := by
    rw [RoundWork.quiet, aged_checkState]
    exact h
  cases o <;> simp only [quietly, orderedWork, List.foldl_cons, List.foldl_nil]
  · exact (congrArg RoundWork.swap.quiet hagingFirst).trans (hswap _ hjudged)
  · rw [hswap _ haged, hagingFirst]
  · exact (congrArg RoundWork.swap.quiet hagentFirst).trans (hswap _ hjudged)
  · rw [hswap (RoundWork.agent.quiet s) hjudged, hagentFirst]
  · rw [hswap _ h, hagingFirst]
  · rw [hswap _ h, hagentFirst]

/-- Aging raises before the agent or after it. -/
theorem raisedBy_of_not_pending (o : RoundOrder) {s : State} (h : s.checkState ≠ .commitPending) :
    raisedBy (orderedWork o) s = s.agingRaises ++ s.agentRaises ∨ raisedBy (orderedWork o) s = s.agentRaises ++ s.agingRaises := by
  have hjudged := claimJudged_not_pending h
  have hagent : RoundWork.agent.raises (RoundWork.aging.quiet s) = s.agentRaises := agentRaises_aged s
  have haging : RoundWork.aging.raises (RoundWork.agent.quiet s) = s.agingRaises := agingRaises_claimJudged s
  have hagingOnly : RoundWork.aging.raises s = s.agingRaises := rfl
  have hagentOnly : RoundWork.agent.raises s = s.agentRaises := rfl
  have hagentFirst : (RoundWork.aging.quiet (RoundWork.agent.quiet s)).checkState ≠ .commitPending := by
    rw [RoundWork.quiet, aged_checkState]
    exact hjudged
  have hagingFirst : (RoundWork.agent.quiet (RoundWork.aging.quiet s)).checkState ≠ .commitPending :=
    claimJudged_not_pending (s := s.aged) (by rwa [aged_checkState])
  have haged : (RoundWork.aging.quiet s).checkState ≠ .commitPending := by
    rw [RoundWork.quiet, aged_checkState]
    exact h
  have hjudged' : (RoundWork.agent.quiet s).checkState ≠ .commitPending := hjudged
  cases o <;> simp only [orderedWork, raisedBy, List.append_nil]
  · rw [hagent, hagingOnly, swap_raises_of_not hagingFirst, List.append_nil]
    exact .inl rfl
  · rw [swap_raises_of_not haged, swap_quiet_of_not haged, hagent, hagingOnly]
    exact .inl rfl
  · rw [haging, hagentOnly, swap_raises_of_not hagentFirst, List.append_nil]
    exact .inr rfl
  · rw [swap_raises_of_not hjudged', swap_quiet_of_not hjudged', haging, hagentOnly]
    exact .inr rfl
  · rw [swap_raises_of_not h, swap_quiet_of_not h, hagent, hagingOnly]
    exact .inl rfl
  · rw [swap_raises_of_not h, swap_quiet_of_not h, haging, hagentOnly]
    exact .inr rfl

end Sys2Proof.Machine
end

section
/-! Every command that starts an L round (R42, R46 to R49): the record set, TIE_GAINED from TYING, and the work of the
blocks. -/

set_option Elab.async false

namespace Sys2Proof.Machine

theorem quietly_timing (l : List RoundWork) (s : State) : (quietly l s).notices = s.notices ∧ (quietly l s).lTime = s.lTime := by
  induction l generalizing s with
  | nil => exact ⟨rfl, rfl⟩
  | cons w l ih =>
    obtain ⟨hnotices, htime⟩ := ih (w.quiet s)
    obtain ⟨hnotices', htime'⟩ := quiet_timing w s
    exact ⟨hnotices.trans hnotices', htime.trans htime'⟩

/-- The state after an L round start on `x`: the work in the order `o`, the raises `l` of L round `n`, and the count. -/
def State.roundTaken (x : State) (o : RoundOrder) (n : Round) (l : List (NoticeKind × Subject)) : State :=
  { quietly (orderedWork o) x with notices := (x.notices.raiseEach n l).countedDown }

theorem deliverLRound_taken (s : State) : ∃ o, s.deliverLRound =
    ({ s with choice := s.choice + 1 } : State).roundTaken o s.raiseRound
      (raisedBy (orderedWork o) { s with choice := s.choice + 1 }) := deliverLRound_eq s

/-- A raise before the round start is the first of its raises. -/
theorem roundTaken_raise (x : State) (o : RoundOrder) (n : Round) (l : List (NoticeKind × Subject)) (k : NoticeKind)
    (j : Subject) : (x.withNotices (x.notices.raise k j n)).roundTaken o n l = x.roundTaken o n ((k, j) :: l) := by
  rw [State.roundTaken, quietly_withNotices]
  rfl

/-- A raise after the round start is the last of its raises: the new entry is due, so the count leaves it (R49). -/
theorem raise_roundTaken (x : State) (o : RoundOrder) (l : List (NoticeKind × Subject)) (k : NoticeKind) (j : Subject) :
    (x.roundTaken o x.raiseRound l).raise k j = x.roundTaken o x.raiseRound (l ++ [(k, j)]) := by
  have hround : (x.roundTaken o x.raiseRound l).raiseRound = x.raiseRound :=
    raiseRound_congr (quietly_timing (orderedWork o) x).2
  rw [raise_eq, hround, State.roundTaken, State.roundTaken, raiseEach_append]
  refine (congrArg (State.withNotices (quietly (orderedWork o) x)) ?_)
  exact countedDown_raise _ k j _

/-- The raises of the blocks, with TIE_GAINED before or after them where port L was TYING (R47, R165). -/
def TiedRaises (tying : Prop) (own l : List (NoticeKind × Subject)) : Prop :=
  (¬tying ∧ l = own) ∨ (tying ∧ (l = (.tieGained, .none) :: own ∨ l = own ++ [(.tieGained, .none)]))

theorem mem_of_tiedRaises {tying : Prop} {own l : List (NoticeKind × Subject)} (h : TiedRaises tying own l)
    {x : NoticeKind × Subject} (hx : x ∈ own) : x ∈ l := by
  rcases h with ⟨-, rfl⟩ | ⟨-, rfl | rfl⟩
  · exact hx
  · exact List.mem_cons_of_mem _ hx
  · exact List.mem_append_left _ hx

theorem tieGained_of_tiedRaises {tying : Prop} {own l : List (NoticeKind × Subject)} (h : TiedRaises tying own l)
    (htying : tying) : (NoticeKind.tieGained, Subject.none) ∈ l := by
  rcases h with ⟨hno, -⟩ | ⟨-, rfl | rfl⟩
  · exact absurd htying hno
  · exact List.mem_cons_self
  · exact List.mem_append_right _ (List.mem_singleton_self _)

/-- The record set and the round start delivered, with TIE_GAINED from TYING. -/
def State.beginTaken (y : State) (was : LState) : State :=
  if was = .tying then either (·.raise .tieGained .none) State.deliverLRound y else y.deliverLRound

theorem beginTaken_eq {y : State} {n : Round} (hround : y.raiseRound = n) (was : LState) : ∃ o k l,
    y.beginTaken was = ({ y with choice := k } : State).roundTaken o n l ∧
    TiedRaises (was = .tying) (raisedBy (orderedWork o) { y with choice := k }) l := by
  subst hround
  by_cases htying : was = .tying
  · rw [State.beginTaken, if_pos htying]
    let x : State := { y with choice := y.choice + 1 + 1 }
    rcases either_cases (·.raise .tieGained .none) State.deliverLRound y with he | he
    · obtain ⟨o, hdeliver⟩ := deliverLRound_taken
        (({ y with choice := y.choice + 1 } : State).withNotices (y.notices.raise .tieGained .none y.raiseRound))
      refine ⟨o, y.choice + 1 + 1, _, he.trans ((hdeliver.trans ?_).trans (roundTaken_raise x o y.raiseRound _ _ _)),
        .inr ⟨htying, .inl rfl⟩⟩
      exact congrArg (State.roundTaken _ o y.raiseRound) (raisedBy_withNotices (orderedWork o) x _)
    · obtain ⟨o, hdeliver⟩ := deliverLRound_taken { y with choice := y.choice + 1 }
      refine ⟨o, y.choice + 1 + 1, _, he.trans ?_, .inr ⟨htying, .inr rfl⟩⟩
      exact (congrArg (State.raise · .tieGained .none) hdeliver).trans (raise_roundTaken x o _ _ _)
  · rw [State.beginTaken, if_neg htying]
    obtain ⟨o, hdeliver⟩ := deliverLRound_taken y
    exact ⟨o, y.choice + 1, _, hdeliver, .inl ⟨htying, rfl⟩⟩

theorem takeAlignment_eq (s : State) (a : Alignment) :
    s.takeAlignment a = (s.beginLRound .tied a.round).beginTaken s.lTime.state := rfl

/-- What the state shows when the blocks of an L round start begin: the record set, and of a slot end also what the empty
slot recorded. -/
def State.RoundBegun (s : State) (c : Instr) (st : LState) (n : Round) (x : State) : Prop :=
  ∃ flags co u k, x = { s with lTime := .roundStarted st n, slotFlags := flags, captureOutcomes := co, notices := u, choice := k } ∧
    (c ≠ .slotEnd .l → co = s.captureOutcomes ∧ u = s.notices) ∧ (s.ActiveSound → u = s.notices) ∧ s.notices.Extends u

theorem captureEmpty_raises (s : State) (p : Port) (k : Nat) (r : Round) : ∃ co u,
    s.captureEmpty p k r = { s with captureOutcomes := co, notices := u } ∧ (s.ActiveSound → u = s.notices) ∧
    s.notices.Extends u := by
  have hread : ∃ u, s.readCaptures = { s with notices := u } ∧ (s.ActiveSound → u = s.notices) ∧ s.notices.Extends u := by
    refine ⟨_, raiseAll_eq s _, fun hsound => ?_, extends_raiseEach _ _ _⟩
    exact congrArg State.notices ((raiseAll_eq s _).symm.trans (readCaptures_of_sound hsound))
  obtain ⟨u, hframe, hsound, hext⟩ := hread
  unfold State.captureEmpty
  dsimp only
  split
  · exact ⟨s.captureOutcomes, u, hframe, hsound, hext⟩
  · exact ⟨_, u, by rw [hframe]; rfl, hsound, hext⟩

theorem slotPassedEmpty_raises (s : State) (p : Port) : ∃ co u,
    s.slotPassedEmpty p = { s with captureOutcomes := co, notices := u } ∧ (s.ActiveSound → u = s.notices) ∧
    s.notices.Extends u := by
  unfold State.slotPassedEmpty
  split
  · split
    · exact captureEmpty_raises s p _ _
    · exact ⟨_, _, rfl, fun _ => rfl, extends_refl _⟩
  all_goals exact ⟨_, _, rfl, fun _ => rfl, extends_refl _⟩

/-- A held alignment taken at the end of the last slot (R46, R47). -/
theorem exec_slotEnd_held {s : State} {a : Alignment} (hrel : s.resetnLow = false) (hslot : s.lTime.slot.isSome = true)
    (hlast : s.lInUse.slotCount ≤ s.lTime.lastSlot) (htx : s.tx.l = none) (hrx : s.rx.l = none)
    (ha : s.lTime.pending = some a) (hheld : a.held = true) (hstate : s.lTime.state = .tying ∨ s.lTime.state = .tied) :
    ∃ x, s.RoundBegun (.slotEnd .l) .tied a.round x ∧ exec (.slotEnd .l) s = .next (x.beginTaken s.lTime.state) := by
  obtain ⟨co, u, hpassed, hsound, hext⟩ := slotPassedEmpty_raises s .l
  have hmay : s.slotMayEnd .l = true := by
    have hcurrent : (s.currentSlot .l).isSome = true := hslot
    have htx' : s.tx.get .l = none := htx
    have hrx' : s.rx.get .l = none := hrx
    simp [State.slotMayEnd, hcurrent, htx', hrx']
  have htied : s.tyingOrTied = true := by rcases hstate with h | h <;> simp [State.tyingOrTied, h]
  refine ⟨{ s with
    lTime := .roundStarted .tied a.round, slotFlags := (s.slotFlags.set .l .clear).set .l .clear, captureOutcomes := co, notices := u },
    ⟨_, co, u, s.choice, rfl, fun h => absurd rfl h, hsound, hext⟩, ?_⟩
  refine congrArg _ (((live_of_released hrel _).trans (if_pos hmay)).trans ?_)
  have hend : s.slotCount .l ≤ s.lTime.lastSlot := hlast
  rw [State.slotEnds, if_pos (by simpa using hend), hpassed]
  unfold State.lRoundEnds
  simp only [State.leaveSlot, State.withLTime, State.withFlags, ha]
  refine (if_pos ?_).trans rfl
  rw [hheld]
  exact htied

theorem takeLRound_true (s : State) {f : State → State} (h : s.nextLRound = some f) : s.takeLRound true = f s := by
  simp only [State.takeLRound, h]
  rfl

theorem nextLRound_untied {s : State} (hidle : s.lTime.running = false) (hstate : s.lTime.state = .untied) :
    s.nextLRound = some State.untiedRound := by
  simp only [State.nextLRound, hidle, hstate]
  rfl

theorem nextLRound_aligned {s : State} {a : Alignment} (hidle : s.lTime.running = false)
    (hstate : s.lTime.state = .tying ∨ s.lTime.state = .tied) (ha : s.lTime.pending = some a) :
    s.nextLRound = some (·.takeAlignment a) := by
  rcases hstate with h | h <;> simp only [State.nextLRound, hidle, h, ha] <;> rfl

theorem begun_self (s : State) (c : Instr) (st : LState) (n : Round) : s.RoundBegun c st n (s.beginLRound st n) :=
  ⟨_, s.captureOutcomes, s.notices, s.choice, rfl, fun _ => ⟨rfl, rfl⟩, fun _ => rfl, extends_refl _⟩

theorem startsLRound_begins {s : State} {c : Instr} {st : LState} {n : Round} (h : s.StartsLRound c st n) :
    ∃ x, s.RoundBegun c st n x ∧ exec c s = .next (x.beginTaken s.lTime.state) := by
  obtain ⟨hrel, ⟨rfl, hidle, hstate, rfl, m, hm, rfl⟩ | ⟨hstate, rfl, a, ha, rfl, ⟨rfl, hidle⟩ | ⟨rfl, hidle, hheld⟩ |
    ⟨rfl, hheld, hslot, hlast, htx, hrx⟩⟩⟩ := h
  · refine ⟨_, begun_self s _ _ _, congrArg _ ((live_of_released hrel _).trans ?_)⟩
    rw [takeLRound_true s (nextLRound_untied hidle hstate), State.untiedRound, hm, hstate]
    rfl
  · refine ⟨_, begun_self s _ _ _, congrArg _ ((live_of_released hrel _).trans ?_)⟩
    rw [takeLRound_true s (nextLRound_aligned hidle hstate ha), takeAlignment_eq]
  · refine ⟨_, begun_self s _ _ _, congrArg _ ((live_of_released hrel _).trans ?_)⟩
    have htied : s.tyingOrTied = true := by rcases hstate with h | h <;> simp [State.tyingOrTied, h]
    simp only [ha, htied, hheld, State.alignmentFallsDue, hidle]
    rfl
  · exact exec_slotEnd_held hrel hslot hlast htx hrx ha hheld hstate

/-- Every L round start: the state begun, the blocks in some order, TIE_GAINED from TYING, the count. -/
theorem startsLRound_taken {s : State} {c : Instr} {st : LState} {n : Round} (h : s.StartsLRound c st n) :
    ∃ x o l, s.RoundBegun c st n x ∧ exec c s = .next (x.roundTaken o n l) ∧
      TiedRaises (s.lTime.state = .tying) (raisedBy (orderedWork o) x) l := by
  obtain ⟨x, ⟨flags, co, u, k, rfl, hothers, hsound, hext⟩, hexec⟩ := startsLRound_begins h
  have hst : st ≠ .off := by
    obtain ⟨-, ⟨-, -, -, rfl, -⟩ | ⟨-, rfl, -⟩⟩ := h <;> decide
  obtain ⟨o, k', l, htaken, hraises⟩ := beginTaken_eq (n := n) (y := { s with
    lTime := .roundStarted st n, slotFlags := flags, captureOutcomes := co, notices := u, choice := k }) (if_neg hst) s.lTime.state
  exact ⟨_, o, l, ⟨flags, co, u, k', rfl, hothers, hsound, hext⟩, hexec.trans (congrArg _ htaken), hraises⟩

end Sys2Proof.Machine
end

section
/-! L round starts without a commit pending (R42, R46 to R49, R81, R110, R136, R142, R144, R166). -/

set_option Elab.async false

namespace Sys2Proof.Machine

/-! ## One aging -/

/-- A value ages, and goes STALE at the limit of its definition (R110). -/
theorem agedUnder_live {x : Stored MailboxDef} {m : MailboxRt} {d : MailboxDef} (hd : x.fields = some d) (hgood : x.parityGood = true)
    (hlive : m.state = .fresh ∨ m.state = .stale ∨ m.state = .spent) : agedUnder x m = { m with
      age := satInc m.age
      state := if m.state = .fresh ∧ d.staleLimit ≠ 0 ∧ d.staleLimit ≤ satInc m.age then .stale else m.state } := by
  simp only [agedUnder, hgood, hd, if_true]
  unfold MailboxRt.aged
  rw [if_pos (by rcases hlive with h | h | h <;> simp [h])]
  dsimp only
  by_cases hstale : m.state = .fresh ∧ d.staleLimit ≠ 0 ∧ d.staleLimit ≤ satInc m.age
  · obtain ⟨hfresh, hlimit, hreached⟩ := hstale
    rw [if_pos (by simp only [hfresh, decide_true, Bool.true_and, Bool.and_eq_true, decide_eq_true_eq]; exact ⟨hlimit, hreached⟩), if_pos ⟨hfresh, hlimit, hreached⟩]
  · rw [if_neg (by simpa [and_assoc] using hstale), if_neg hstale]

theorem agedUnder_still {x : Stored MailboxDef} {m : MailboxRt}
    (h : x.fields = none ∨ x.parityGood = false ∨ m.state = .empty ∨ m.state = .faulted) : agedUnder x m = m := by
  unfold agedUnder
  split
  · rename_i hgood
    split
    · rename_i d hd
      unfold MailboxRt.aged
      refine if_neg ?_
      rcases h with h | h | h | h
      · simp [hd] at h
      · simp [hgood] at h
      · simp [h]
      · simp [h]
    · rfl
  · rfl

/-- Without a FRESH mailbox and with every definition sound, aging raises nothing. -/
theorem agingRaises_of_quiet {s : State} (hsound : s.ActiveSound) (hfresh : ∀ k : Fin 64, s.mailboxes[k].state ≠ .fresh) :
    s.agingRaises = [] := by
  refine List.flatMap_eq_nil_iff.2 fun n _ => ?_
  have hgood : s.active.mailboxes[n].parityGood = true := hsound (.mailbox n)
  unfold agingNotices
  rw [if_pos hgood]
  split
  · exact if_neg (by rw [decide_eq_false (hfresh n), Bool.and_false, Bool.false_and]; simp)
  · rfl

/-! ## The claim -/

theorem holderIdle_eq_some {s : State} {k : BitVec 8} (h : s.holderIdle = some k) :
    ∃ (i : Fin 8) (q : Party), s.parties[i] = some q ∧ s.claim = some q.id ∧ q.idle = k := by
  unfold State.holderIdle at h
  split at h
  · cases h
  · rename_i id hclaim
    obtain ⟨i, hi, hidle⟩ := Option.bind_eq_some_iff.1 h
    obtain ⟨q, hq, rfl⟩ := partyAt_iff.1 (List.find?_some hi)
    rw [hq] at hidle
    exact ⟨i, q, hq, hclaim, Option.some.inj hidle⟩

theorem not_expiring {s : State} (h : ∀ (i : Fin 8) (q : Party), s.parties[i] = some q → s.claim = some q.id →
    satInc q.idle < s.settings.claimTimeout) : s.claimAboutToExpire = false := by
  unfold State.claimAboutToExpire
  split
  · rename_i k hk
    obtain ⟨i, q, hq, hclaim, rfl⟩ := holderIdle_eq_some hk
    simpa using h i q hq hclaim
  · rfl

theorem claimAboutToExpire_holder {s : State} {i : Fin 8} {q : Party} (hs : s.PartiesLawful) (hq : s.parties[i] = some q)
    (hclaim : s.claim = some q.id) : s.claimAboutToExpire = decide (s.settings.claimTimeout ≤ satInc q.idle) := by
  have hholder : s.holderIdle = some q.idle := by
    simp only [State.holderIdle, hclaim, findParty_of hs hq rfl, Option.bind_some, hq, Option.map_some]
  simp only [State.claimAboutToExpire, hholder]

/-! ## What stands at the round start -/

section
variable {s x : State} {c : Instr} {st : LState} {n : Round} (h : s.RoundBegun c st n x)
include h

theorem expires_begun : x.claimAboutToExpire = s.claimAboutToExpire := by
  obtain ⟨flags, co, u, k, rfl, -⟩ := h
  exact claimAboutToExpire_congr rfl rfl rfl

theorem checkState_begun : x.checkState = s.checkState := by
  obtain ⟨flags, co, u, k, rfl, -⟩ := h
  rfl

theorem parties_begun : x.parties = s.parties := by
  obtain ⟨flags, co, u, k, rfl, -⟩ := h
  rfl

theorem responses_begun : x.responses = s.responses := by
  obtain ⟨flags, co, u, k, rfl, -⟩ := h
  rfl

theorem partiesLawful_begun (hs : s.PartiesLawful) : x.PartiesLawful := by
  obtain ⟨flags, co, u, k, rfl, -⟩ := h
  exact hs

theorem checkLawful_begun (hs : s.CheckLawful) : x.CheckLawful := by
  obtain ⟨flags, co, u, k, rfl, -⟩ := h
  exact hs

theorem agingRaises_begun : x.agingRaises = s.agingRaises := by
  obtain ⟨flags, co, u, k, rfl, -⟩ := h
  exact agingRaises_congr rfl rfl

theorem raised_extends (l : List (NoticeKind × Subject)) : s.notices.Extends (x.notices.raiseEach n l) := by
  obtain ⟨flags, co, u, k, rfl, -, -, hext⟩ := h
  exact extends_trans hext (extends_raiseEach u n l)

/-- Port L runs before the round start and after it. -/
theorem portRunning_begun (hstarts : s.StartsLRound c st n) (p : Port) : x.portRunning p = s.portRunning p := by
  obtain ⟨flags, co, u, k, rfl, -⟩ := h
  cases p with
  | u => rfl
  | l =>
    have hruns : s.lTime.state ≠ .off ∧ st ≠ .off := by
      obtain ⟨-, ⟨-, -, hstate, rfl, -⟩ | ⟨hstate | hstate, rfl, -⟩⟩ := hstarts <;> rw [hstate] <;> exact ⟨by decide, by decide⟩
    exact (decide_eq_true hruns.2).trans (decide_eq_true hruns.1).symm

end

theorem roundTaken_notices (x : State) (o : RoundOrder) (n : Round) (l : List (NoticeKind × Subject)) :
    (x.roundTaken o n l).notices = (x.notices.raiseEach n l).countedDown := rfl

theorem shows_roundTaken {x : State} {o : RoundOrder} {n : Round} {l : List (NoticeKind × Subject)} {k : NoticeKind} {j : Subject}
    (h : (k, j) ∈ l) : (x.roundTaken o n l).notices.Shows k j := shows_countedDown (shows_raiseEach h)

/-- Without a commit pending and with no claim that ends. -/
theorem roundTaken_plain {x : State} (o : RoundOrder) (n : Round) (l : List (NoticeKind × Subject))
    (hpending : x.checkState ≠ .commitPending) (hclaim : x.claimAboutToExpire = false) : x.roundTaken o n l =
      { x with parties := x.countIdle.parties, mailboxes := x.aged.mailboxes, notices := (x.notices.raiseEach n l).countedDown } := by
  have hjudged : x.claimJudged = x.countIdle := by rw [State.claimJudged, hclaim]; rfl
  rw [State.roundTaken, quietly_of_not_pending o hpending, hjudged]
  rfl

theorem countIdle_get (s : State) (i : Fin 8) : s.countIdle.parties[i] = s.parties[i].map fun q => { q with idle := satInc q.idle } := by
  rw [State.countIdle, Fin.getElem_fin, Vector.getElem_ofFn]

theorem aged_get (s : State) (k : Fin 64) : s.aged.mailboxes[k] = agedUnder s.active.mailboxes[k] s.mailboxes[k] := by
  rw [State.aged, Fin.getElem_fin, Vector.getElem_ofFn]

/-- Settles O19: the round start with the work of aging and the agent. -/
theorem lRoundStartAgesAndCounts : Obligations.LRoundStartAgesAndCounts := by
  intro s c st n hstarts hpending hidle
  obtain ⟨x, o, l, hbegun, hexec, hraises⟩ := startsLRound_taken hstarts
  have htaken := roundTaken_plain o n l (x := x) (by rwa [checkState_begun hbegun])
    (by rw [expires_begun hbegun]; exact not_expiring hidle)
  have hext := raised_extends hbegun l
  obtain ⟨flags, co, u, k, rfl, hothers, -, -⟩ := hbegun
  refine ⟨_, hexec.trans (congrArg _ htaken), rfl, fun k d hd hgood hlive => ?_, fun k hstill => ?_, fun i => countIdle_get s i,
    counted_of_extends hext, fun htying => ?_, rfl, rfl, rfl, rfl, rfl, rfl, rfl, rfl, rfl, rfl, rfl, rfl, fun hc => ?_, rfl⟩
  · exact (aged_get s k).trans (agedUnder_live hd hgood hlive)
  · exact (aged_get s k).trans (agedUnder_still hstill)
  · exact shows_countedDown (shows_raiseEach (tieGained_of_tiedRaises hraises htying))
  · exact (hothers hc).1

/-! ## The end of the claim (R142) -/

/-- An L round start that another command stands for. -/
theorem takeLRound_false (s : State) : s.takeLRound false = s := by
  unfold State.takeLRound
  split
  · exact if_neg Bool.false_ne_true
  · rfl

theorem exec_of_due {s : State} {c : Instr} {b : Bool} (hrel : s.resetnLow = false)
    (hc : exec c s = .next (s.takeLRound b)) :
    (b = true → exec c s = exec .lRoundStart s) ∧ (b = false → exec c s = .next s) := by
  rw [hc]
  refine ⟨?_, ?_⟩
  · rintro rfl
    exact congrArg _ (live_of_released hrel (·.takeLRound true)).symm
  · rintro rfl
    rw [takeLRound_false]

/-- The claim ends with no check in progress. -/
theorem claimJudged_of_expiring {s : State} (hexpires : s.claimAboutToExpire = true) :
    s.claimJudged = ({ s with parties := s.countIdle.parties, claim := none } : State).abandonCheck := by
  rw [State.claimJudged, hexpires]
  rfl

theorem outstandingParty_countIdle {s : State} {i : Fin 8} {q : Party} {m : Seq} (hs : s.PartiesLawful) (hc : s.CheckLawful)
    (hq : s.parties[i] = some q) (hm : q.outstanding = some m) :
    ({ s with parties := s.countIdle.parties, claim := none } : State).outstandingParty = some (i, { q with idle := satInc q.idle }, m) := by
  have hget := countIdle_get s
  refine outstandingParty_of_unique ((hget i).trans (by rw [hq]; rfl)) hm fun j y m' hy hm' => ?_
  obtain ⟨z, hz, rfl⟩ := Option.map_eq_some_iff.1 ((hget j).symm.trans hy)
  exact outstanding_unique hs hc hq hm hz hm'

theorem responsesGiven_congr {s t : State} (hu : t.uTime = s.uTime) (hl : t.lTime = s.lTime) (hr : t.responses = s.responses)
    (id : PartyId) (reply : Reply) : t.responsesGiven id reply = s.responsesGiven id reply := by
  simp only [State.responsesGiven, portRunning_congr hu hl, hr]

theorem responsesGiven_begun {s x : State} {c : Instr} {st : LState} {n : Round} (h : s.RoundBegun c st n x)
    (hstarts : s.StartsLRound c st n) (id : PartyId) (reply : Reply) : x.responsesGiven id reply = s.responsesGiven id reply := by
  simp only [State.responsesGiven, portRunning_begun h hstarts, responses_begun h]

theorem abandonCheck_claim (s : State) : s.abandonCheck.claim = s.claim := by
  obtain ⟨ps, rs, c, h⟩ := abandonCheck_frame s
  rw [h]

/-- The claim ends and the check in progress is abandoned (R81, R144). -/
theorem claimJudged_abandons {s : State} {i : Fin 8} {q : Party} {m : Seq} {p : PartyId} {f : CheckFigures} {rb : List RecordRef}
    (hs : s.PartiesLawful) (hc : s.CheckLawful) (hq : s.parties[i] = some q) (hm : q.outstanding = some m)
    (hchecking : s.checkState = .checking p f rb) (hexpires : s.claimAboutToExpire = true) : s.claimJudged = { s with
      claim := none, checkState := .unchecked
      parties := s.countIdle.parties.set i (some (({ q with idle := satInc q.idle } : Party).answered m .abandoned []))
      responses := s.responsesGiven q.id { status := .abandoned, seq := m, code := 20, results := [] } } := by
  obtain ⟨habandon, houtstanding⟩ := abandonCheck_of_checking (s := { s with parties := s.countIdle.parties, claim := none }) hchecking
    (outstandingParty_countIdle hs hc hq hm)
  have hgiven := responsesGiven_congr (s := s) 
    (t := { s with parties := s.countIdle.parties, claim := none, checkState := .unchecked }) rfl rfl rfl
  rw [claimJudged_of_expiring hexpires, habandon, giveDeferred_eq houtstanding, State.withCheck, hgiven]

theorem not_pending_of_checking {s : State} {p : PartyId} {f : CheckFigures} {rb : List RecordRef}
    (h : s.checkState = .checking p f rb) : s.checkState ≠ .commitPending := by
  rw [h]
  exact fun hno => by cases hno

theorem claimJudged_claim {s : State} (hexpires : s.claimAboutToExpire = true) : s.claimJudged.claim = none := by
  rw [claimJudged_of_expiring hexpires, abandonCheck_claim]

theorem roundTaken_quiet {x : State} (o : RoundOrder) (n : Round) (l : List (NoticeKind × Subject))
    (hpending : x.checkState ≠ .commitPending) : x.roundTaken o n l =
      { x.claimJudged with mailboxes := x.aged.mailboxes, notices := (x.notices.raiseEach n l).countedDown } := by
  rw [State.roundTaken, quietly_of_not_pending o hpending]

theorem agentRaises_expiring {s : State} (hexpires : s.claimAboutToExpire = true) :
    s.agentRaises = [(.claimExpired, .none)] := by
  rw [State.agentRaises, hexpires]
  rfl

theorem claimExpired_raised {x : State} (o : RoundOrder) (hpending : x.checkState ≠ .commitPending)
    (hexpires : x.claimAboutToExpire = true) : (NoticeKind.claimExpired, Subject.none) ∈ raisedBy (orderedWork o) x := by
  rcases raisedBy_of_not_pending o hpending with h | h <;> rw [h, agentRaises_expiring hexpires] <;> simp

/-- Settles O20: the claim ends with the round start, and a check in progress with it. -/
theorem claimTimeoutFreesTheClaim : Obligations.ClaimTimeoutFreesTheClaim := by
  intro s c st n i q hstarts hpending hparties hq hclaim run
  have hrel : s.resetnLow = false := hstarts.1
  have hholder := claimAboutToExpire_holder hparties hq hclaim
  obtain ⟨hdue, hnot⟩ := exec_of_due (c := .claimTimeout) hrel (congrArg _ (live_of_released hrel _))
  obtain ⟨x, o, l, hbegun, hexec, hraises⟩ := startsLRound_taken hstarts
  have hcheckState := checkState_begun hbegun
  have hresponses := responses_begun hbegun
  have hxq : x.parties[i] = some q := by rw [parties_begun hbegun, hq]
  have hxpending : x.checkState ≠ .commitPending := by rwa [hcheckState]
  refine ⟨fun hreached => ⟨fun hc => by rw [hc]; exact hdue (by rw [hholder]; exact decide_eq_true hreached), ?_⟩,
    fun hbelow => ⟨fun _ => hnot (by rw [hholder]; simpa using hbelow), ?_⟩⟩
  · have hexpires : x.claimAboutToExpire = true := by
      rw [expires_begun hbegun, hholder]
      exact decide_eq_true hreached
    have hshows : (x.notices.raiseEach n l).countedDown.Shows .claimExpired .none :=
      shows_countedDown (shows_raiseEach (mem_of_tiedRaises hraises (claimExpired_raised o hxpending hexpires)))
    refine ⟨_, hexec.trans (congrArg _ (roundTaken_quiet o n l hxpending)), ?_, hshows, ?_, ?_, ?_⟩
    · have hclaimless := claimJudged_claim hexpires
      exact hclaimless
    · intro hsound hfresh
      have howned : raisedBy (orderedWork o) x = [(.claimExpired, .none)] := by
        have hnone : x.agingRaises = [] := (agingRaises_begun hbegun).trans (agingRaises_of_quiet hsound hfresh)
        rcases raisedBy_of_not_pending o hxpending with h | h <;> rw [h, hnone, agentRaises_expiring hexpires] <;> rfl
      obtain ⟨flags, co, u, k, rfl, -, hu, -⟩ := hbegun
      obtain rfl := hu hsound
      rw [howned] at hraises
      rcases hraises with ⟨hno, rfl⟩ | ⟨htying, rfl | rfl⟩
      · exact ⟨fun _ => rfl, fun h => absurd h hno⟩
      · exact ⟨fun h => absurd htying h, fun _ => .inr rfl⟩
      · exact ⟨fun h => absurd htying h, fun _ => .inl rfl⟩
    · intro hnone
      have hjudged := claimJudged_of_not_checking (s := x) (by rwa [hcheckState])
      simp only [hjudged, hcheckState, hresponses]
      exact ⟨trivial, trivial, (countIdle_get x i).trans (by rw [hxq]; rfl)⟩
    · intro p f rb m hchecking hcheck hm reply
      have hgiven := responsesGiven_begun hbegun hstarts q.id reply
      have hjudged := claimJudged_abandons (s := x) (partiesLawful_begun hbegun hparties) (checkLawful_begun hbegun hcheck) hxq hm
        (hcheckState.trans hchecking) hexpires
      rw [hgiven] at hjudged
      simp only [hjudged]
      refine ⟨trivial, Vector.getElem_set_self _, fun hrun hroom => ?_, fun hno => ?_⟩
      · exact responsesGiven_of_room hrun hroom reply
      · exact responsesGiven_of_none hno reply
  · have hlives : x.claimAboutToExpire = false := by
      rw [expires_begun hbegun, hholder]
      simpa using hbelow
    refine ⟨_, hexec.trans (congrArg _ (roundTaken_plain o n l hxpending hlives)), ?_⟩
    obtain ⟨flags, co, u, k, rfl, -⟩ := hbegun
    rfl

end Sys2Proof.Machine
end

section
/-! The L round start that performs a pending commit (R49, R86 to R90, R107, R110, R111). -/

set_option Elab.async false

namespace Sys2Proof.Machine

/-! ## The words of the writes that the swap cuts (R107) -/

theorem halves_aged (x : Stored MailboxDef) (m : MailboxRt) :
    (agedUnder x m).half = m.half ∧ (agedUnder x m).openWrite = m.openWrite := by
  unfold agedUnder
  split
  · split
    · rename_i d _
      rcases m.aged_cases d with he | he | ⟨-, he⟩ <;> rw [he] <;> exact ⟨rfl, rfl⟩
    · exact ⟨rfl, rfl⟩
  · exact ⟨rfl, rfl⟩

/-- The store `st` differs from that of `s` at most where a write that the swap cuts places its words. -/
def State.CutWords (s : State) (st : Store) : Prop :=
  ∀ a, ({ s with store := st } : State).wordAt a = s.wordAt a ∨
    ∃ p c n base capacity spoiled, s.WritesTo p c n base capacity spoiled ∧
      mailboxKept s.active.mailboxes[n] s.staged.mailboxes[n] = false ∧
      spareHalf s.mailboxes[n] base capacity ≤ a ∧ a < spareHalf s.mailboxes[n] base capacity + capacity

/-- Where the write of P is cut, its words may change; elsewhere none does. -/
theorem wordAt_cutWrite (s : State) (old new : Bank) (p : Port) (a : Nat) :
    (s.cutWrite old new p).wordAt a = s.wordAt a ∨
    ∃ c n base capacity spoiled, s.WritesTo p c n base capacity spoiled ∧
      mailboxKept old.mailboxes[n] new.mailboxes[n] = false ∧
      spareHalf s.mailboxes[n] base capacity ≤ a ∧ a < spareHalf s.mailboxes[n] base capacity + capacity := by
  unfold State.cutWrite
  split
  · exact .inl rfl
  · rename_i c hc
    split
    · exact .inl rfl
    · rename_i hlost
      by_cases harrives : s.ArrivesAt p a
      · obtain ⟨c', n, base, capacity, spoiled, hw, hrange⟩ := harrives
        refine .inr ⟨c', n, base, capacity, spoiled, hw, ?_, hrange⟩
        obtain ⟨hc', -, htarget, -⟩ := hw
        obtain rfl := Option.some.inj (hc.symm.trans hc')
        rw [htarget] at hlost
        exact Bool.eq_false_of_not_eq_true hlost
      · exact .inl (wordAt_placeArrived harrives)

theorem writesTo_congr {s t : State} {p : Port} {c : CaptureContext} {n : Fin 64} {base capacity : Nat} {spoiled : List Nat}
    (hcontexts : t.contexts = s.contexts) (hopen : ∀ n : Fin 64, t.mailboxes[n].openWrite = s.mailboxes[n].openWrite)
    (h : t.WritesTo p c n base capacity spoiled) : s.WritesTo p c n base capacity spoiled := by
  obtain ⟨hc, hmark, htarget, hwrite⟩ := h
  exact ⟨hcontexts ▸ hc, hmark, htarget, (hopen n).symm.trans hwrite⟩

theorem spareHalf_congr {m m' : MailboxRt} (h : m'.half = m.half) (base capacity : Nat) :
    spareHalf m' base capacity = spareHalf m base capacity := by
  simp only [spareHalf, h]

/-! ## The state that the swap leaves -/

/-- The mailboxes, parties and claim replaced: what aging and the agent can have done before the swap. -/
def State.worked (s : State) (ms : Vector MailboxRt 64) (ps : Vector (Option Party) 8) (cl : Option PartyId) : State :=
  { s with mailboxes := ms, parties := ps, claim := cl }

/-- The queues carried over (R89). -/
def State.carriedQueues (s : State) : Vector QueueRt 8 :=
  Vector.ofFn fun n : Fin 8 => if queueKept s.active.queues[n] s.staged.queues[n] then s.queues[n] else .reset

/-- The contexts marked (R87). -/
def State.swappedContexts (s : State) : PerPort (Option CaptureContext) :=
  ⟨s.contexts.u.map (·.swapped s.active s.staged), s.contexts.l.map (·.swapped s.active s.staged)⟩

/-- The transmissions marked (R90). -/
def State.swappedRecords (s : State) : PerPort (Option EmitRecord) :=
  ⟨s.emitRecords.u.map (·.swapped s.active s.staged), s.emitRecords.l.map (·.swapped s.active s.staged)⟩

/-- The state after the swap, with these mailboxes, parties, claim and store. -/
def State.exchangedWith (s : State) (ms : Vector MailboxRt 64) (ps : Vector (Option Party) 8) (cl : Option PartyId)
    (st : Store) (k : Nat) : State :=
  { s with
    active := s.staged, staged := s.active, generation := s.generation + 1
    captureOutcomes := Vector.replicate 128 none, emitOutcomes := Vector.replicate 128 none
    checkState := .unchecked, mailboxes := ms, parties := ps, claim := cl, store := st, choice := k
    queues := s.carriedQueues, contexts := s.swappedContexts, emitRecords := s.swappedRecords }

/-- The mailboxes carried over (R88). -/
def State.carried (s : State) (ms : Vector MailboxRt 64) : Vector MailboxRt 64 :=
  Vector.ofFn fun n : Fin 64 => if mailboxKept s.active.mailboxes[n] s.staged.mailboxes[n] then ms[n] else .reset

/-- The mailboxes aged under a bank (R110). -/
def agedBy (b : Bank) (ms : Vector MailboxRt 64) : Vector MailboxRt 64 :=
  Vector.ofFn fun n : Fin 64 => agedUnder b.mailboxes[n] ms[n]

theorem swapped_worked (s : State) {ms : Vector MailboxRt 64} (ps : Vector (Option Party) 8) (cl : Option PartyId)
    (hms : ∀ n : Fin 64, ms[n].half = s.mailboxes[n].half ∧ ms[n].openWrite = s.mailboxes[n].openWrite) :
    ∃ st k, (s.worked ms ps cl).swapped = s.exchangedWith (s.carried ms) ps cl st k ∧ s.CutWords st := by
  let y := (s.worked ms ps cl).exchanged
  obtain ⟨st, k, hu⟩ := cutWrite_frame y s.active s.staged .u
  obtain ⟨st', k', hl⟩ := cutWrite_frame { y with store := st, choice := k } s.active s.staged .l
  refine ⟨st', k', ?_, fun a => ?_⟩
  · refine (congrArg (fun z => (State.cutWrite z s.active s.staged .l).carryOver s.active s.staged) hu).trans ?_
    exact congrArg (fun z : State => z.carryOver s.active s.staged) hl
  · have hwrites : ∀ {z : State} {p : Port}, z.contexts = s.contexts → z.mailboxes = ms → ∀ {a : Nat},
        (∃ c n base capacity spoiled, z.WritesTo p c n base capacity spoiled ∧
          mailboxKept s.active.mailboxes[n] s.staged.mailboxes[n] = false ∧
          spareHalf z.mailboxes[n] base capacity ≤ a ∧ a < spareHalf z.mailboxes[n] base capacity + capacity) →
        ∃ p c n base capacity spoiled, s.WritesTo p c n base capacity spoiled ∧
          mailboxKept s.active.mailboxes[n] s.staged.mailboxes[n] = false ∧
          spareHalf s.mailboxes[n] base capacity ≤ a ∧ a < spareHalf s.mailboxes[n] base capacity + capacity := by
      rintro z p hcontexts rfl a ⟨c, n, base, capacity, spoiled, hw, hlost, hrange⟩
      rw [spareHalf_congr (hms n).1] at hrange
      exact ⟨p, c, n, base, capacity, spoiled, writesTo_congr hcontexts (fun n => (hms n).2) hw, hlost, hrange⟩
    have hfirst := wordAt_cutWrite y s.active s.staged .u a
    have hsecond := wordAt_cutWrite { y with store := st, choice := k } s.active s.staged .l a
    rw [hu] at hfirst
    rw [hl] at hsecond
    rcases hsecond with hsecond | hsecond
    · rcases hfirst with hfirst | hfirst
      · exact .inl (hsecond.trans hfirst)
      · exact .inr (hwrites (z := y) rfl rfl hfirst)
    · exact .inr (hwrites (z := { y with store := st, choice := k }) rfl rfl hsecond)

/-! ## The three blocks around the swap -/

/-- The claim after the agent's part, no check being in progress (R142). -/
def State.claimAfter (s : State) : Option PartyId := if s.claimAboutToExpire then none else s.claim

section
variable (s : State)

theorem quiet_swap_worked (hpending : s.checkState = .commitPending) {ms : Vector MailboxRt 64} (ps : Vector (Option Party) 8)
    (cl : Option PartyId) (hms : ∀ n : Fin 64, ms[n].half = s.mailboxes[n].half ∧ ms[n].openWrite = s.mailboxes[n].openWrite) :
    ∃ st k, RoundWork.swap.quiet (s.worked ms ps cl) = s.exchangedWith (s.carried ms) ps cl st k ∧ s.CutWords st := by
  obtain ⟨st, k, hswap, hwords⟩ := swapped_worked s ps cl hms
  exact ⟨st, k, (if_pos hpending).trans hswap, hwords⟩

theorem quiet_aging_worked (ms : Vector MailboxRt 64) (ps : Vector (Option Party) 8) (cl : Option PartyId) :
    RoundWork.aging.quiet (s.worked ms ps cl) = s.worked (agedBy s.active ms) ps cl := rfl

theorem quiet_aging_exchanged (ms : Vector MailboxRt 64) (ps : Vector (Option Party) 8) (cl : Option PartyId) (st : Store) (k : Nat) :
    RoundWork.aging.quiet (s.exchangedWith ms ps cl st k) = s.exchangedWith (agedBy s.staged ms) ps cl st k := rfl

theorem quiet_agent_worked (hpending : s.checkState = .commitPending) (ms : Vector MailboxRt 64) :
    RoundWork.agent.quiet (s.worked ms s.parties s.claim) = s.worked ms s.countIdle.parties s.claimAfter := by
  have hexpires : (s.worked ms s.parties s.claim).claimAboutToExpire = s.claimAboutToExpire := claimAboutToExpire_congr rfl rfl rfl
  have hjudged := claimJudged_of_not_checking (s := s.worked ms s.parties s.claim)
    (fun p f rb h => by cases hpending.symm.trans h)
  rw [hexpires] at hjudged
  exact hjudged

theorem quiet_agent_exchanged (ms : Vector MailboxRt 64) (st : Store) (k : Nat) :
    RoundWork.agent.quiet (s.exchangedWith ms s.parties s.claim st k) =
      s.exchangedWith ms s.countIdle.parties s.claimAfter st k := by
  have hexpires : (s.exchangedWith ms s.parties s.claim st k).claimAboutToExpire = s.claimAboutToExpire :=
    claimAboutToExpire_congr rfl rfl rfl
  have hjudged := claimJudged_of_not_checking (s := s.exchangedWith ms s.parties s.claim st k) (fun p f rb h => by cases h)
  rw [hexpires] at hjudged
  exact hjudged

theorem halves_agedBy (b : Bank) (n : Fin 64) : (agedBy b s.mailboxes)[n].half = s.mailboxes[n].half ∧
    (agedBy b s.mailboxes)[n].openWrite = s.mailboxes[n].openWrite := by
  rw [agedBy, Fin.getElem_fin, Vector.getElem_ofFn]
  exact halves_aged _ _

/-- With a commit pending the mailboxes age under the old plan before the swap or under the new one after it. -/
theorem quietly_of_pending (o : RoundOrder) (hpending : s.checkState = .commitPending) : ∃ ms st k,
    quietly (orderedWork o) s = s.exchangedWith ms s.countIdle.parties s.claimAfter st k ∧
    (ms = s.carried (agedBy s.active s.mailboxes) ∨ ms = agedBy s.staged (s.carried s.mailboxes)) ∧ s.CutWords st := by
  have hself : s = s.worked s.mailboxes s.parties s.claim := rfl
  have haged := halves_agedBy s s.active
  have hplain : ∀ n : Fin 64, s.mailboxes[n].half = s.mailboxes[n].half ∧ s.mailboxes[n].openWrite = s.mailboxes[n].openWrite :=
    fun _ => ⟨rfl, rfl⟩
  obtain ⟨st1, k1, hagedSwap, hwords1⟩ := quiet_swap_worked s hpending s.countIdle.parties s.claimAfter haged
  obtain ⟨st2, k2, hagedSwap', hwords2⟩ := quiet_swap_worked s hpending s.parties s.claim haged
  obtain ⟨st3, k3, hplainSwap, hwords3⟩ := quiet_swap_worked s hpending s.countIdle.parties s.claimAfter hplain
  obtain ⟨st4, k4, hplainSwap', hwords4⟩ := quiet_swap_worked s hpending s.parties s.claim hplain
  have hagent := quiet_agent_worked s hpending
  cases o
  · refine ⟨_, st1, k1, ?_, .inl rfl, hwords1⟩
    exact (congrArg RoundWork.swap.quiet (hagent (agedBy s.active s.mailboxes))).trans hagedSwap
  · refine ⟨_, st2, k2, ?_, .inl rfl, hwords2⟩
    exact (congrArg RoundWork.agent.quiet hagedSwap').trans (quiet_agent_exchanged s _ _ _)
  · refine ⟨_, st1, k1, ?_, .inl rfl, hwords1⟩
    exact (congrArg (fun t => RoundWork.swap.quiet (RoundWork.aging.quiet t)) (hagent s.mailboxes)).trans hagedSwap
  · refine ⟨_, st3, k3, ?_, .inr rfl, hwords3⟩
    exact (congrArg (fun t => RoundWork.aging.quiet (RoundWork.swap.quiet t)) (hagent s.mailboxes)).trans
      (congrArg RoundWork.aging.quiet hplainSwap)
  · refine ⟨_, st4, k4, ?_, .inr rfl, hwords4⟩
    exact (congrArg (fun t => RoundWork.agent.quiet (RoundWork.aging.quiet t)) hplainSwap').trans (quiet_agent_exchanged s _ _ _)
  · refine ⟨_, st4, k4, ?_, .inr rfl, hwords4⟩
    exact (congrArg (fun t => RoundWork.aging.quiet (RoundWork.agent.quiet t)) hplainSwap').trans
      (congrArg RoundWork.aging.quiet (quiet_agent_exchanged s _ _ _))

end

end Sys2Proof.Machine
end

section
/-! What a commit swap raises and what stands after it (R86 to R90). -/

set_option Elab.async false

namespace Sys2Proof.Machine

/-! ## What is raised -/

/-- A block raises what it would raise alone, when the blocks before it leave its grounds standing. -/
theorem mem_raisedBy {w : RoundWork} (P : State → Prop) {e : NoticeKind × Subject}
    (hstep : ∀ v, v ≠ w → ∀ y, P y → P (v.quiet y)) (hraise : ∀ y, P y → e ∈ w.raises y) :
    ∀ (l : List RoundWork) (s : State), w ∈ l → P s → e ∈ raisedBy l s
  | [], _, hmem, _ => by cases hmem
  | v :: l, s, hmem, hs => by
    by_cases hv : v = w
    · subst hv
      exact List.mem_append_left _ (hraise s hs)
    · have hl : w ∈ l := (List.mem_cons.1 hmem).resolve_left fun h => hv h.symm
      exact List.mem_append_right _ (mem_raisedBy P hstep hraise l _ hl (hstep v hv s hs))

theorem mem_orderedWork (w : RoundWork) (o : RoundOrder) : w ∈ orderedWork o := by
  cases o <;> cases w <;> decide

/-- A commit is pending, of these banks. -/
def Pends (a b : Bank) (s : State) : Prop := s.checkState = .commitPending ∧ s.active = a ∧ s.staged = b

theorem pends_quiet {a b : Bank} (v : RoundWork) (hv : v ≠ .swap) (y : State) (h : Pends a b y) : Pends a b (v.quiet y) := by
  obtain ⟨hpending, hactive, hstaged⟩ := h
  cases v with
  | aging => exact ⟨(aged_checkState y).trans hpending, by simpa only [RoundWork.quiet, State.aged] using hactive,
      by simpa only [RoundWork.quiet, State.aged] using hstaged⟩
  | agent =>
    rw [RoundWork.quiet, claimJudged_of_not_checking fun p f rb hc => by cases hpending.symm.trans hc]
    exact ⟨hpending, hactive, hstaged⟩
  | swap => exact absurd rfl hv

theorem swapRaises_mem (o : RoundOrder) {s : State} (hpending : s.checkState = .commitPending) {e : NoticeKind × Subject}
    (he : e ∈ s.swapRaises) : e ∈ raisedBy (orderedWork o) s := by
  refine mem_raisedBy (w := .swap) (Pends s.active s.staged) pends_quiet (fun y hy => ?_) _ s (mem_orderedWork _ o)
    ⟨hpending, rfl, rfl⟩
  obtain ⟨hpends, hactive, hstaged⟩ := hy
  rw [RoundWork.raises, if_pos hpends, swapRaises_congr hactive hstaged]
  exact he

theorem expires_quiet (v : RoundWork) (hv : v ≠ .agent) (y : State) (h : y.claimAboutToExpire = true) :
    (v.quiet y).claimAboutToExpire = true := by
  refine Eq.trans (claimAboutToExpire_congr ?_ ?_ ?_) h
  all_goals
    cases v with
    | aging => simp only [RoundWork.quiet, State.aged]
    | agent => exact absurd rfl hv
    | swap =>
      simp only [RoundWork.quiet]
      split
      · obtain ⟨st, k, hs⟩ := swapped_frame y
        rw [hs]
        rfl
      · rfl

theorem claimExpired_mem (o : RoundOrder) {s : State} (hexpires : s.claimAboutToExpire = true) :
    (NoticeKind.claimExpired, Subject.none) ∈ raisedBy (orderedWork o) s := by
  refine mem_raisedBy (w := .agent) (fun y => y.claimAboutToExpire = true) expires_quiet (fun y hy => ?_) _ s
    (mem_orderedWork _ o) hexpires
  rw [RoundWork.raises, agentRaises_expiring hy]
  exact List.mem_singleton_self _

/-! ## What is kept -/

theorem mailboxKept_iff {x y : Stored MailboxDef} : mailboxKept x y = true ↔
    ∃ a b, x = ⟨some a, true⟩ ∧ y = ⟨some b, true⟩ ∧ a.base = b.base ∧ a.capacity = b.capacity := by
  unfold mailboxKept
  constructor
  · split
    · rename_i a b ha hb
      intro h
      exact ⟨a, b, seen_eq_some.1 ha, seen_eq_some.1 hb, by simpa using h⟩
    · exact fun h => by cases h
  · rintro ⟨a, b, rfl, rfl, hbase, hcapacity⟩
    simp [Stored.seen, hbase, hcapacity]

theorem queueKept_iff {x y : Stored QueueDef} : queueKept x y = true ↔
    ∃ a b, x = ⟨some a, true⟩ ∧ y = ⟨some b, true⟩ ∧ a.base = b.base ∧ a.capacity = b.capacity ∧ a.depth = b.depth := by
  unfold queueKept
  constructor
  · split
    · rename_i a b ha hb
      intro h
      exact ⟨a, b, seen_eq_some.1 ha, seen_eq_some.1 hb, by simpa [and_assoc] using h⟩
    · exact fun h => by cases h
  · rintro ⟨a, b, rfl, rfl, hbase, hcapacity, hdepth⟩
    simp [Stored.seen, hbase, hcapacity, hdepth]

theorem agedUnder_reset (x : Stored MailboxDef) : agedUnder x .reset = .reset := agedUnder_still (.inr (.inr (.inl rfl)))

section
variable (s : State) (k : Fin 64)

theorem carried_get (ms : Vector MailboxRt 64) : (s.carried ms)[k] =
    if mailboxKept s.active.mailboxes[k] s.staged.mailboxes[k] then ms[k] else .reset := by
  rw [State.carried, Fin.getElem_fin, Vector.getElem_ofFn]

theorem agedBy_get (b : Bank) (ms : Vector MailboxRt 64) : (agedBy b ms)[k] = agedUnder b.mailboxes[k] ms[k] := by
  rw [agedBy, Fin.getElem_fin, Vector.getElem_ofFn]

variable {ms : Vector MailboxRt 64}

theorem swapped_mailbox_lost (h : ms = s.carried (agedBy s.active s.mailboxes) ∨ ms = agedBy s.staged (s.carried s.mailboxes))
    (hlost : ¬mailboxKept s.active.mailboxes[k] s.staged.mailboxes[k] = true) : ms[k] = .reset := by
  rcases h with rfl | rfl
  · rw [carried_get, if_neg hlost]
  · rw [agedBy_get, carried_get, if_neg hlost, agedUnder_reset]

/-- A mailbox kept by the swap is aged once, by the bank that is in force at the aging. -/
theorem swapped_mailbox_kept (h : ms = s.carried (agedBy s.active s.mailboxes) ∨ ms = agedBy s.staged (s.carried s.mailboxes)) :
    (∀ k : Fin 64, mailboxKept s.active.mailboxes[k] s.staged.mailboxes[k] = true →
      ms[k] = agedUnder s.active.mailboxes[k] s.mailboxes[k]) ∨
    (∀ k : Fin 64, mailboxKept s.active.mailboxes[k] s.staged.mailboxes[k] = true →
      ms[k] = agedUnder s.staged.mailboxes[k] s.mailboxes[k]) := by
  rcases h with rfl | rfl
  · exact .inl fun k hkept => by rw [carried_get, if_pos hkept, agedBy_get]
  · exact .inr fun k hkept => by rw [agedBy_get, carried_get, if_pos hkept]

end

/-! ## The marks (R87, R90) -/

theorem mark_after_cut {m : SwapMark} (h : m = .cut) (b : Bool) : m.after b = .cut := by rw [h]; rfl

theorem mark_after_kept {m : SwapMark} (h : m ≠ .cut) {b : Bool} (hb : b = true) : m.after b = .carried := by
  subst hb
  cases m with
  | cut => exact absurd rfl h
  | none => rfl
  | carried => rfl

theorem mark_after_lost {m : SwapMark} {b : Bool} (hb : ¬b = true) : m.after b = .cut := by
  cases m with
  | cut => rfl
  | none => exact if_neg hb
  | carried => exact if_neg hb

theorem carriedQueue_get (s : State) (k : Fin 8) : s.carriedQueues[k] =
    if queueKept s.active.queues[k] s.staged.queues[k] then s.queues[k] else .reset := by
  rw [State.carriedQueues, Fin.getElem_fin, Vector.getElem_ofFn]

theorem swappedContext_get (s : State) (p : Port) :
    s.swappedContexts.get p = (s.contexts.get p).map (·.swapped s.active s.staged) := by
  cases p <;> rfl

theorem swappedRecord_get (s : State) (p : Port) :
    s.swappedRecords.get p = (s.emitRecords.get p).map (·.swapped s.active s.staged) := by
  cases p <;> rfl

/-! ## The round start as a whole -/

theorem roundTaken_swap {x : State} (o : RoundOrder) (n : Round) (l : List (NoticeKind × Subject))
    (hpending : x.checkState = .commitPending) : ∃ ms st k, x.roundTaken o n l =
      { x.exchangedWith ms x.countIdle.parties x.claimAfter st k with notices := (x.notices.raiseEach n l).countedDown } ∧
    (ms = x.carried (agedBy x.active x.mailboxes) ∨ ms = agedBy x.staged (x.carried x.mailboxes)) ∧ x.CutWords st := by
  obtain ⟨ms, st, k, hquiet, hms, hwords⟩ := quietly_of_pending x o hpending
  exact ⟨ms, st, k, by rw [State.roundTaken, hquiet], hms, hwords⟩

theorem claimAfter_holder {s : State} {i : Fin 8} {q : Party} (hs : s.PartiesLawful) (hq : s.parties[i] = some q)
    (hclaim : s.claim = some q.id) (hreached : s.settings.claimTimeout ≤ satInc q.idle) :
    s.claimAboutToExpire = true ∧ s.claimAfter = none := by
  have hexpires : s.claimAboutToExpire = true := by
    rw [claimAboutToExpire_holder hs hq hclaim]
    exact decide_eq_true hreached
  exact ⟨hexpires, if_pos hexpires⟩

theorem claimAfter_of_not_expiring {s : State} (h : s.claimAboutToExpire = false) : s.claimAfter = s.claim := by
  rw [State.claimAfter, h]
  rfl

theorem exec_claimTimeout_due {s : State} (hrel : s.resetnLow = false) (hexpires : s.claimAboutToExpire = true) :
    exec .claimTimeout s = exec .lRoundStart s := (exec_of_due hrel (congrArg _ (live_of_released hrel _))).1 hexpires

/-- Settles O21: the swap with the work of aging and the agent around it. -/
theorem commitSwapExchangesTheBanks : Obligations.CommitSwapExchangesTheBanks := by
  intro s c st n hstarts hpending kept keptQueue aged live agedBy'
  have hrel : s.resetnLow = false := hstarts.1
  have hkept : ∀ k : Fin 64, kept k ↔ mailboxKept s.active.mailboxes[k] s.staged.mailboxes[k] = true := fun k => mailboxKept_iff.symm
  have hkeptQueue : ∀ k : Fin 8, keptQueue k ↔ queueKept s.active.queues[k] s.staged.queues[k] = true := fun k => queueKept_iff.symm
  refine ⟨?_, ?_⟩
  · rintro rfl
    exact (exec_of_due hrel (congrArg _ (live_of_released hrel _))).1 (decide_eq_true hpending)
  obtain ⟨x, o, l, hbegun, hexec, hraises⟩ := startsLRound_taken hstarts
  have hxpending : x.checkState = .commitPending := (checkState_begun hbegun).trans hpending
  have hexpires := expires_begun hbegun
  obtain ⟨ms, st', k', htaken, hms, hwords⟩ := roundTaken_swap o n l hxpending
  have hext := raised_extends hbegun l
  have hcommit := mem_of_tiedRaises hraises (swapRaises_mem o hxpending (List.mem_cons_self (a := (NoticeKind.commitDone, Subject.none))))
  have hclaimed : x.claimAboutToExpire = true → (NoticeKind.claimExpired, Subject.none) ∈ l := fun h =>
    mem_of_tiedRaises hraises (claimExpired_mem o h)
  obtain ⟨flags, co, u, k, rfl, -⟩ := hbegun
  have hlost := fun k => swapped_mailbox_lost _ k hms
  have hagedOnce := swapped_mailbox_kept _ hms
  refine ⟨_, hexec.trans (congrArg _ htaken), rfl, rfl, rfl, rfl, fun m => ⟨get_replicate none m, get_replicate none m⟩,
    shows_countedDown (shows_raiseEach hcommit), rfl, fun k hk => ?_, ?_, fun k hk hstill => ?_, fun k hk => ?_, fun k hk => ?_,
    fun p hp => ?_, fun p y hy => ?_, fun p hp => ?_, fun p y hy => ?_, fun i => countIdle_get s i, rfl, counted_of_extends hext,
    fun htying => ?_, fun hidle => ?_, fun i q hparties hq hclaim hreached => ?_, rfl, rfl, fun a => ?_, rfl, rfl, rfl⟩
  · exact hlost k fun h => hk ((hkept k).2 h)
  · refine hagedOnce.imp (fun honce k d hk hlive hd => ?_) (fun honce k d hk hlive hd => ?_)
    · obtain ⟨a, b, ha, hb, hfigures⟩ := hk
      exact (honce k ((hkept k).1 ⟨a, b, ha, hb, hfigures⟩)).trans (agedUnder_live hd (congrArg Stored.parityGood ha) hlive)
    · obtain ⟨a, b, ha, hb, hfigures⟩ := hk
      exact (honce k ((hkept k).1 ⟨a, b, ha, hb, hfigures⟩)).trans (agedUnder_live hd (congrArg Stored.parityGood hb) hlive)
  · rcases hagedOnce with honce | honce
    · exact (honce k ((hkept k).1 hk)).trans (agedUnder_still (.inr (.inr hstill)))
    · exact (honce k ((hkept k).1 hk)).trans (agedUnder_still (.inr (.inr hstill)))
  · exact (carriedQueue_get _ k).trans (if_pos ((hkeptQueue k).1 hk))
  · exact (carriedQueue_get _ k).trans (if_neg fun h => hk ((hkeptQueue k).2 h))
  · exact (swappedContext_get _ p).trans (by rw [hp]; rfl)
  · refine ⟨_, (swappedContext_get _ p).trans (by rw [hy]; rfl), fun hcut => mark_after_cut hcut _, ?_, ?_⟩
    · intro m base capacity spoiled hcut htarget
      rw [htarget]
      exact ⟨fun h => mark_after_kept hcut ((hkept m).1 h), fun h => mark_after_lost fun hk => h ((hkept m).2 hk)⟩
    · intro m base capacity depth policy hcut htarget
      rw [htarget]
      exact ⟨fun h => mark_after_kept hcut ((hkeptQueue m).1 h), fun h => mark_after_lost fun hk => h ((hkeptQueue m).2 hk)⟩
  · exact (swappedRecord_get _ p).trans (by rw [hp]; rfl)
  · refine ⟨_, (swappedRecord_get _ p).trans (by rw [hy]; rfl), ?_, ?_, ?_⟩
    · rintro (hcut | hvoid)
      · exact mark_after_cut hcut _
      · rw [hvoid]
        exact mark_after_lost (by exact Bool.false_ne_true)
    · intro m tag mode hcut heffect
      rw [heffect]
      exact ⟨fun h => mark_after_kept hcut ((hkept m).1 h), fun h => mark_after_lost fun hk => h ((hkept m).2 hk)⟩
    · intro m depth limit hcut heffect
      rw [heffect]
      exact ⟨fun h => mark_after_kept hcut ((hkeptQueue m).1 h), fun h => mark_after_lost fun hk => h ((hkeptQueue m).2 hk)⟩
  · exact shows_countedDown (shows_raiseEach (tieGained_of_tiedRaises hraises htying))
  · exact claimAfter_of_not_expiring (not_expiring hidle)
  · obtain ⟨hends, hfreed⟩ := claimAfter_holder hparties hq hclaim hreached
    refine ⟨hfreed, shows_countedDown (shows_raiseEach (hclaimed (hexpires.trans hends))), ?_⟩
    rintro rfl
    exact exec_claimTimeout_due hrel hends
  · refine (hwords a).imp id ?_
    rintro ⟨p, y, m, base, capacity, spoiled, hw, hgone, hrange⟩
    exact ⟨p, y, m, base, capacity, spoiled, hw, fun h => Bool.false_ne_true (hgone.symm.trans ((hkept m).1 h)), hrange⟩

end Sys2Proof.Machine
end

section
/-! Alignments that fall due (R46, R47), and the commands that stand for an L round start (R110, R166; log entry 21). -/

set_option Elab.async false

namespace Sys2Proof.Machine

theorem roundTaken_frame (x : State) (o : RoundOrder) (n : Round) (l : List (NoticeKind × Subject)) :
    ∃ e, x.roundTaken o n l = x.applied e ∧ (x.checkState ≠ .commitPending → e.store = x.store) := by
  by_cases hpending : x.checkState = .commitPending
  · obtain ⟨ms, st, k, h, -⟩ := roundTaken_swap o n l hpending
    exact ⟨⟨_, _, _, _, _, _, _, _, _, _, _, _, _, _, _, _⟩, h, fun hno => absurd hpending hno⟩
  · obtain ⟨ps, rs, c, k, h⟩ := claimJudged_frame x
    have htaken : x.roundTaken o n l = { x with
        parties := ps, responses := rs, checkState := c, claim := k, mailboxes := x.aged.mailboxes
        notices := (x.notices.raiseEach n l).countedDown } := by
      rw [roundTaken_quiet o n l hpending, h]
    exact ⟨⟨_, _, _, _, _, _, _, _, _, _, _, _, _, _, _, _⟩, htaken, fun _ => rfl⟩

/-! ## O18 -/

theorem not_expiring_of_free {s : State} (h : s.claim = none) : s.claimAboutToExpire = false :=
  not_expiring fun _ _ _ hclaim => by rw [h] at hclaim; cases hclaim

/-- Where nothing else is raised, TIE_GAINED is. -/
theorem notices_of_tieGained {s x : State} {c : Instr} {st : LState} {n : Round} {o : RoundOrder} {l : List (NoticeKind × Subject)}
    (hbegun : s.RoundBegun c st n x) (hraises : TiedRaises (s.lTime.state = .tying) (raisedBy (orderedWork o) x) l)
    (htying : s.lTime.state = .tying) (hsound : s.ActiveSound) (hfresh : ∀ k : Fin 64, s.mailboxes[k].state ≠ .fresh)
    (hfree : s.claim = none) (hpending : s.checkState ≠ .commitPending) :
    (x.roundTaken o n l).notices = (s.notices.raise .tieGained .none n).countedDown := by
  have howned : raisedBy (orderedWork o) x = [] := by
    have hagent : x.agentRaises = [] := by
      rw [State.agentRaises, expires_begun hbegun, not_expiring_of_free hfree]
      rfl
    have haging := (agingRaises_begun hbegun).trans (agingRaises_of_quiet hsound hfresh)
    rcases raisedBy_of_not_pending o (s := x) (by rwa [checkState_begun hbegun]) with h | h <;> rw [h, hagent, haging] <;> rfl
  have hl : l = [(.tieGained, .none)] := by
    rw [howned] at hraises
    rcases hraises with ⟨hno, -⟩ | ⟨-, h | h⟩
    · exact absurd htying hno
    · exact h
    · exact h
  have hnotices : x.notices = s.notices := by
    obtain ⟨flags, co, u, k, rfl, -, hu, -⟩ := hbegun
    exact hu hsound
  rw [roundTaken_notices, hl, hnotices]
  rfl

theorem exec_alignmentDue {s : State} {a : Alignment} (hrel : s.resetnLow = false) (ha : s.lTime.pending = some a)
    (hheld : a.held = false) (hstate : s.lTime.state = .tying ∨ s.lTime.state = .tied) :
    exec .alignmentDue s = .next (s.alignmentFallsDue a) := by
  refine congrArg _ ((live_of_released hrel _).trans ?_)
  simp only [ha]
  exact if_pos (by rcases hstate with h | h <;> simp [State.tyingOrTied, h, hheld])

/-- Settles O18: taken while idle or at the end of the last slot, held in TIED or in the last slot, passed over before it. -/
theorem alignmentDueIsTakenHeldOrPassedOver : Obligations.AlignmentDueIsTakenHeldOrPassedOver := by
  refine ⟨?_, ?_⟩
  · intro s a hrel ha hheld hstate
    have hexec := exec_alignmentDue hrel ha hheld hstate
    refine ⟨fun hidle => ?_, fun hruns hhold => ?_, fun hruns htying hslot => ?_⟩
    · obtain ⟨x, o, l, hbegun, htaken, hraises⟩ := startsLRound_taken (s := s) (c := .alignmentDue) (st := .tied) (n := a.round)
        ⟨hrel, .inr ⟨hstate, rfl, a, ha, rfl, .inr (.inl ⟨rfl, hidle, hheld⟩)⟩⟩
      have hnotices := notices_of_tieGained hbegun hraises
      obtain ⟨e, he, -⟩ := roundTaken_frame x o a.round l
      obtain ⟨flags, co, u, k, rfl, -⟩ := hbegun
      refine ⟨_, htaken, ?_⟩
      have hentries := fun h1 h2 h3 h4 h5 => congrArg NoticeUnit.entries (hnotices h1 h2 h3 h4 h5)
      rw [he] at hentries ⊢
      exact ⟨rfl, rfl, rfl, rfl, rfl, rfl, rfl, hentries⟩
    · rw [hexec, State.alignmentFallsDue, if_neg (by simp [hruns]), if_pos (by simpa using hhold)]
      rfl
    · rw [hexec, State.alignmentFallsDue, if_neg (by simp [hruns]), if_neg (by simp [htying, hslot])]
      rfl
  · intro s k a hrel hslot hlast htx hrx ha hheld hstate
    obtain ⟨x, o, l, hbegun, htaken, -⟩ := startsLRound_taken (s := s) (c := .slotEnd .l) (st := .tied) (n := a.round)
      ⟨hrel, .inr ⟨hstate, rfl, a, ha, rfl, .inr (.inr ⟨rfl, hheld, by rw [hslot]; rfl, hlast, htx, hrx⟩)⟩⟩
    obtain ⟨e, he, hstore⟩ := roundTaken_frame x o a.round l
    obtain ⟨flags, co, u, k, rfl, -⟩ := hbegun
    rw [he] at htaken
    exact ⟨_, htaken, rfl, rfl, rfl, hstore⟩

/-! ## O22 -/

theorem aged_state {m : MailboxRt} {d : MailboxDef} (hfresh : m.state = .fresh) (hlimit : d.staleLimit ≠ 0) :
    (m.aged d).state = if d.staleLimit ≤ satInc m.age then .stale else .fresh := by
  have h := agedUnder_live (x := ⟨some d, true⟩) rfl rfl (.inl hfresh)
  rw [show agedUnder ⟨some d, true⟩ m = m.aged d from rfl] at h
  rw [h, hfresh]
  exact if_congr ⟨fun h => h.2.2, fun h => ⟨rfl, hlimit, h⟩⟩ rfl rfl

theorem aboutToGoStale_eq {s : State} {k : Fin 64} {d : MailboxDef} (hd : s.active.mailboxes[k] = ⟨some d, true⟩)
    (hfresh : s.mailboxes[k].state = .fresh) (hlimit : d.staleLimit ≠ 0) :
    s.aboutToGoStale k = decide (d.staleLimit ≤ satInc s.mailboxes[k].age) := by
  simp only [State.aboutToGoStale, seen_eq_some.2 hd, hfresh, aged_state hfresh hlimit]
  split <;> simp_all

theorem mailboxStale_raised {s : State} {k : Fin 64} {d : MailboxDef} (hd : s.active.mailboxes[k] = ⟨some d, true⟩)
    (hfresh : s.mailboxes[k].state = .fresh) (hlimit : d.staleLimit ≠ 0) (hreached : d.staleLimit ≤ satInc s.mailboxes[k].age)
    (hnotify : d.notifyStale = true) : (NoticeKind.mailboxStale, Subject.mailbox k) ∈ s.agingRaises := by
  refine List.mem_flatMap.2 ⟨k, List.mem_finRange k, ?_⟩
  rw [hd]
  simp only [agingNotices, aged_state hfresh hlimit, if_pos hreached, hfresh, hnotify]
  exact List.mem_singleton_self _

/-- Settles O22: each stands for the round start that makes the mailbox STALE, or the notice due. -/
theorem staleAndDueComeAtAnLRoundStart : Obligations.StaleAndDueComeAtAnLRoundStart := by
  intro s st n hstarts
  have hrel : s.resetnLow = false := hstarts.1
  obtain ⟨x, o, l, hbegun, htaken, hraises⟩ := startsLRound_taken hstarts
  refine ⟨fun k d hd hfresh hlimit => ?_, fun e he hcount => ?_⟩
  · obtain ⟨hdue, hnot⟩ := exec_of_due (c := .mailboxBecomesStale k) hrel (congrArg _ (live_of_released hrel _))
    have hgoes := aboutToGoStale_eq hd hfresh hlimit
    refine ⟨fun hreached => ?_, fun hbelow => hnot (hgoes.trans (decide_eq_false (BitVec.not_le.2 hbelow)))⟩
    have hexec := hdue (hgoes.trans (decide_eq_true hreached))
    refine ⟨hexec, _, hexec.trans htaken, fun hpending => ⟨?_, fun hnotify => ?_⟩⟩
    · rw [roundTaken_quiet o n l (by rwa [checkState_begun hbegun])]
      obtain ⟨flags, co, u, k', rfl, -⟩ := hbegun
      refine (aged_get s k).trans ?_
      rw [agedUnder_live (congrArg Stored.fields hd) (congrArg Stored.parityGood hd) (.inl hfresh), if_pos ⟨hfresh, hlimit, hreached⟩]
    · have hstale := mailboxStale_raised hd hfresh hlimit hreached hnotify
      rw [← agingRaises_begun hbegun] at hstale
      refine shows_roundTaken (mem_of_tiedRaises hraises ?_)
      rcases raisedBy_of_not_pending o (s := x) (by rwa [checkState_begun hbegun]) with h | h <;> rw [h]
      · exact List.mem_append_left _ hstale
      · exact List.mem_append_right _ hstale
  · have hexec := (exec_of_due (c := .noticeDue e.id) hrel (congrArg _ (live_of_released hrel _))).1
      (List.any_eq_true.2 ⟨e, he, by simp [hcount]⟩)
    refine ⟨hexec, _, hexec.trans htaken, ?_⟩
    obtain ⟨e', he', hid, -, -, hdown⟩ := counted_of_extends (raised_extends hbegun l) e he
    exact ⟨e', he', hid, by rw [hdown, hcount]; rfl⟩

end Sys2Proof.Machine
end

section
/-! COMMIT and CANCEL_COMMIT (R83, R84) and the round start that follows (R86, R42). -/

set_option Elab.async false

namespace Sys2Proof.Machine

/-! ## The round start that may come -/

theorem nextLRound_begins {s : State} {f : State → State} (h : s.nextLRound = some f) :
    ∃ st n, st ≠ .off ∧ f s = (s.beginLRound st n).beginTaken s.lTime.state := by
  unfold State.nextLRound at h
  split at h
  · cases h
  · split at h
    · rename_i hstate
      cases h
      refine ⟨.untied, s.lTime.round.getD 0 + 1, by decide, ?_⟩
      rw [hstate]
      rfl
    · cases h
      exact ⟨.tied, _, by decide, takeAlignment_eq s _⟩
    · cases h
      exact ⟨.tied, _, by decide, takeAlignment_eq s _⟩
    all_goals cases h

/-- L_ROUND_START starts the round that may start, if one may. -/
theorem exec_lRoundStart_cases {s : State} (hrel : s.resetnLow = false) :
    (s.nextLRound = none ∧ exec .lRoundStart s = .next s) ∨
    ∃ st n k o l, exec .lRoundStart s = .next (({ s.beginLRound st n with choice := k } : State).roundTaken o n l) ∧
      TiedRaises (s.lTime.state = .tying) (raisedBy (orderedWork o) { s.beginLRound st n with choice := k }) l := by
  cases hnext : s.nextLRound with
  | none =>
    refine .inl ⟨rfl, congrArg _ ((live_of_released hrel _).trans ?_)⟩
    simp only [State.takeLRound, hnext]
  | some f =>
    obtain ⟨st, n, hst, hbegin⟩ := nextLRound_begins hnext
    obtain ⟨o, k, l, htaken, hraises⟩ := beginTaken_eq (y := s.beginLRound st n) (if_neg hst) s.lTime.state
    refine .inr ⟨st, n, k, o, l, congrArg _ ((live_of_released hrel _).trans ?_), hraises⟩
    exact ((takeLRound_true s hnext).trans hbegin).trans htaken

/-- A round start in COMMIT_PENDING swaps. -/
theorem lRoundStart_swaps {s : State} (hrel : s.resetnLow = false) (hpending : s.checkState = .commitPending)
    (hstate : s.lTime.state = .untied) (hidle : s.lTime.running = false) : ∃ t, exec .lRoundStart s = .next t ∧
      t.generation = s.generation + 1 ∧ t.checkState = .unchecked ∧ t.active = s.staged ∧
      t.notices.Shows .commitDone .none := by
  rcases exec_lRoundStart_cases hrel with ⟨hnone, -⟩ | ⟨st, n, k, o, l, hexec, hraises⟩
  · rw [nextLRound_untied hidle hstate] at hnone
    cases hnone
  · have hdone : (NoticeKind.commitDone, Subject.none) ∈ l := mem_of_tiedRaises hraises
      (swapRaises_mem (s := { s.beginLRound st n with choice := k }) o hpending List.mem_cons_self)
    obtain ⟨ms, st', k', htaken, -⟩ := roundTaken_swap (x := { s.beginLRound st n with choice := k }) o n l hpending
    rw [htaken] at hexec
    exact ⟨_, hexec, rfl, rfl, rfl, shows_countedDown (shows_raiseEach hdone)⟩

/-- A round start in PASSED leaves the plans. -/
theorem lRoundStart_keeps_passed {s : State} (hrel : s.resetnLow = false) (hpassed : s.checkState = .passed) :
    ∃ t, exec .lRoundStart s = .next t ∧ t.generation = s.generation ∧ t.checkState = .passed ∧ t.active = s.active ∧
      t.staged = s.staged := by
  rcases exec_lRoundStart_cases hrel with ⟨-, hexec⟩ | ⟨st, n, k, o, l, hexec, -⟩
  · exact ⟨s, hexec, rfl, hpassed, rfl, rfl⟩
  · have hnot : ({ s.beginLRound st n with choice := k } : State).checkState ≠ .commitPending :=
      fun hno => by cases hpassed.symm.trans hno
    rw [roundTaken_quiet o n l hnot, claimJudged_of_not_checking fun p f rb hno => by cases hpassed.symm.trans hno] at hexec
    exact ⟨_, hexec, rfl, hpassed, rfl, rfl⟩

theorem lRoundStart_of_off {s : State} (hrel : s.resetnLow = false) (hoff : s.lTime.state = .off) :
    exec .lRoundStart s = .next s := by
  rcases exec_lRoundStart_cases hrel with ⟨-, hexec⟩ | ⟨st, n, k, o, l, -, -⟩
  · exact hexec
  · refine congrArg _ ((live_of_released hrel _).trans ?_)
    have hnone : s.nextLRound = none := by
      simp only [State.nextLRound, hoff]
      split <;> rfl
    simp only [State.takeLRound, hnone]

/-! ## O46 -/

/-- Settles O46: the answer by the check state, and what the next round start makes of it. -/
theorem commitAndCancelFollowTheCheckState : Obligations.CommitAndCancelFollowTheCheckState := by
  intro r s i h b
  have hrel : s.resetnLow = false := h.1.1
  refine ⟨fun hops => ?_, fun hops hnot => ?_, fun hops hclaim => ?_⟩
  · have hcount : (decide (r.operands.length = 0)) = false := by simpa using hops
    exact ⟨exec_unknown h (q := .commit) hcount, exec_unknown h (q := .cancelCommit) hcount⟩
  · exact ⟨exec_unclaimed h (q := .commit) (by rw [hops]; rfl) rfl hnot,
      exec_unclaimed h (q := .cancelCommit) (by rw [hops]; rfl) rfl hnot⟩
  · have hb : b.checkState = s.checkState := begun_checkState s r i
    have hcommit : ∀ {t status}, ownCommit b = (t, .now status [] none false) → t.responses = s.responses →
        exec (.commit r) s = .next (t.replied r i 21 status [] none) :=
      fun hown => exec_answer h .commit (by rw [hops]; rfl) (fun _ => hclaim) hown
    have hcancel : ∀ {t status}, ownCancelCommit b = (t, .now status [] none false) → t.responses = s.responses →
        exec (.cancelCommit r) s = .next (t.replied r i 22 status [] none) :=
      fun hown => exec_answer h .cancelCommit (by rw [hops]; rfl) (fun _ => hclaim) hown
    have hpassed : s.checkState = .passed →
        exec (.commit r) s = .next ({ b with checkState := .commitPending }.replied r i 21 .pending [] none) := fun hc =>
      hcommit (by simp only [ownCommit, hb, hc]; rfl) (begun_responses s r i)
    have hcancelled : s.checkState = .commitPending →
        exec (.cancelCommit r) s = .next ({ b with checkState := .passed }.replied r i 22 .ok [] none) := fun hc =>
      hcancel (by rw [ownCancelCommit, hb, if_pos hc]; rfl) (begun_responses s r i)
    refine ⟨hpassed, ?_, ?_, fun hc => ⟨hcommit ?_ (begun_responses s r i), hcancelled hc⟩,
      fun hc => hcancel ?_ (begun_responses s r i), fun t hc ht => ?_, fun t hc ht => ?_⟩
    · rintro (hc | ⟨c, ref, hc⟩) <;> exact hcommit (by simp only [ownCommit, hb, hc]; rfl) (begun_responses s r i)
    · rintro ⟨p, f, rb, hc⟩
      exact hcommit (by simp only [ownCommit, hb, hc]; rfl) (begun_responses s r i)
    · simp only [ownCommit, hb, hc]
      rfl
    · rw [ownCancelCommit, hb, if_neg hc]
      rfl
    · obtain rfl := Host.Outcome.next.inj ((hpassed hc).symm.trans ht)
      have htime : b.lTime = s.lTime := begun_lTime s r i
      have hrel' : b.resetnLow = false := (begun_resetnLow s r i).trans hrel
      refine ⟨fun hoff => lRoundStart_of_off hrel' (by rw [← htime] at hoff; exact hoff), fun hstate hidle => ?_⟩
      rw [← htime] at hstate hidle
      obtain ⟨t', hexec, hgeneration, hcheck, hactive, hfull | ⟨e, he, hkind, -⟩⟩ :=
        lRoundStart_swaps (s := { b with checkState := .commitPending }.replied r i 21 .pending [] none) hrel' rfl hstate hidle
      · exact ⟨t', hexec, hgeneration.trans (congrArg (· + 1) (begun_generation s r i)), hcheck,
          hactive.trans (begun_staged s r i), .inl hfull⟩
      · exact ⟨t', hexec, hgeneration.trans (congrArg (· + 1) (begun_generation s r i)), hcheck,
          hactive.trans (begun_staged s r i), .inr ⟨e, he, hkind⟩⟩
    · obtain rfl := Host.Outcome.next.inj ((hcancelled hc).symm.trans ht)
      obtain ⟨t', hexec, hgeneration, hcheck, hactive, hstaged⟩ :=
        lRoundStart_keeps_passed (s := { b with checkState := .passed }.replied r i 22 .ok [] none)
          ((begun_resetnLow s r i).trans hrel) rfl
      exact ⟨t', hexec, hgeneration.trans (begun_generation s r i), hcheck, hactive.trans (begun_active s r i),
        hstaged.trans (begun_staged s r i)⟩

end Sys2Proof.Machine
end

section
/-! What an event does beside its lookups does not read the ACTIVE bank: it is the same whatever bank stands there
(R61, R62, R93). -/

set_option Elab.async false

namespace Sys2Proof.Machine

/-- The state with another ACTIVE bank. -/
def State.reading (s : State) (b : Bank) : State := { s with active := b }

section
variable (s : State) (b : Bank)

theorem raise_reading (k : NoticeKind) (j : Subject) : (s.reading b).raise k j = (s.raise k j).reading b := rfl

theorem withContext_reading (p : Port) (c : Option CaptureContext) :
    (s.reading b).withContext p c = (s.withContext p c).reading b := rfl

theorem withMailbox_reading (n : Fin 64) (m : MailboxRt) : (s.reading b).withMailbox n m = (s.withMailbox n m).reading b := rfl

theorem placeWords_reading (m : MailboxRt) (base capacity : Nat) (spoiled : List Nat) (ws : List Word) :
    (s.reading b).placeWords m base capacity spoiled ws = (s.placeWords m base capacity spoiled ws).reading b := rfl

theorem readWords_reading (a k : Nat) : (s.reading b).readWords a k = s.readWords a k :=
  readWords_congr (s := s) (t := s.reading b) (wordAt_congr rfl rfl) a k

theorem load_reading (p : Port) (c : Cell) : (s.reading b).load p c = (s.load p c).reading b := rfl

theorem address_reading (p : Port) : (s.reading b).address p = s.address p := by
  cases p <;> rfl

/-! ## Slot starts -/

theorem sendVoid_reading (p : Port) (k : Nat) (r : Round) (n : Fin 128) (o : EmitOutcome) :
    (s.reading b).sendVoid p k r n o = (s.sendVoid p k r n o).reading b := by
  simp only [State.sendVoid, State.voidCell, address_reading]
  rfl

theorem applyOnEmpty_reading (p : Port) (k : Nat) (r : Round) (n : Fin 128) (e : EmitEntry) (o o' : EmitOutcome) :
    (s.reading b).applyOnEmpty p k r n e o o' = (s.applyOnEmpty p k r n e o o').reading b := by
  unfold State.applyOnEmpty
  cases e.onEmpty with
  | void => exact sendVoid_reading s b p k r n o
  | silent => rfl

theorem faultMailbox_reading (m : Fin 64) : (s.reading b).faultMailbox m = (s.faultMailbox m).reading b := rfl

theorem dataCell_reading (p : Port) (k : Nat) (r : Round) (stale : Bool) (o : Origin) (source : Station) (ws : List Word) :
    (s.reading b).dataCell p k r stale o source ws = s.dataCell p k r stale o source ws := by
  cases o <;> cases p <;> rfl

theorem emitCopy_reading (p : Port) (k : Nat) (r : Round) (n : Fin 128) (e : EmitEntry) (m : Fin 64) (d : MailboxDef)
    (stale : Bool) (o : EmitOutcome) : (s.reading b).emitCopy p k r n e m d stale o = (s.emitCopy p k r n e m d stale o).reading b := by
  have hpayload : (s.reading b).mailboxPayload m d = s.mailboxPayload m d :=
    readWords_reading s b _ _
  simp only [State.emitCopy, hpayload, dataCell_reading, faultMailbox_reading, State.emitFault, applyOnEmpty_reading]
  split <;> rfl

theorem emitMailbox_reading (p : Port) (k : Nat) (r : Round) (n : Fin 128) (e : EmitEntry) (m : Fin 64) (d : MailboxDef) :
    (s.reading b).emitMailbox p k r n e m d = (s.emitMailbox p k r n e m d).reading b := by
  have hmailboxes : (s.reading b).mailboxes = s.mailboxes := rfl
  simp only [State.emitMailbox, hmailboxes, emitCopy_reading, State.emitEmpty, State.emitFault, applyOnEmpty_reading,
    sendVoid_reading]
  generalize s.mailboxes[m].state = state
  cases state with
  | stale => cases e.onStale <;> rfl
  | empty => rfl
  | fresh => rfl
  | spent => rfl
  | faulted => rfl

theorem selectHead_reading (n : Fin 8) (d : QueueDef) (p : Port) :
    (s.reading b).selectHead n d p = ((s.selectHead n d p).1.reading b, (s.selectHead n d p).2) := by
  have hqueues : (s.reading b).queues = s.queues := rfl
  cases hentries : s.queues[n].entries with
  | nil => simp only [State.selectHead, hqueues, hentries]
  | cons e rest =>
    cases hidle : s.queues[n].headInFlight with
    | some q => simp only [State.selectHead, hqueues, hentries, hidle]
    | none =>
      simp only [State.selectHead, hqueues, hentries, hidle, readWords_reading]
      cases s.readWords (ringBase d.base d.capacity d.depth s.queues[n].headPos 0) e.length <;> rfl

theorem emitQueue_reading (p : Port) (k : Nat) (r : Round) (n : Fin 128) (e : EmitEntry) (m : Fin 8) (d : QueueDef) :
    (s.reading b).emitQueue p k r n e m d = (s.emitQueue p k r n e m d).reading b := by
  simp only [State.emitQueue, selectHead_reading]
  generalize s.selectHead m d p = x
  obtain ⟨t, offer⟩ := x
  cases offer with
  | head q ws =>
    simp only [dataCell_reading]
    rfl
  | nothing => exact applyOnEmpty_reading t b p k r n e _ _
  | faulted => exact applyOnEmpty_reading t b p k r n e _ _

/-! ## Captures -/

theorem placeArrived_reading (p : Port) : (s.reading b).placeArrived p = (s.placeArrived p).reading b := by
  rcases writesTo_cases s p with ⟨c, n, base, capacity, spoiled, hw⟩ | hnone
  · rw [placeArrived_of_writesTo hw, placeArrived_of_writesTo (s := s.reading b) hw]
    rfl
  · rw [placeArrived_of_not_writes hnone, placeArrived_of_not_writes (s := s.reading b) hnone]

theorem abandonWrite_reading (n : Fin 64) (p : Port) : (s.reading b).abandonWrite n p = (s.abandonWrite n p).reading b := by
  rw [abandonWrite_frame, abandonWrite_frame]
  rfl

theorem dropContext_reading (p : Port) : (s.reading b).dropContext p = (s.dropContext p).reading b := by
  have hcontexts : (s.reading b).contexts = s.contexts := rfl
  simp only [State.dropContext, hcontexts, placeArrived_reading, withContext_reading, abandonWrite_reading]
  split
  · rfl
  · split <;> rfl

theorem contextOutcome_reading (c : CaptureContext) (o : CaptureOutcome) :
    (s.reading b).contextOutcome c o = (s.contextOutcome c o).reading b := by
  unfold State.contextOutcome
  split <;> rfl

theorem closeCapture_reading (p : Port) (c : CaptureContext) (h : Header) (n : Fin 64) (base capacity : Nat) (spoiled : List Nat)
    (payload : List Word) (valid : Bool) : (s.reading b).closeCapture p c h n base capacity spoiled payload valid =
      (s.closeCapture p c h n base capacity spoiled payload valid).reading b := by
  have hmailboxes : (s.reading b).mailboxes = s.mailboxes := rfl
  simp only [State.closeCapture, hmailboxes, placeWords_reading, withMailbox_reading, contextOutcome_reading]
  split
  · split <;> rfl
  · rfl

theorem append_reading (n : Fin 8) (base capacity depth : Nat) (policy : FullPolicy) (e : QueueEntry) (ws : List Word) :
    (s.reading b).append n base capacity depth policy e ws =
      ((s.append n base capacity depth policy e ws).1.reading b, (s.append n base capacity depth policy e ws).2) := by
  have hqueues : (s.reading b).queues = s.queues := rfl
  simp only [State.append, hqueues]
  split
  · rfl
  · split <;> rfl

theorem appendCapture_reading (c : CaptureContext) (h : Header) (n : Fin 8) (base capacity depth : Nat) (policy : FullPolicy)
    (payload : List Word) (valid : Bool) : (s.reading b).appendCapture c h n base capacity depth policy payload valid =
      (s.appendCapture c h n base capacity depth policy payload valid).reading b := by
  simp only [State.appendCapture, append_reading, contextOutcome_reading]
  split <;> rfl

theorem captureComplete_reading (p : Port) (h : Header) (payload : List Word) (valid : Bool) :
    (s.reading b).captureComplete p h payload valid = (s.captureComplete p h payload valid).reading b := by
  have hcontexts : (s.reading b).contexts = s.contexts := rfl
  simp only [State.captureComplete, hcontexts, withContext_reading, closeCapture_reading, appendCapture_reading]
  split
  · rfl
  · split <;> rfl

/-- A DATA or VOID cell completes the same whatever bank is ACTIVE. -/
theorem completeReception_reading (p : Port) (r : Reception) (payload : List Word) (valid : Bool)
    (hkind : r.header.kind = .data ∨ r.header.kind = .void) :
    (s.reading b).completeReception p r payload valid = (s.completeReception p r payload valid).reading b := by
  rw [completeReception_eq, completeReception_eq]
  rcases hkind with hkind | hkind <;> simp only [State.deliverCell, hkind] <;>
    exact captureComplete_reading (s.counted p valid) b p r.header payload valid

theorem openCapture_reading (p : Port) (n : Fin 128) (r : Round) (t : CaptureTarget) :
    (s.reading b).openCapture p n r t = (s.openCapture p n r t).reading b := by
  cases t with
  | mailbox k base capacity spoiled =>
    cases hopen : s.mailboxes[k].openWrite with
    | none => rw [openCapture_mailbox hopen, openCapture_mailbox (s := s.reading b) hopen]; rfl
    | some q =>
      have hsome : s.mailboxes[k].openWrite.isSome = true := by rw [hopen]; rfl
      rw [openCapture_refused hsome, openCapture_refused (s := s.reading b) hsome]
      rfl
  | queue k base capacity depth policy => rfl

theorem captureMatched_reading (p : Port) (h : Header) (n : Fin 128) (e : CaptureEntry)
    (hfigures : (s.reading b).targetFigures e.target = s.targetFigures e.target) :
    (s.reading b).captureMatched p h n e = (s.captureMatched p h n e).reading b := by
  simp only [State.captureMatched, hfigures, openCapture_reading]
  split
  · rfl
  · split
    · rfl
    · split <;> rfl

end

end Sys2Proof.Machine
end

section
/-! Failed records read as undefined ones (R61, R62, R70, R101, R124). -/

set_option Elab.async false

namespace Sys2Proof.Machine

/-! ## The bank as its readers see it -/

theorem cleared_seen {α : Type} (x : Stored α) : x.cleared.seen = x.seen := by
  obtain ⟨fields, good⟩ := x
  cases good <;> rfl

theorem cleared_good {α : Type} (x : Stored α) : x.cleared.parityGood = true := by
  obtain ⟨fields, good⟩ := x
  cases good <;> rfl

section
variable (b : Bank)

theorem cleared_mailbox (n : Fin 64) : b.cleared.mailboxes[n] = b.mailboxes[n].cleared := by
  rw [Bank.cleared, Fin.getElem_fin, Vector.getElem_map]
  rfl

theorem cleared_queue (n : Fin 8) : b.cleared.queues[n] = b.queues[n].cleared := by
  rw [Bank.cleared, Fin.getElem_fin, Vector.getElem_map]
  rfl

theorem cleared_capture (n : Fin 128) : b.cleared.captures[n] = b.captures[n].cleared := by
  rw [Bank.cleared, Fin.getElem_fin, Vector.getElem_map]
  rfl

theorem cleared_emit (n : Fin 128) : b.cleared.emits[n] = b.emits[n].cleared := by
  rw [Bank.cleared, Fin.getElem_fin, Vector.getElem_map]
  rfl

theorem parityGood_cleared (ref : RecordRef) : b.cleared.parityGood ref = true := by
  cases ref with
  | mailbox n => rw [Bank.parityGood, cleared_mailbox, cleared_good]
  | queue n => rw [Bank.parityGood, cleared_queue, cleared_good]
  | capture n => rw [Bank.parityGood, cleared_capture, cleared_good]
  | emit n => rw [Bank.parityGood, cleared_emit, cleared_good]

theorem findCapture_cleared (p : Port) (k : Nat) (r : Round) : b.cleared.findCapture p k r = b.findCapture p k r := by
  simp only [Bank.findCapture, cleared_capture, cleared_seen]

theorem findEmit_cleared (p : Port) (k : Nat) (r : Round) : b.cleared.findEmit p k r = b.findEmit p k r := by
  simp only [Bank.findEmit, cleared_emit, cleared_seen]

end

theorem targetFigures_cleared (s : State) (k : Place) : (s.reading s.active.cleared).targetFigures k = s.targetFigures k := by
  have hactive : (s.reading s.active.cleared).active = s.active.cleared := rfl
  cases k with
  | mailbox n => rw [State.targetFigures, hactive, cleared_mailbox, cleared_seen, State.targetFigures]
  | queue n => rw [State.targetFigures, hactive, cleared_queue, cleared_seen, State.targetFigures]

theorem activeSound_cleared (s : State) : (s.reading s.active.cleared).ActiveSound := parityGood_cleared s.active

/-! ## The lookups' raises -/

/-- PLAN_PARITY of the failed ones among these records, in their order. -/
theorem raiseEach_reads {α : Type} (b : Bank) (f : α → RecordRef) (r : Round) (l : List α) (u : NoticeUnit) :
    u.raiseEach r (l.flatMap fun n => b.readNotice .active (f n)) =
      u.raiseParity r ((l.filter fun n => !b.parityGood (f n)).map f) := by
  induction l generalizing u with
  | nil => rfl
  | cons n l ih =>
    rw [List.flatMap_cons, raiseEach_append, ih]
    cases hgood : b.parityGood (f n) with
    | true => simp [hgood, Bank.readNotice, NoticeUnit.raiseEach]
    | false => simp [hgood, Bank.readNotice, NoticeUnit.raiseEach, NoticeUnit.raiseParity]

/-- The state after PLAN_PARITY of these records. -/
def State.afterParity (s : State) (failed : List RecordRef) : State :=
  { s with notices := s.notices.raiseParity s.raiseRound failed }

theorem readCaptures_eq (s : State) : s.readCaptures = s.afterParity s.active.failedCaptures := by
  rw [State.readCaptures, raiseAll_eq, raiseEach_reads s.active RecordRef.capture]
  rfl

theorem readEmits_eq (s : State) : s.readEmits = s.afterParity s.active.failedEmits := by
  rw [State.readEmits, raiseAll_eq, raiseEach_reads s.active RecordRef.emit]
  rfl

theorem readActive_afterParity (s : State) (failed : List RecordRef) (k : Place) :
    (s.afterParity failed).readActive k.ref = s.afterParity (failed ++ s.active.failedPlace k) := by
  have hactive : (s.afterParity failed).active = s.active := rfl
  cases hgood : s.active.parityGood k.ref with
  | true =>
    rw [readActive_of_good (by rw [hactive, hgood]), Bank.failedPlace, hgood, if_pos rfl, List.append_nil]
  | false =>
    have happend : s.notices.raiseParity s.raiseRound (failed ++ [k.ref]) =
        (s.notices.raiseParity s.raiseRound failed).raiseParity s.raiseRound [k.ref] := List.foldl_append
    rw [State.readActive, Bank.readNotice, hactive, hgood, if_neg Bool.false_ne_true, Bank.failedPlace, hgood,
      if_neg Bool.false_ne_true]
    exact congrArg (fun u => ({ s with notices := u } : State)) happend.symm

/-! ## The lookup of the capture unit -/

/-- The state in which the failed records read as undefined ones, after PLAN_PARITY of the `failed`. -/
def State.seenBy (s : State) (failed : List RecordRef) : State := (s.afterParity failed).reading s.active.cleared

theorem captureAtHeader_missed {s : State} {p : Port} {h : Header} (hnone : s.active.findCapture p h.slot h.round = none) :
    s.captureAtHeader p h = ((s.seenBy s.active.failedCaptures).captureAtHeader p h).reading s.active := by
  have hcleared : (s.seenBy s.active.failedCaptures).active.findCapture p h.slot h.round = none :=
    (findCapture_cleared s.active p h.slot h.round).trans hnone
  have hsound : (s.seenBy s.active.failedCaptures).ActiveSound := activeSound_cleared s
  simp only [State.captureAtHeader, hnone, hcleared, readCaptures_of_sound hsound, readCaptures_eq]
  rfl

theorem captureAtHeader_found {s : State} {p : Port} {h : Header} {n : Fin 128} {e : CaptureEntry}
    (hfind : s.active.findCapture p h.slot h.round = some (n, e)) : s.captureAtHeader p h =
      ((s.seenBy (s.active.failedCaptures ++ s.active.failedPlace e.target)).captureAtHeader p h).reading s.active := by
  let failed := s.active.failedCaptures ++ s.active.failedPlace e.target
  have hcleared : (s.seenBy failed).active.findCapture p h.slot h.round = some (n, e) :=
    (findCapture_cleared s.active p h.slot h.round).trans hfind
  have hsound : (s.seenBy failed).ActiveSound := activeSound_cleared s
  have hseen : (s.seenBy failed).captureAtHeader p h = (s.seenBy failed).captureMatched p h n e := by
    simp only [State.captureAtHeader, hcleared, readCaptures_of_sound hsound, readActive_of_good (hsound e.target.ref)]
  have hown : s.captureAtHeader p h = (s.afterParity failed).captureMatched p h n e := by
    simp only [State.captureAtHeader, hfind, readCaptures_eq, readActive_afterParity]
    rfl
  have hmatched : (s.seenBy failed).captureMatched p h n e = ((s.afterParity failed).captureMatched p h n e).reading s.active.cleared :=
    captureMatched_reading _ _ _ _ _ _ (targetFigures_cleared (s.afterParity failed) e.target)
  rw [hseen, hown, hmatched]
  exact captureMatched_reading (s.afterParity failed) s.active p h n e rfl

end Sys2Proof.Machine
end

section
/-! The events whose lookups meet failed records (R70, R101, R124), and the L round starts that do (R88, R89, R110). -/

set_option Elab.async false

namespace Sys2Proof.Machine

/-! ## Arrivals -/

/-- The state in which a header-accepted event is offered to the capture unit. -/
def State.taking (s : State) (p : Port) (h : Header) : State :=
  ((s.dropContext p).withRx p (some (s.receptionOf p h true))).withFlags p
    { ((s.dropContext p).withRx p (some (s.receptionOf p h true))).slotFlags.get p with accepted := true }

/-- What follows the capture unit's part: a cell of length 0 completes. -/
def State.taken (s : State) (p : Port) (h : Header) (r : Reception) : State :=
  if h.length = 0 then s.completeReception p r [] true else s

theorem exec_cellArrival_taken {s : State} {p : Port} {header : BitVec 64} {h : Header} (hrel : s.resetnLow = false)
    (hparse : parseHeader header = some h) (hoff : s.portOff p = false) (hclear : s.slotFlags.get p = .clear)
    (hslot : s.currentSlot p = some h.slot) (hround : s.currentRound p = some h.round) (hdelivers : s.delivers p = true)
    (hkind : h.kind = .data ∨ h.kind = .void) : exec (.cellArrival p header true) s =
      .next (((s.taking p h).captureAtHeader p h).taken p h (s.receptionOf p h true)) := by
  have htest : s.testHeader p h true = .accepted :=
    testHeader_accepted (.inr (.inr ⟨hslot, hround, rfl, by rw [hclear]; rfl⟩))
  have hcurrent : (s.currentSlot p).isSome = true := by rw [hslot]; rfl
  have hdeliverable : ((s.receptionOf p h true).deliverable && (h.kind = .data || h.kind = .void)) = true := by
    have hd : (s.receptionOf p h true).deliverable = true := hdelivers
    rw [hd]
    simpa using hkind
  rw [exec_cellArrival hrel, if_pos (receives_eq hoff (by rw [hclear]; rfl))]
  simp only [State.arrive, hparse, htest, State.acceptHeader, if_pos hcurrent, if_pos hdeliverable]
  rfl

theorem dropContext_withNotices (s : State) (u : NoticeUnit) (p : Port) :
    (s.withNotices u).dropContext p = (s.dropContext p).withNotices u := by
  have hcontexts : (s.withNotices u).contexts = s.contexts := rfl
  simp only [State.dropContext, hcontexts, placeArrived_withNotices, abandonWrite_frame]
  split
  · rfl
  · split <;> rfl

theorem taking_active (s : State) (p : Port) (h : Header) : (s.taking p h).active = s.active := by
  obtain ⟨st, k, ms, hdrop⟩ := dropContext_frame s p
  rw [State.taking, hdrop]
  rfl

theorem receptionOf_seenBy (s : State) (failed : List RecordRef) (p : Port) (h : Header) :
    (s.seenBy failed).receptionOf p h true = s.receptionOf p h true := by
  cases p <;> rfl

theorem taking_seenBy (s : State) (failed : List RecordRef) (p : Port) (h : Header) :
    (s.seenBy failed).taking p h = (s.taking p h).seenBy failed := by
  have hdrop : (s.seenBy failed).dropContext p =
      ((s.dropContext p).withNotices (s.notices.raiseParity s.raiseRound failed)).reading s.active.cleared :=
    (dropContext_reading _ _ p).trans (congrArg (State.reading · s.active.cleared) (dropContext_withNotices s _ p))
  obtain ⟨st, k, ms, hframe⟩ := dropContext_frame s p
  rw [State.taking, State.taking, hdrop, receptionOf_seenBy, hframe]
  rfl

theorem taken_reading (s : State) (b : Bank) (p : Port) (h : Header) (r : Reception) (hr : r.header.kind = .data ∨ r.header.kind = .void) :
    (s.reading b).taken p h r = (s.taken p h r).reading b := by
  unfold State.taken
  split
  · exact completeReception_reading s b p r [] true hr
  · rfl

/-! ## Slot ends -/

theorem captureEmpty_seenBy (s : State) (p : Port) (k : Nat) (r : Round) :
    s.captureEmpty p k r = ((s.seenBy s.active.failedCaptures).captureEmpty p k r).reading s.active := by
  have hfind : (s.seenBy s.active.failedCaptures).active.findCapture p k r = s.active.findCapture p k r :=
    findCapture_cleared s.active p k r
  have hsound : (s.seenBy s.active.failedCaptures).ActiveSound := activeSound_cleared s
  simp only [State.captureEmpty, hfind, readCaptures_of_sound hsound, readCaptures_eq]
  split <;> rfl

/-! ## Slot starts -/

/-- What the source of the matching entry answers. -/
def State.serveSource (s : State) (b : Bank) (p : Port) (k : Nat) (r : Round) (n : Fin 128) (e : EmitEntry) : State :=
  match e.source with
  | .mailbox m => ((b.mailboxes[m].seen.map fun d => s.emitMailbox p k r n e m d).getD (s.emitFault p k r n e))
  | .queue m => ((b.queues[m].seen.map fun d => s.emitQueue p k r n e m d).getD (s.emitFault p k r n e))

theorem serveSource_cleared (s : State) (b : Bank) (p : Port) (k : Nat) (r : Round) (n : Fin 128) (e : EmitEntry) :
    s.serveSource b.cleared p k r n e = s.serveSource b p k r n e := by
  simp only [State.serveSource, cleared_mailbox, cleared_queue, cleared_seen]

theorem serveSource_reading (s : State) (b b' : Bank) (p : Port) (k : Nat) (r : Round) (n : Fin 128) (e : EmitEntry) :
    (s.reading b').serveSource b p k r n e = (s.serveSource b p k r n e).reading b' := by
  have hfault := applyOnEmpty_reading s b' p k r n e .fault .fault
  unfold State.serveSource
  cases e.source with
  | mailbox m =>
    dsimp only
    cases b.mailboxes[m].seen with
    | none => exact hfault
    | some d => exact emitMailbox_reading s b' p k r n e m d
  | queue m =>
    dsimp only
    cases b.queues[m].seen with
    | none => exact hfault
    | some d => exact emitQueue_reading s b' p k r n e m d

theorem serveDataSlot_found {s : State} {p : Port} {k : Nat} {r : Round} {n : Fin 128} {e : EmitEntry}
    (hfind : s.active.findEmit p k r = some (n, e)) :
    s.serveDataSlot p k r = (s.readEmits.readActive e.source.ref).serveSource s.active p k r n e := by
  simp only [State.serveDataSlot, hfind, State.serveSource]
  cases e.source with
  | mailbox m =>
    dsimp only
    cases s.active.mailboxes[m].seen <;> rfl
  | queue m =>
    dsimp only
    cases s.active.queues[m].seen <;> rfl

theorem serveDataSlot_seenBy_missed {s : State} {p : Port} {k : Nat} {r : Round} (hnone : s.active.findEmit p k r = none) :
    s.serveDataSlot p k r = ((s.seenBy s.active.failedEmits).serveDataSlot p k r).reading s.active := by
  have hcleared : (s.seenBy s.active.failedEmits).active.findEmit p k r = none := (findEmit_cleared s.active p k r).trans hnone
  have hsound : (s.seenBy s.active.failedEmits).ActiveSound := activeSound_cleared s
  simp only [State.serveDataSlot, hnone, hcleared, readEmits_of_sound hsound, readEmits_eq]
  rfl

theorem serveDataSlot_seenBy_found {s : State} {p : Port} {k : Nat} {r : Round} {n : Fin 128} {e : EmitEntry}
    (hfind : s.active.findEmit p k r = some (n, e)) : s.serveDataSlot p k r =
      ((s.seenBy (s.active.failedEmits ++ s.active.failedPlace e.source)).serveDataSlot p k r).reading s.active := by
  let failed := s.active.failedEmits ++ s.active.failedPlace e.source
  have hcleared : (s.seenBy failed).active.findEmit p k r = some (n, e) := (findEmit_cleared s.active p k r).trans hfind
  have hsound : (s.seenBy failed).ActiveSound := activeSound_cleared s
  have hseen : (s.seenBy failed).serveDataSlot p k r = ((s.afterParity failed).serveSource s.active p k r n e).reading s.active.cleared := by
    rw [serveDataSlot_found hcleared, readEmits_of_sound hsound, readActive_of_good (hsound e.source.ref)]
    exact (serveSource_cleared _ s.active p k r n e).trans (serveSource_reading _ _ _ p k r n e)
  rw [hseen, serveDataSlot_found hfind, readEmits_eq, readActive_afterParity]
  exact serveSource_reading (s.afterParity failed) s.active s.active p k r n e

theorem enterSlot_seenBy (s : State) (failed : List RecordRef) (p : Port) (k : Nat) :
    (s.seenBy failed).enterSlot p k = (s.enterSlot p k).seenBy failed := by
  cases p <;> rfl

theorem enterSlot_active (s : State) (p : Port) (k : Nat) : (s.enterSlot p k).active = s.active := by
  cases p <;> rfl

/-! ## L round starts -/

theorem planParity_aging {s : State} {k : Fin 64} (hbad : s.active.mailboxes[k].parityGood = false) :
    (NoticeKind.planParity, Subject.record .active (.mailbox k)) ∈ s.agingRaises := by
  refine List.mem_flatMap.2 ⟨k, List.mem_finRange k, ?_⟩
  rw [agingNotices, hbad]
  exact List.mem_singleton_self _

theorem mem_readNotice {b : Bank} {role : BankRole} {ref : RecordRef} (hbad : b.parityGood ref = false) :
    (NoticeKind.planParity, Subject.record role ref) ∈ b.readNotice role ref := by
  rw [Bank.readNotice, hbad]
  exact List.mem_singleton_self _

/-- A failed definition of the bank that becomes ACTIVE, or STAGED, is raised at the swap. -/
theorem planParity_swap_mailbox {s : State} {k : Fin 64} :
    (s.staged.mailboxes[k].parityGood = false → (NoticeKind.planParity, Subject.record .active (.mailbox k)) ∈ s.swapRaises) ∧
    (s.active.mailboxes[k].parityGood = false → (NoticeKind.planParity, Subject.record .staged (.mailbox k)) ∈ s.swapRaises) := by
  refine ⟨fun hbad => ?_, fun hbad => ?_⟩ <;>
    refine List.mem_cons_of_mem _ (List.mem_append_left _ (List.mem_flatMap.2 ⟨k, List.mem_finRange k, ?_⟩))
  · exact List.mem_append_left _ (mem_readNotice (b := s.staged) (ref := .mailbox k) hbad)
  · exact List.mem_append_right _ (mem_readNotice (b := s.active) (ref := .mailbox k) hbad)

theorem planParity_swap_queue {s : State} {k : Fin 8} :
    (s.staged.queues[k].parityGood = false → (NoticeKind.planParity, Subject.record .active (.queue k)) ∈ s.swapRaises) ∧
    (s.active.queues[k].parityGood = false → (NoticeKind.planParity, Subject.record .staged (.queue k)) ∈ s.swapRaises) := by
  refine ⟨fun hbad => ?_, fun hbad => ?_⟩ <;>
    refine List.mem_cons_of_mem _ (List.mem_append_right _ (List.mem_flatMap.2 ⟨k, List.mem_finRange k, ?_⟩))
  · exact List.mem_append_left _ (mem_readNotice (b := s.staged) (ref := .queue k) hbad)
  · exact List.mem_append_right _ (mem_readNotice (b := s.active) (ref := .queue k) hbad)

theorem swapRaises_begun {s x : State} {c : Instr} {st : LState} {n : Round} (h : s.RoundBegun c st n x) :
    x.swapRaises = s.swapRaises := by
  obtain ⟨flags, co, u, k, rfl, -⟩ := h
  exact swapRaises_congr rfl rfl

theorem mailboxKept_failed {x y : Stored MailboxDef} (h : x.parityGood = false ∨ y.parityGood = false) : ¬mailboxKept x y = true := by
  rintro hkept
  obtain ⟨a, b, rfl, rfl, -⟩ := mailboxKept_iff.1 hkept
  rcases h with h | h <;> cases h

theorem queueKept_failed {x y : Stored QueueDef} (h : x.parityGood = false ∨ y.parityGood = false) : ¬queueKept x y = true := by
  rintro hkept
  obtain ⟨a, b, rfl, rfl, -⟩ := queueKept_iff.1 hkept
  rcases h with h | h <;> cases h

/-! ## O9 -/

section
variable {p : Port} {s : State} {k : Nat} {r : Round} (hrel : s.resetnLow = false) (hround : s.currentRound p = some r)
include hrel hround

/-- An arrival after the raises of its lookup, over the bank with the failed records undefined. -/
theorem exec_cellArrival_seenBy {header : BitVec 64} {h : Header} (hparse : parseHeader header = some h)
    (hoff : s.portOff p = false) (hclear : s.slotFlags.get p = .clear) (hslot : s.currentSlot p = some h.slot)
    (hr : h.round = r) (hdelivers : s.delivers p = true) (hkind : h.kind = .data ∨ h.kind = .void) {failed : List RecordRef}
    (hlookup : (s.taking p h).captureAtHeader p h =
      (((s.taking p h).seenBy failed).captureAtHeader p h).reading s.active) :
    ∃ t, exec (.cellArrival p header true) (s.seenBy failed) = .next t ∧
      exec (.cellArrival p header true) s = .next { t with active := s.active } := by
  have hround' : s.currentRound p = some h.round := hround.trans (congrArg some hr.symm)
  have hseen := exec_cellArrival_taken (s := s.seenBy failed) (p := p) (header := header) hrel hparse
    (by cases p <;> exact hoff) hclear (by cases p <;> exact hslot) (by cases p <;> exact hround')
    (by cases p <;> exact hdelivers) hkind
  refine ⟨_, hseen, ?_⟩
  rw [exec_cellArrival_taken hrel hparse hoff hclear hslot hround' hdelivers hkind, hlookup, taking_seenBy, receptionOf_seenBy,
    taken_reading _ _ _ _ _ hkind]
  rfl

theorem exec_slotEnd_seenBy (hclear : s.slotFlags.get p = .clear) (hslot : s.currentSlot p = some k)
    (hdelivers : s.delivers p = true) (htx : s.tx.get p = none) (hrx : s.rx.get p = none)
    (hheld : ∀ x, p = .l → s.lTime.pending = some x → x.held = false) :
    ∃ t, exec (.slotEnd p) (s.seenBy s.active.failedCaptures) = .next t ∧
      exec (.slotEnd p) s = .next { t with active := s.active } := by
  have hlocked : p = .u → s.uTime.state = .locked := by
    rintro rfl
    exact of_decide_eq_true hdelivers
  obtain ⟨co, u, hframe, -, -⟩ := captureEmpty_raises (s.seenBy s.active.failedCaptures) p k r
  have hseen : exec (.slotEnd p) (s.seenBy s.active.failedCaptures) =
      .next (((s.seenBy s.active.failedCaptures).captureEmpty p k r).slotOver p) :=
    exec_slotEnd (s := s.seenBy s.active.failedCaptures) hrel (by cases p <;> exact congrArg Option.isSome hslot) htx hrx hheld
      (slotPassedEmpty_of_empty (s := s.seenBy s.active.failedCaptures) (by cases p <;> exact hslot) (by cases p <;> exact hround)
        hclear hlocked) (by rw [hframe]) (by rw [hframe])
  refine ⟨_, hseen, ?_⟩
  rw [exec_slotEnd hrel (by rw [hslot]; rfl) htx hrx hheld
    ((slotPassedEmpty_of_empty hslot hround hclear hlocked).trans (captureEmpty_seenBy s p k r))
    (by rw [hframe]; rfl) (by rw [hframe]; rfl)]
  cases p <;> rfl

theorem exec_slotStart_seenBy (hslot : s.currentSlot p = none) (hk : s.lastSlot p + 1 = k) (hlast : k ≤ s.slotCount p)
    (hforwarding : s.forwarding = .forwarding) (hresponse : k ≠ s.responseSlot p) (hserves : s.Serves p k) {failed : List RecordRef}
    (hlookup : (s.enterSlot p k).serveDataSlot p k r =
      (((s.enterSlot p k).seenBy failed).serveDataSlot p k r).reading s.active) :
    ∃ t, exec (.slotStart p) (s.seenBy failed) = .next t ∧ exec (.slotStart p) s = .next { t with active := s.active } := by
  have hlast' : s.lastSlot p < s.slotCount p := by omega
  have hseen := exec_slotStart_of_serves (s := s.seenBy failed) (p := p) (n := r) (k := k) hrel (by cases p <;> exact hround)
    (by cases p <;> exact hslot) (by cases p <;> exact hlast') (by cases p <;> exact hk) hserves
  rw [if_neg (by cases p <;> exact hresponse), if_pos (show (s.seenBy failed).forwarding = .forwarding from hforwarding)] at hseen
  refine ⟨_, hseen, ?_⟩
  rw [exec_slotStart_of_serves hrel hround hslot hlast' hk hserves, if_neg hresponse, if_pos hforwarding, hlookup, enterSlot_seenBy]
  rfl

end

/-- Settles O9: each lookup over the bank as its readers see it, and the failed definitions of an L round start. -/
theorem failedRecordsReadAsUndefined : Obligations.FailedRecordsReadAsUndefined := by
  refine ⟨?_, ?_⟩
  · intro c p s k r hrel hround a seenAs
    refine ⟨?_, ?_, ?_⟩
    · rintro header h rfl hparse hoff hclear hslot rfl hr hdelivers hkind
      have hactive := taking_active s p h
      have harrives := fun failed => exec_cellArrival_seenBy (failed := failed) hrel hround hparse hoff hclear hslot hr hdelivers hkind
      refine ⟨fun hnone => harrives _ ?_, fun n e hone he hhit => harrives _ ?_⟩
      · have hfind : (s.taking p h).active.findCapture p h.slot h.round = none := by
          rw [hactive, hr]
          exact findCapture_eq_none.2 hnone
        have hmissed := captureAtHeader_missed hfind
        rwa [hactive] at hmissed
      · have hfind : (s.taking p h).active.findCapture p h.slot h.round = some (n, e) := by
          rw [hactive, hr]
          exact findCapture_of_hit hone he hhit
        have hfound := captureAtHeader_found hfind
        rwa [hactive] at hfound
    · rintro rfl hclear hslot hdelivers htx hrx hheld
      exact exec_slotEnd_seenBy hrel hround hclear hslot hdelivers htx hrx fun x hp => hheld x hp
    · rintro rfl hslot hk hlast hforwarding hresponse hserves
      have hactive := enterSlot_active s p k
      have hstarts := fun failed => exec_slotStart_seenBy (failed := failed) hrel hround hslot hk hlast hforwarding hresponse hserves
      refine ⟨fun hnone => hstarts _ ?_, fun n e hone he hhit => hstarts _ ?_⟩
      · have hfind : (s.enterSlot p k).active.findEmit p k r = none := by
          rw [hactive]
          exact findEmit_eq_none.2 hnone
        have hmissed := serveDataSlot_seenBy_missed hfind
        rwa [hactive] at hmissed
      · have hfind : (s.enterSlot p k).active.findEmit p k r = some (n, e) := by
          rw [hactive]
          exact findEmit_of_hit hone he hhit
        have hfound := serveDataSlot_seenBy_found hfind
        rwa [hactive] at hfound
  · intro s c st n hstarts
    obtain ⟨x, o, l, hbegun, htaken, hraises⟩ := startsLRound_taken hstarts
    have hcheck := checkState_begun hbegun
    refine ⟨_, htaken, fun hnot k hbad => ⟨?_, ?_⟩, fun hpending => ?_⟩
    · have hraised := planParity_aging hbad
      rw [← agingRaises_begun hbegun] at hraised
      refine shows_roundTaken (mem_of_tiedRaises hraises ?_)
      rcases raisedBy_of_not_pending o (s := x) (by rwa [hcheck]) with h | h <;> rw [h]
      · exact List.mem_append_left _ hraised
      · exact List.mem_append_right _ hraised
    · rw [roundTaken_quiet o n l (by rwa [hcheck])]
      obtain ⟨flags, co, u, k', rfl, -⟩ := hbegun
      exact (aged_get s k).trans (agedUnder_still (.inr (.inl hbad)))
    · have hshows : ∀ {j}, (NoticeKind.planParity, j) ∈ s.swapRaises → (x.roundTaken o n l).notices.Shows .planParity j := fun hj =>
        shows_roundTaken (mem_of_tiedRaises hraises (swapRaises_mem o (hcheck.trans hpending) (by rwa [swapRaises_begun hbegun])))
      obtain ⟨ms, st', k', hswap, hms, -⟩ := roundTaken_swap o n l (hcheck.trans hpending)
      have hlost := fun k => swapped_mailbox_lost x k hms
      rw [hswap] at hshows ⊢
      obtain ⟨flags, co, u, k'', rfl, -⟩ := hbegun
      refine ⟨fun k => ⟨fun hbad => ⟨hshows (planParity_swap_mailbox.2 hbad), hlost k (mailboxKept_failed (.inl hbad))⟩,
        fun hbad => ⟨hshows (planParity_swap_mailbox.1 hbad), hlost k (mailboxKept_failed (.inr hbad))⟩⟩,
        fun k => ⟨fun hbad => ⟨hshows (planParity_swap_queue.2 hbad), ?_⟩,
        fun hbad => ⟨hshows (planParity_swap_queue.1 hbad), ?_⟩⟩⟩
      · exact (carriedQueue_get _ k).trans (if_neg (queueKept_failed (.inl hbad)))
      · exact (carriedQueue_get _ k).trans (if_neg (queueKept_failed (.inr hbad)))

end Sys2Proof.Machine
end

section
/-! A port given up: its transmission ends ABORTED, its context is closed, its queue flushed (R15, R33, R103, R147);
port L untied with LOCK_LOST (R32, R48). -/

set_option Elab.async false

namespace Sys2Proof.Machine

/-! ## A transmission that ends ABORTED -/

/-- The emit record of the DATA or VOID transmission in flight on P. -/
def State.emitting (s : State) (p : Port) : Option EmitRecord :=
  match s.tx.get p with
  | some c => if c.header.kind = .data ∨ c.header.kind = .void then s.emitRecords.get p else none
  | none => none

def State.abortedRecords (s : State) (p : Port) : PerPort (Option EmitRecord) :=
  match s.emitting p with
  | some _ => s.emitRecords.set p none
  | none => s.emitRecords

def State.abortedOutcomes (s : State) (p : Port) : Vector (Option (EmitOutcome × Round)) 128 :=
  match s.emitting p with
  | some x => if x.mark = .none then s.emitOutcomes.set x.entry (some (.aborted, x.round)) else s.emitOutcomes
  | none => s.emitOutcomes

def State.abortedQueues (s : State) (p : Port) : Vector QueueRt 8 :=
  match s.emitting p with
  | some x => if x.mark = .cut then s.queues else x.effect.queuesAfter s.queues p .aborted
  | none => s.queues

/-- The transmission of P is given up: what the emit unit makes of it, and no more. -/
def State.silenced (s : State) (p : Port) : State :=
  { s with
    tx := s.tx.set p none, emitRecords := s.abortedRecords p, emitOutcomes := s.abortedOutcomes p
    queues := s.abortedQueues p }

theorem mailboxesAfter_aborted (x : SourceEffect) (ms : Vector MailboxRt 64) : x.mailboxesAfter ms .aborted = ms := by
  cases x with
  | mailbox n tag mode => simp [SourceEffect.mailboxesAfter]
  | queue n depth limit => rfl
  | none => rfl

theorem discarded_aborted (x : SourceEffect) (qs : Vector QueueRt 8) (p : Port) : x.discarded qs p .aborted = none := by
  cases x with
  | mailbox n tag mode => rfl
  | queue n depth limit => simp [SourceEffect.discarded]
  | none => rfl

theorem sourceEnd_aborted (s : State) (p : Port) (x : SourceEffect) :
    s.sourceEnd p x .aborted = { s with queues := x.queuesAfter s.queues p .aborted } := by
  rw [sourceEnd_eq, mailboxesAfter_aborted, discarded_aborted]
  rfl

theorem emitEnd_aborted {s : State} {p : Port} {x : EmitRecord} (h : s.emitRecords.get p = some x) : s.emitEnd p .aborted =
    { s with
      emitRecords := s.emitRecords.set p none
      emitOutcomes := if x.mark = .none then s.emitOutcomes.set x.entry (some (.aborted, x.round)) else s.emitOutcomes
      queues := if x.mark = .cut then s.queues else x.effect.queuesAfter s.queues p .aborted } := by
  simp only [State.emitEnd, h]
  cases hmark : x.mark with
  | cut => rfl
  | carried => exact sourceEnd_aborted _ p x.effect
  | none => exact sourceEnd_aborted _ p x.effect

theorem finishTx_aborted (s : State) (p : Port) : s.finishTx p .aborted = s.silenced p := by
  cases htx : s.tx.get p with
  | none =>
    have hset : s.tx.set p none = s.tx := by rw [← htx, PerPort.set_get]
    simp only [State.silenced, finishTx_of_none htx, State.abortedRecords, State.abortedOutcomes, State.abortedQueues,
      State.emitting, htx, hset]
  | some c =>
    have hfreed : s.freed p .aborted = { s with tx := s.tx.set p none } := by
      have hcounters : s.counters.set p ((s.counters.get p).afterEnd .aborted) = s.counters := PerPort.set_get s.counters p
      rw [State.freed, hcounters]
    rw [finishTx_of_some htx, hfreed]
    by_cases hkind : c.header.kind = .data ∨ c.header.kind = .void
    · rw [if_pos hkind]
      cases hrecord : s.emitRecords.get p with
      | none =>
        simp only [State.emitEnd, hrecord, State.silenced, State.abortedRecords, State.abortedOutcomes, State.abortedQueues,
          State.emitting, htx, if_pos hkind]
      | some x =>
        rw [emitEnd_aborted (s := { s with tx := s.tx.set p none }) hrecord]
        simp only [State.silenced, State.abortedRecords, State.abortedOutcomes, State.abortedQueues, State.emitting, htx,
          if_pos hkind, hrecord]
    · rw [if_neg hkind]
      simp only [State.silenced, State.abortedRecords, State.abortedOutcomes, State.abortedQueues, State.emitting, htx,
        if_neg hkind]

theorem exec_transmissionEnd_aborted {s : State} {p : Port} (hrel : s.resetnLow = false) :
    exec (.transmissionEnd p .aborted) s = .next (s.silenced p) := by
  rw [exec_transmissionEnd hrel, ← finishTx_aborted]
  cases htx : s.tx.get p with
  | none => simp only [State.transmissionEnd, htx, finishTx_of_none htx]
  | some c => rw [transmissionEnd_of_other htx (.inr rfl)]

/-! ## The port given up -/

/-- The steps of R22 and R50 that give up what port P has in hand. -/
def State.givenUp (s : State) (p : Port) : State :=
  { s.closeContext p with
    rx := s.rx.set p none, tx := s.tx.set p none, emitRecords := s.abortedRecords p
    emitOutcomes := s.abortedOutcomes p, queues := s.abortedQueues p, responses := s.responses.set p [] }

theorem silenced_congr {s t : State} {p : Port} (htx : t.tx = s.tx) (hr : t.emitRecords = s.emitRecords)
    (ho : t.emitOutcomes = s.emitOutcomes) (hq : t.queues = s.queues) : t.abortedRecords p = s.abortedRecords p ∧
      t.abortedOutcomes p = s.abortedOutcomes p ∧ t.abortedQueues p = s.abortedQueues p := by
  simp only [State.abortedRecords, State.abortedOutcomes, State.abortedQueues, State.emitting, htx, hr, ho, hq, and_self]

theorem givenUp_eq (s : State) (p : Port) : (((s.closeContext p).withRx p none).finishTx p .aborted).flush p = s.givenUp p := by
  obtain ⟨st, k, ms, co, h⟩ := closeContext_frame s p
  obtain ⟨hr, ho, hq⟩ := silenced_congr (s := s) (t := (s.closeContext p).withRx p none) (p := p)
    (by rw [h]; rfl) (by rw [h]; rfl) (by rw [h]; rfl) (by rw [h]; rfl)
  rw [finishTx_aborted, State.silenced, hr, ho, hq, State.givenUp, h]
  rfl

/-! ## Leaving LOCKED (R32, R48) -/

theorem untied_of_tied {r : LocalRecord} (h : r.state = .tied ∨ r.state = .tying) :
    r.untied = { r with state := .untied, pending := none } := by
  rcases h with h | h <;> simp [LocalRecord.untied, h]

theorem untied_of_untied {r : LocalRecord} (h : r.state = .untied ∨ r.state = .off) : r.untied = r := by
  rcases h with h | h <;> simp [LocalRecord.untied, h]

/-- LOCK_LOST, with TIE_LOST from TIED in either order, after which the record of port L is untied. -/
theorem lockLost_eq (s : State) : ∃ u, either (·.raise .lockLost .none) State.untie s =
      { s with choice := s.choice + 1, lTime := s.lTime.untied, notices := u } ∧
    (s.lTime.state ≠ .tied → u = s.notices.raise .lockLost .none s.raiseRound) ∧
    (s.lTime.state = .tied →
      u = (s.notices.raise .lockLost .none s.raiseRound).raise .tieLost .none s.raiseRound ∨
      u = (s.notices.raise .tieLost .none s.raiseRound).raise .lockLost .none s.raiseRound) := by
  obtain ⟨l, he, hone, htwo⟩ := StepInvariant.lockLost_untie s
  refine ⟨s.notices.raiseEach s.raiseRound l, ?_, fun h => by rw [hone h]; rfl, fun h => ?_⟩
  · have hround : ({ s with choice := s.choice + 1, lTime := s.lTime.untied } : State).raiseRound = s.raiseRound := raiseRound_untied s
    rw [he, raiseAll_eq, hround]
  · rcases htwo h with rfl | rfl
    · exact .inl rfl
    · exact .inr rfl

end Sys2Proof.Machine
end

section
/-! The link start of port U, and the lapse (R22, R29, R32 to R34, R48, R148). -/

set_option Elab.async false

namespace Sys2Proof.Machine

theorem mem_marks {s : State} {p : Port} {m : RestartMark} :
    m ∈ s.marks p ↔ ∃ x, x ∈ s.responses.get p ∧ x.mark = some m := List.mem_filterMap

/-! ## The link start of U -/

/-- Port U given up and started afresh, before LOCK_LOST (R22). -/
def State.startedU (s : State) : State :=
  { s.givenUp .u with
    uInUse := s.uStored, uTime := .atStart s.uStored.enabled, slotFlags := s.slotFlags.set .u .clear }

theorem startLinkU_eq (s : State) : s.startLinkU =
    if s.locked then either (·.raise .lockLost .none) State.untie s.startedU else s.startedU := by
  have hstarted : { s.givenUp .u with
      uInUse := (s.givenUp .u).uStored, uTime := .atStart (s.givenUp .u).uStored.enabled
      slotFlags := (s.givenUp .u).slotFlags.set .u .clear } = s.startedU := by
    obtain ⟨st, k, ms, co, h⟩ := closeContext_frame s .u
    simp only [State.startedU, State.givenUp, h]
  rw [State.startLinkU, givenUp_eq, hstarted]

/-- The notices and the record of port L after port U was started from this state (R32, R48). -/
def LeavesLock (s t : State) : Prop :=
  (s.uTime.state ≠ .locked → t.lTime = s.lTime ∧ t.notices = s.notices) ∧
  (s.uTime.state = .locked → t.lTime = s.lTime.untied ∧
    (s.lTime.state ≠ .tied → t.notices = s.notices.raise .lockLost .none s.raiseRound) ∧
    (s.lTime.state = .tied →
      t.notices = (s.notices.raise .lockLost .none s.raiseRound).raise .tieLost .none s.raiseRound ∨
      t.notices = (s.notices.raise .tieLost .none s.raiseRound).raise .lockLost .none s.raiseRound))

/-- The link start of U: what was given up, the record afresh, and LOCK_LOST from LOCKED. -/
theorem startLinkU_taken (s : State) : ∃ l u k, s.startLinkU = { s.startedU with lTime := l, notices := u, choice := k } ∧
    LeavesLock s { s.startedU with lTime := l, notices := u, choice := k } := by
  obtain ⟨st, k, ms, co, h⟩ := closeContext_frame s .u
  have hnotices : s.startedU.notices = s.notices := by rw [State.startedU, State.givenUp, h]
  have htime : s.startedU.lTime = s.lTime := by rw [State.startedU, State.givenUp, h]
  by_cases hlocked : s.uTime.state = .locked
  · obtain ⟨u, he, hone, htwo⟩ := lockLost_eq s.startedU
    rw [hnotices, htime, raiseRound_congr htime] at hone htwo
    refine ⟨s.lTime.untied, u, s.startedU.choice + 1, ?_, fun hno => absurd hlocked hno, fun _ => ⟨rfl, hone, htwo⟩⟩
    rw [startLinkU_eq, if_pos (show s.locked = true from decide_eq_true hlocked), he, htime]
  · refine ⟨s.startedU.lTime, s.startedU.notices, s.startedU.choice, ?_, fun _ => ⟨htime, hnotices⟩, fun hno => absurd hno hlocked⟩
    rw [startLinkU_eq, if_neg (by simpa [State.locked] using hlocked)]

/-- A link start of U that finds nothing in hand. -/
theorem startLinkU_idle {s : State} (hlocked : s.uTime.state ≠ .locked) (hcontext : s.contexts.u = none) (htx : s.tx.u = none)
    (hresponses : s.responses.u = []) : s.startLinkU = { s with
      rx := s.rx.set .u none, uInUse := s.uStored, uTime := .atStart s.uStored.enabled, slotFlags := s.slotFlags.set .u .clear } := by
  have hclose : s.closeContext .u = s := by
    have hget : s.contexts.get .u = none := hcontext
    simp only [State.closeContext, hget]
  have hemitting : s.emitting .u = none := by
    have hget : s.tx.get .u = none := htx
    simp only [State.emitting, hget]
  have htx' : s.tx.set .u none = s.tx := by
    rw [← htx]
    exact PerPort.set_get s.tx .u
  have hresponses' : s.responses.set .u [] = s.responses := by
    rw [← hresponses]
    exact PerPort.set_get s.responses .u
  rw [startLinkU_eq, if_neg (by simpa [State.locked] using hlocked), State.startedU, State.givenUp, hclose]
  simp only [State.abortedRecords, State.abortedOutcomes, State.abortedQueues, hemitting, htx', hresponses']

theorem atStart_not_locked (b : Bool) : (UplinkRecord.atStart b).state ≠ .locked := by
  cases b <;> exact fun h => by cases h

/-- The second link start of U that marks bring changes nothing more (R148). -/
theorem startLinkU_again (s : State) : s.startLinkU.startLinkU = s.startLinkU := by
  obtain ⟨l, u, k, h, -⟩ := startLinkU_taken s
  obtain ⟨st, k', ms, co, hclose⟩ := closeContext_frame s .u
  have hcontext : s.startLinkU.contexts.u = none := by rw [h, State.startedU, State.givenUp, hclose]; rfl
  have hstate : s.startLinkU.uTime.state ≠ .locked := by rw [h]; exact atStart_not_locked _
  rw [startLinkU_idle hstate hcontext (by rw [h]; rfl) (by rw [h]; rfl), h, State.startedU, State.givenUp, hclose]
  rfl

theorem linkStart_u_of_unmarked {s : State} (h : .bridge ∉ s.marks .u) : s.linkStart .u = s.startLinkU := by
  rw [State.linkStart, if_neg h]
  split
  · exact startLinkU_again s
  · rfl

theorem linkStart_of_bridge {s : State} {p : Port} (h : .bridge ∈ s.marks p) : s.linkStart p = s.bridgeRestart := if_pos h

/-- Settles O25: what was in hand given up, the record afresh, and a second start that changes nothing. -/
theorem linkStartUAdoptsAndSeeks : Obligations.LinkStartUAdoptsAndSeeks := by
  intro s hrel marked
  have hmarks : ∀ m, m ∈ s.marks .u ↔ marked m := fun m => mem_marks
  have hexec : exec .linkStartU s = .next (s.linkStart .u) := congrArg _ (live_of_released hrel _)
  refine ⟨fun hbridge => ?_, fun hno => ?_⟩
  · rw [hexec, linkStart_of_bridge ((hmarks _).2 hbridge)]
    exact congrArg _ (live_of_released hrel _).symm
  · rw [linkStart_u_of_unmarked fun h => hno ((hmarks _).1 h)] at hexec
    obtain ⟨l, u, k, hstart, hunlocked, hlocked⟩ := startLinkU_taken s
    obtain ⟨st, k', ms, co, hclose⟩ := closeContext_frame s .u
    have houtcomes : s.startLinkU.captureOutcomes = (s.closeContext .u).captureOutcomes := by rw [hstart]; rfl
    have hmailboxes : s.startLinkU.mailboxes = (s.closeContext .u).mailboxes := by rw [hstart]; rfl
    have hstore : s.startLinkU.store = (s.placeArrived .u).store := by rw [hstart]; exact closeContext_store s .u
    rw [← hstart] at hunlocked hlocked
    refine ⟨_, _, exec_transmissionEnd_aborted hrel, hexec, ?_⟩
    have hframe : s.startLinkU = { s with
        store := st, choice := k, mailboxes := ms, captureOutcomes := co, contexts := s.contexts.set .u none
        rx := s.rx.set .u none, tx := s.tx.set .u none, emitRecords := s.abortedRecords .u
        emitOutcomes := s.abortedOutcomes .u, queues := s.abortedQueues .u, responses := s.responses.set .u []
        uInUse := s.uStored, uTime := .atStart s.uStored.enabled, slotFlags := s.slotFlags.set .u .clear, lTime := l
        notices := u } := by
      rw [hstart, State.startedU, State.givenUp, hclose]
    have hends : s.ContextClosed s.startLinkU .u ∧ s.WriteAbandoned s.startLinkU .u ∧ s.ArrivedPlaced s.startLinkU .u :=
      ⟨contextClosed_of_outcomes houtcomes, writeAbandoned_of_mailboxes hmailboxes,
        arrivedPlaced_of_store hstore (by rw [hframe])⟩
    refine ⟨by rw [hframe]; rfl, by rw [hframe]; rfl, by rw [hframe]; rfl, by rw [hframe]; rfl, by rw [hframe], by rw [hframe],
      by rw [hframe]; rfl, by rw [hframe]; rfl, by rw [hframe]; rfl, by rw [hframe]; rfl, by rw [hframe]; rfl, by rw [hframe]; rfl,
      by rw [hframe]; rfl, by rw [hframe], by rw [hframe], by rw [hframe], by rw [hframe], by rw [hframe], by rw [hframe],
      by rw [hframe], hunlocked, fun hl => ?_, hends⟩
    obtain ⟨htime, hone, htwo⟩ := hlocked hl
    exact ⟨fun h => htime.trans (untied_of_tied h), fun h => htime.trans (untied_of_untied h), hone, htwo⟩

/-! ## The lapse -/

theorem placeArrived_withUTime (s : State) (v : UplinkRecord) (p : Port) :
    (s.withUTime v).placeArrived p = (s.placeArrived p).withUTime v := by
  rcases writesTo_cases s p with ⟨c, n, base, capacity, spoiled, hw⟩ | hnone
  · rw [placeArrived_of_writesTo hw, placeArrived_of_writesTo (s := s.withUTime v) hw]
    rfl
  · rw [placeArrived_of_not_writes hnone, placeArrived_of_not_writes (s := s.withUTime v) hnone]

/-- A bridge restart forgets the uplink record. -/
theorem bridgeRestart_withUTime (s : State) (v : UplinkRecord) : (s.withUTime v).bridgeRestart = s.bridgeRestart := by
  unfold State.bridgeRestart
  rw [placeArrived_withUTime, placeArrived_withUTime]
  rfl

/-- The state of a lapse when the judged round has given up what port U has in hand. -/
def State.lapsing (s : State) : State := s.judged.silenced .u

/-- Port U has left LOCKED (R32). -/
theorem leaveLocked_taken (s : State) : ∃ l u k, s.judged.leaveLocked = { s.lapsing.closeContext .u with
      responses := s.responses.set .u []
      uTime := { s.judged.uTime with state := .seek, round := none, slot := none, lastSlot := 0 }
      slotFlags := s.slotFlags.set .u .clear, lTime := l, notices := u, choice := k } ∧
    l = s.lTime.untied ∧
    (s.lTime.state ≠ .tied → u = s.notices.raise .lockLost .none s.raiseRound) ∧
    (s.lTime.state = .tied →
      u = (s.notices.raise .lockLost .none s.raiseRound).raise .tieLost .none s.raiseRound ∨
      u = (s.notices.raise .tieLost .none s.raiseRound).raise .lockLost .none s.raiseRound) := by
  obtain ⟨st, k, ms, co, h⟩ := closeContext_frame s.lapsing .u
  let y : State := { s.lapsing.closeContext .u with
    responses := s.responses.set .u []
    uTime := { s.judged.uTime with state := .seek, round := none, slot := none, lastSlot := 0 }
    slotFlags := s.slotFlags.set .u .clear }
  obtain ⟨u, he, hone, htwo⟩ := lockLost_eq y
  have hnotices : y.notices = s.notices := by simp only [y, h]; rfl
  have htime : y.lTime = s.lTime := by simp only [y, h]; rfl
  rw [hnotices, htime, raiseRound_congr htime] at hone htwo
  refine ⟨s.lTime.untied, u, y.choice + 1, ?_, rfl, hone, htwo⟩
  have hbefore : { ((s.lapsing.closeContext .u).flush .u) with
      uTime := { ((s.lapsing.closeContext .u).flush .u).uTime with state := .seek, round := none, slot := none, lastSlot := 0 }
      slotFlags := ((s.lapsing.closeContext .u).flush .u).slotFlags.set .u .clear } = y := by
    simp only [y, h]
    rfl
  rw [State.leaveLocked, finishTx_aborted]
  refine (congrArg (either (·.raise .lockLost .none) State.untie) hbefore).trans (he.trans ?_)
  rw [htime]

/-- The command of a lapse, when the round that would lapse may start. -/
theorem exec_lockLapse {s : State} (hrel : s.resetnLow = false) (hlocked : s.uTime.state = .locked) (hslot : s.uTime.slot = none)
    (hlast : s.uInUse.slotCount ≤ s.uTime.lastSlot) (hlapse : s.wouldLapse = true) :
    exec .lockLapse s = .next s.judged.lapse ∧ exec .uRoundStart s = .next s.judged.lapse := by
  have hround : s.lockedRound = s.judged.lapse := if_pos hlapse
  have hmay : s.uRoundMayStart = true := by
    simp only [State.uRoundMayStart, State.placementApplies, hlocked, hslot, Bool.and_eq_true, decide_eq_true_eq]
    exact ⟨by simp, hlast⟩
  refine ⟨congrArg _ ((live_of_released hrel _).trans ?_), ?_⟩
  · rw [hmay, hlapse, if_pos (by rfl), hround]
  · rw [exec_uRoundStart hrel hslot hlast (.inr (.inr hlocked)), State.uRound]
    simp only [hlocked, hround]

/-- Settles O17: the lapse gives up what port U has in hand and unties port L; a mark of U starts the link afresh. -/
theorem lockLapseLeavesLocked : Obligations.LockLapseLeavesLocked := by
  intro s hrel hlocked hslot hlast hmissed hlimit marked
  have hmarks : ∀ m, m ∈ s.marks .u ↔ marked m := fun m => mem_marks
  have hmarks' : s.judged.marks .u = s.marks .u := rfl
  obtain ⟨hexec, hround⟩ := exec_lockLapse hrel hlocked hslot hlast (wouldLapse_of_missed hlocked hmissed hlimit)
  refine ⟨hexec.trans hround.symm, fun hbridge => ?_, fun hno => ?_⟩
  · rw [hexec, State.lapse, hmarks', if_pos ((hmarks _).2 hbridge), State.judged, bridgeRestart_withUTime]
    exact congrArg _ (live_of_released hrel _).symm
  · have hno' : .bridge ∉ s.judged.marks .u := fun h => hno ((hmarks _).1 h)
    obtain ⟨l, u, k, hleave, rfl, hone, htwo⟩ := leaveLocked_taken s
    obtain ⟨st, k', ms, co, hclose⟩ := closeContext_frame s.lapsing .u
    have hstore : s.judged.leaveLocked.store = (s.lapsing.placeArrived .u).store := by
      rw [hleave]
      exact closeContext_store s.lapsing .u
    have houtcomes : s.judged.leaveLocked.captureOutcomes = (s.lapsing.closeContext .u).captureOutcomes := by rw [hleave]
    have hmailboxes : s.judged.leaveLocked.mailboxes = (s.lapsing.closeContext .u).mailboxes := by rw [hleave]
    rw [hclose] at hleave
    have hepoch : s.judged.leaveLocked.storeEpoch = s.storeEpoch := by rw [hleave]; rfl
    have hagain : s.judged.leaveLocked.startLinkU = { s.judged.leaveLocked with
        rx := s.rx.set .u none, uInUse := s.uStored, uTime := .atStart s.uStored.enabled, slotFlags := s.slotFlags.set .u .clear } := by
      rw [startLinkU_idle (by rw [hleave]; exact fun h => by cases h) (by rw [hleave]; rfl) (by rw [hleave]; rfl)
        (by rw [hleave]; rfl), hleave]
      rfl
    have hlapse : ∃ rx p v f, s.judged.lapse = { s.judged.leaveLocked with rx := rx, uInUse := p, uTime := v, slotFlags := f } ∧
        v.round = none ∧ v.slot = none ∧ (¬marked (.link .u) → v.state = .seek ∧ rx = s.rx ∧ p = s.uInUse) ∧
        (marked (.link .u) → v.state = (if s.uStored.enabled then .seek else .off) ∧ rx = s.rx.set .u none ∧ p = s.uStored) := by
      rw [State.lapse, if_neg hno']
      by_cases hlink : .link .u ∈ s.judged.marks .u
      · rw [if_pos hlink, hagain]
        exact ⟨_, _, _, _, rfl, rfl, rfl, fun h => absurd ((hmarks _).1 hlink) h, fun _ => ⟨rfl, rfl, rfl⟩⟩
      · rw [if_neg hlink]
        let y := s.judged.leaveLocked
        refine ⟨y.rx, y.uInUse, y.uTime, y.slotFlags, rfl, ?_⟩
        rw [show y = _ from hleave]
        exact ⟨rfl, rfl, fun _ => ⟨rfl, rfl, rfl⟩, fun h => absurd ((hmarks _).2 h) hlink⟩
    obtain ⟨rx, p, v, f, hlapsed, hvround, hvslot, hunmarked, hmarked⟩ := hlapse
    rw [hlapsed] at hexec
    have hends : s.ContextClosed s.judged.leaveLocked .u ∧ s.WriteAbandoned s.judged.leaveLocked .u ∧
        s.ArrivedPlaced s.judged.leaveLocked .u :=
      ⟨contextClosed_of_outcomes (s := s.lapsing) houtcomes, writeAbandoned_of_mailboxes (s := s.lapsing) hmailboxes,
        arrivedPlaced_of_store (s := s.lapsing) hstore hepoch⟩
    obtain ⟨hclosed, habandoned, hplaced⟩ := hends
    rw [hleave] at hexec hclosed habandoned hplaced
    refine ⟨_, _, exec_transmissionEnd_aborted hrel, hexec, rfl, rfl, rfl, rfl, rfl, rfl, rfl, rfl, rfl, rfl, hvround, hvslot,
      hunmarked, fun h => ?_, untied_of_tied, untied_of_untied, hone, htwo, hclosed, habandoned, hplaced⟩
    obtain ⟨hstate, rfl, hin⟩ := hmarked h
    exact ⟨hstate, rfl, rfl, hin⟩

end Sys2Proof.Machine
end

section
/-! The start of round 0 of port L (R50): the record set from the adopted profile, and the round start of an enabled
port. -/

set_option Elab.async false

namespace Sys2Proof.Machine

/-- The timing state in which port L starts round 0 (R50). -/
def State.zeroState (s : State) : LState := if s.locked && s.tieConditions then .tying else .untied

theorem zeroState_not_off (s : State) : s.zeroState ≠ .off := by
  unfold State.zeroState
  split <;> decide

theorem startLTime_enabled {s : State} (h : s.lInUse.enabled = true) : s.startLTime = s.beginLRound s.zeroState 0 := if_pos h

theorem startLTime_disabled {s : State} (h : s.lInUse.enabled = false) : s.startLTime = s.withLTime .disabled :=
  if_neg (by rw [h]; exact Bool.false_ne_true)

/-- The state `t` follows on `y` by the start of round 0 of an enabled port L; the raises `l` hold those of the blocks. -/
def ZeroRound (y t : State) : Prop :=
  ∃ u k o l, t = ({ y.beginLRound y.zeroState 0 with notices := u, choice := k } : State).roundTaken o 0 l ∧
    y.notices.Extends u ∧ ∀ e ∈ raisedBy (orderedWork o) { y.beginLRound y.zeroState 0 with notices := u, choice := k }, e ∈ l

/-- What a round 0 leaves, whatever the check state and the claim. -/
theorem zeroRound_frame {y t : State} (h : ZeroRound y t) : t.lInUse = y.lInUse ∧ t.rx = y.rx ∧ t.tx = y.tx ∧
    t.counters = y.counters ∧ t.uTime = y.uTime ∧ t.uInUse = y.uInUse ∧ t.settings = y.settings ∧
    t.lTime = .roundStarted y.zeroState 0 ∧ t.storeEpoch = y.storeEpoch := by
  obtain ⟨u, k, o, l, rfl, -⟩ := h
  obtain ⟨e, he, -⟩ := roundTaken_frame { y.beginLRound y.zeroState 0 with notices := u, choice := k } o 0 l
  rw [he]
  exact ⟨rfl, rfl, rfl, rfl, rfl, rfl, rfl, rfl, rfl⟩

theorem zeroRound_shows {y t : State} (h : ZeroRound y t) {k : NoticeKind} {j : Subject} (hshows : y.notices.Shows k j) :
    t.notices.Shows k j := by
  obtain ⟨u, c, o, l, rfl, hext, -⟩ := h
  exact shows_countedDown (shows_of_extends (extends_trans hext (extends_raiseEach u 0 l)) hshows)

section
variable {y t : State} (h : ZeroRound y t)
include h

/-- No claim ends: idle rounds are counted. -/
theorem zeroRound_lives (hlives : y.claimAboutToExpire = false) : t.claim = y.claim ∧ t.responses = y.responses ∧
    t.parties = y.countIdle.parties ∧ (y.checkState ≠ .commitPending → t.checkState = y.checkState) := by
  obtain ⟨u, k, o, l, rfl, -⟩ := h
  let x : State := { y.beginLRound y.zeroState 0 with notices := u, choice := k }
  have hexpires : x.claimAboutToExpire = false := (claimAboutToExpire_congr rfl rfl rfl).trans hlives
  by_cases hpending : y.checkState = .commitPending
  · obtain ⟨ms, st, k', hswap, -⟩ := roundTaken_swap (x := x) o 0 l hpending
    have hclaim : x.claimAfter = x.claim := claimAfter_of_not_expiring hexpires
    rw [show ({ y.beginLRound y.zeroState 0 with notices := u, choice := k } : State) = x from rfl, hswap, hclaim]
    exact ⟨rfl, rfl, rfl, fun hno => absurd hpending hno⟩
  · rw [show ({ y.beginLRound y.zeroState 0 with notices := u, choice := k } : State) = x from rfl,
      roundTaken_plain (x := x) o 0 l hpending hexpires]
    exact ⟨rfl, rfl, rfl, fun _ => rfl⟩

/-- The claim ends, and CLAIM_EXPIRED is raised. -/
theorem zeroRound_expires (hexpires : y.claimAboutToExpire = true) : t.claim = none ∧ t.notices.Shows .claimExpired .none := by
  obtain ⟨u, k, o, l, rfl, -, hl⟩ := h
  let x : State := { y.beginLRound y.zeroState 0 with notices := u, choice := k }
  have hx : x.claimAboutToExpire = true := (claimAboutToExpire_congr rfl rfl rfl).trans hexpires
  refine ⟨?_, shows_roundTaken (hl _ (claimExpired_mem o hx))⟩
  by_cases hpending : y.checkState = .commitPending
  · obtain ⟨ms, st, k', hswap, -⟩ := roundTaken_swap (x := x) o 0 l hpending
    have hclaim : x.claimAfter = none := if_pos hx
    rw [show ({ y.beginLRound y.zeroState 0 with notices := u, choice := k } : State) = x from rfl, hswap, hclaim]
    rfl
  · have hclaim := claimJudged_claim hx
    rw [show ({ y.beginLRound y.zeroState 0 with notices := u, choice := k } : State) = x from rfl,
      roundTaken_quiet (x := x) o 0 l hpending]
    exact hclaim

/-- The check in progress ends with the claim: ABANDONED is given. -/
theorem zeroRound_abandons (hexpires : y.claimAboutToExpire = true) {i : Fin 8} {q : Party} {m : Seq} {p : PartyId}
    {f : CheckFigures} {rb : List RecordRef} (hs : y.PartiesLawful) (hc : y.CheckLawful) (hq : y.parties[i] = some q)
    (hm : q.outstanding = some m) (hchecking : y.checkState = .checking p f rb) : t.checkState = .unchecked ∧
      t.responses = (y.withLTime (.roundStarted y.zeroState 0)).responsesGiven q.id
        { status := .abandoned, seq := m, code := 20, results := [] } := by
  obtain ⟨u, k, o, l, rfl, -⟩ := h
  let x : State := { y.beginLRound y.zeroState 0 with notices := u, choice := k }
  have hx : x.claimAboutToExpire = true := (claimAboutToExpire_congr rfl rfl rfl).trans hexpires
  have hjudged := claimJudged_abandons (s := x) (i := i) (q := q) hs hc hq hm hchecking hx
  have hgiven := responsesGiven_congr (s := y.withLTime (.roundStarted y.zeroState 0)) (t := x) rfl rfl rfl q.id
    { status := .abandoned, seq := m, code := 20, results := [] }
  rw [hgiven] at hjudged
  rw [show ({ y.beginLRound y.zeroState 0 with notices := u, choice := k } : State) = x from rfl,
    roundTaken_quiet (x := x) o 0 l (not_pending_of_checking hchecking), hjudged]
  exact ⟨rfl, rfl⟩

/-- Without a commit pending the plans, the contexts and the transmissions stand. -/
theorem zeroRound_keeps (hpending : y.checkState ≠ .commitPending) : t.checkState ≠ .commitPending ∧ t.active = y.active ∧
    t.staged = y.staged ∧ t.generation = y.generation ∧ t.contexts = y.contexts ∧ t.emitRecords = y.emitRecords ∧
    t.emitOutcomes = y.emitOutcomes ∧ t.captureOutcomes = y.captureOutcomes ∧ t.queues = y.queues ∧ t.store = y.store ∧
    ∀ n : Fin 64, t.mailboxes[n].openWrite = y.mailboxes[n].openWrite := by
  obtain ⟨u, k, o, l, rfl, -⟩ := h
  let x : State := { y.beginLRound y.zeroState 0 with notices := u, choice := k }
  have hnot : x.claimJudged.checkState ≠ .commitPending := claimJudged_not_pending (s := x) hpending
  have hopen : ∀ n : Fin 64, x.aged.mailboxes[n].openWrite = y.mailboxes[n].openWrite := fun n => by
    rw [aged_get]
    exact (halves_aged _ _).2
  obtain ⟨ps, rs, c, cl, hframe⟩ := claimJudged_frame x
  rw [show ({ y.beginLRound y.zeroState 0 with notices := u, choice := k } : State) = x from rfl,
    roundTaken_quiet (x := x) o 0 l hpending]
  refine ⟨hnot, ?_⟩
  rw [hframe]
  exact ⟨rfl, rfl, rfl, rfl, rfl, rfl, rfl, rfl, rfl, hopen⟩

/-- With a commit pending the banks are exchanged. -/
theorem zeroRound_swaps (hpending : y.checkState = .commitPending) : t.checkState = .unchecked ∧ t.active = y.staged ∧
    t.staged = y.active ∧ t.generation = y.generation + 1 ∧ t.notices.Shows .commitDone .none ∧
    (∀ n : Fin 128, t.captureOutcomes[n] = none ∧ t.emitOutcomes[n] = none) ∧
    (∀ p, y.contexts.get p = none → t.contexts.get p = none) ∧ ∃ st, t.store = st ∧ y.CutWords st := by
  obtain ⟨u, k, o, l, rfl, -, hl⟩ := h
  let x : State := { y.beginLRound y.zeroState 0 with notices := u, choice := k }
  have hdone : (NoticeKind.commitDone, Subject.none) ∈ l :=
    hl _ (swapRaises_mem (s := x) o hpending (List.mem_cons_self (a := (NoticeKind.commitDone, Subject.none))))
  obtain ⟨ms, st, k', hswap, -, hwords⟩ := roundTaken_swap (x := x) o 0 l hpending
  rw [show ({ y.beginLRound y.zeroState 0 with notices := u, choice := k } : State) = x from rfl, hswap]
  refine ⟨rfl, rfl, rfl, rfl, shows_countedDown (shows_raiseEach hdone), fun n => ⟨get_replicate none n, get_replicate none n⟩,
    fun p hp => ?_, st, rfl, hwords⟩
  have hx : x.contexts.get p = none := hp
  exact (swappedContext_get x p).trans (by rw [hx]; rfl)

end

/-! ## The round starts that a link start of L can take -/

theorem deliverRoundZero_enabled {s : State} (h : s.lInUse.enabled = true) : s.deliverRoundZero = s.deliverLRound := if_pos h

theorem deliverRoundZero_disabled {s : State} (h : s.lInUse.enabled = false) : s.deliverRoundZero = s :=
  if_neg (by rw [h]; exact Bool.false_ne_true)

theorem raiseRound_zero (y : State) (u : NoticeUnit) (k : Nat) :
    ({ y.beginLRound y.zeroState 0 with notices := u, choice := k } : State).raiseRound = 0 := if_neg (zeroState_not_off y)

/-- Round 0 taken once. -/
theorem zeroRound_once {y : State} (henabled : y.lInUse.enabled = true) : ZeroRound y y.startLTime.deliverRoundZero := by
  rw [startLTime_enabled henabled, deliverRoundZero_enabled (s := y.beginLRound y.zeroState 0) henabled]
  obtain ⟨o, hdeliver⟩ := deliverLRound_taken (y.beginLRound y.zeroState 0)
  refine ⟨y.notices, y.choice + 1, o, _, ?_, extends_refl _, fun e he => he⟩
  rw [hdeliver]
  exact congrArg (State.roundTaken _ o · _) (raiseRound_zero y y.notices y.choice)

end Sys2Proof.Machine
end

section
/-! The link start of port L (R50, R147, R148): what was in hand given up, and the start of round 0, once or, by a mark,
twice. -/

set_option Elab.async false

namespace Sys2Proof.Machine

/-! ## TIE_LOST about the round start (log entry 19) -/

theorem zeroRound_of_raised {y t : State} {u : NoticeUnit} {k : Nat} (h : ZeroRound { y with notices := u, choice := k } t)
    (hext : y.notices.Extends u) : ZeroRound y t := by
  obtain ⟨v, c, o, l, he, hv, hl⟩ := h
  exact ⟨v, c, o, l, he, extends_trans hext hv, hl⟩

/-- A notice raised before the record is set. -/
theorem zeroRound_raiseFirst {y : State} (henabled : y.lInUse.enabled = true) (k : NoticeKind) (j : Subject) :
    ZeroRound y (y.raise k j).startLTime.deliverRoundZero ∧ (y.raise k j).startLTime.deliverRoundZero.notices.Shows k j := by
  have hround : ZeroRound { y with notices := y.notices.raise k j y.raiseRound, choice := y.choice }
      (y.raise k j).startLTime.deliverRoundZero := zeroRound_once (y := y.raise k j) henabled
  exact ⟨zeroRound_of_raised hround (extends_raise _ _ _ _), zeroRound_shows hround (shows_raise _ _ _ _)⟩

/-- A notice raised when the record is set, before the round start or after it. -/
theorem zeroRound_raiseLast {y : State} (henabled : y.lInUse.enabled = true) (k : NoticeKind) (j : Subject) :
    ZeroRound y (either (·.raise k j) State.deliverRoundZero y.startLTime) ∧
      (either (·.raise k j) State.deliverRoundZero y.startLTime).notices.Shows k j := by
  rw [startLTime_enabled henabled]
  rcases either_cases (·.raise k j) State.deliverRoundZero (y.beginLRound y.zeroState 0) with he | he
  · rw [he]
    have hround : ZeroRound { y with notices := y.notices.raise k j 0, choice := y.choice + 1 }
        (({ y.beginLRound y.zeroState 0 with choice := y.choice + 1 } : State).raise k j).deliverRoundZero := by
      have hraised : ({ y.beginLRound y.zeroState 0 with choice := y.choice + 1 } : State).raise k j =
          ({ y with notices := y.notices.raise k j 0, choice := y.choice + 1 } : State).startLTime := by
        rw [startLTime_enabled (s := { y with notices := y.notices.raise k j 0, choice := y.choice + 1 }) henabled]
        refine (raise_eq _ k j).trans ?_
        exact congrArg (fun r => ({ y.beginLRound y.zeroState 0 with choice := y.choice + 1 } : State).withNotices
          (y.notices.raise k j r)) (raiseRound_zero y y.notices (y.choice + 1))
      rw [hraised]
      exact zeroRound_once henabled
    exact ⟨zeroRound_of_raised hround (extends_raise _ _ _ _), zeroRound_shows hround (shows_raise _ _ _ _)⟩
  · obtain ⟨o, hdeliver⟩ := deliverLRound_taken { y.beginLRound y.zeroState 0 with choice := y.choice + 1 }
    let x : State := { y.beginLRound y.zeroState 0 with notices := y.notices, choice := y.choice + 1 + 1 }
    have hzero : x.raiseRound = 0 := raiseRound_zero y y.notices (y.choice + 1 + 1)
    have htaken : (({ y.beginLRound y.zeroState 0 with choice := y.choice + 1 } : State).deliverRoundZero).raise k j =
        x.roundTaken o 0 (raisedBy (orderedWork o) x ++ [(k, j)]) := by
      rw [deliverRoundZero_enabled (s := { y.beginLRound y.zeroState 0 with choice := y.choice + 1 }) henabled, hdeliver]
      exact (raise_roundTaken x o _ k j).trans (congrArg (x.roundTaken o · _) hzero)
    rw [he.trans htaken]
    exact ⟨⟨y.notices, y.choice + 1 + 1, o, _, rfl, extends_refl _, fun e he => List.mem_append_left _ he⟩,
      shows_roundTaken (List.mem_append_right _ (List.mem_singleton_self _))⟩

/-! ## The link start, before the marks act -/

/-- Port L given up and its profile adopted (R50). -/
def State.startedL (s : State) : State :=
  { s.givenUp .l with lInUse := s.lStored, slotFlags := s.slotFlags.set .l .clear }

/-- `startedL` written out over `s`. -/
theorem startedL_frame (s : State) : ∃ st k ms co, s.startedL = { s with
    store := st, choice := k, mailboxes := ms, captureOutcomes := co, contexts := s.contexts.set .l none
    rx := s.rx.set .l none, tx := s.tx.set .l none, emitRecords := s.abortedRecords .l
    emitOutcomes := s.abortedOutcomes .l, queues := s.abortedQueues .l, responses := s.responses.set .l []
    lInUse := s.lStored, slotFlags := s.slotFlags.set .l .clear } := by
  obtain ⟨st, k, ms, co, h⟩ := closeContext_frame s .l
  exact ⟨st, k, ms, co, by rw [State.startedL, State.givenUp, h]⟩

theorem startLinkL_eq (s : State) : s.startLinkL =
    if s.lTime.state = .tied then
      if Config.takenFirst s.startedL.choice then
        (({ s.startedL with choice := s.startedL.choice + 1 }).raise .tieLost .none).startLTime.deliverRoundZero
      else
        either (·.raise .tieLost .none) State.deliverRoundZero ({ s.startedL with choice := s.startedL.choice + 1 }).startLTime
    else s.startedL.startLTime.deliverRoundZero := by
  have hstarted : { s.givenUp .l with
      lInUse := (s.givenUp .l).lStored, slotFlags := (s.givenUp .l).slotFlags.set .l .clear } = s.startedL := by
    obtain ⟨st, k, ms, co, h⟩ := closeContext_frame s .l
    simp only [State.startedL, State.givenUp, h]
  rw [State.startLinkL, givenUp_eq, hstarted]

/-- The link start of an enabled port L takes round 0, and from TIED raises TIE_LOST. -/
theorem startLinkL_enabled {s : State} (henabled : s.lStored.enabled = true) : ZeroRound s.startedL s.startLinkL ∧
    (s.lTime.state = .tied → s.startLinkL.notices.Shows .tieLost .none) := by
  let y : State := { s.startedL with notices := s.startedL.notices, choice := s.startedL.choice + 1 }
  rw [startLinkL_eq]
  by_cases htied : s.lTime.state = .tied
  · rw [if_pos htied]
    split
    · obtain ⟨hround, hshows⟩ := zeroRound_raiseFirst (y := y) henabled .tieLost .none
      exact ⟨zeroRound_of_raised hround (extends_refl _), fun _ => hshows⟩
    · obtain ⟨hround, hshows⟩ := zeroRound_raiseLast (y := y) henabled .tieLost .none
      exact ⟨zeroRound_of_raised hround (extends_refl _), fun _ => hshows⟩
  · rw [if_neg htied]
    exact ⟨zeroRound_once henabled, fun h => absurd h htied⟩

/-- The link start of a disabled port L leaves it OFF, and from TIED raises TIE_LOST. -/
theorem startLinkL_disabled {s : State} (hdisabled : s.lStored.enabled = false) : ∃ u k,
    s.startLinkL = { s.startedL with lTime := .disabled, notices := u, choice := k } ∧
    (s.lTime.state ≠ .tied → u = s.notices) ∧ (s.lTime.state = .tied → u.Shows .tieLost .none) := by
  have hnotices : s.startedL.notices = s.notices := by
    obtain ⟨st, k, ms, co, h⟩ := startedL_frame s
    rw [h]
  have hoff : ∀ z : State, z.lInUse.enabled = false → z.startLTime.deliverRoundZero = { z with lTime := .disabled } :=
    fun z hz => by
      rw [startLTime_disabled hz]
      exact deliverRoundZero_disabled (s := z.withLTime .disabled) hz
  rw [startLinkL_eq]
  by_cases htied : s.lTime.state = .tied
  · rw [if_pos htied]
    let y : State := { s.startedL with choice := s.startedL.choice + 1 }
    split
    · refine ⟨_, y.choice, hoff (y.raise .tieLost .none) hdisabled, fun h => absurd htied h, fun _ => shows_raise _ _ _ _⟩
    · rw [startLTime_disabled (s := y) hdisabled]
      rcases either_cases (·.raise .tieLost .none) State.deliverRoundZero (y.withLTime .disabled) with he | he
      · refine ⟨_, y.choice + 1, he.trans (deliverRoundZero_disabled hdisabled), fun h => absurd htied h,
          fun _ => shows_raise _ _ _ _⟩
      · refine ⟨_, y.choice + 1, he.trans (congrArg (State.raise · .tieLost .none) (deliverRoundZero_disabled hdisabled)),
          fun h => absurd htied h, fun _ => shows_raise _ _ _ _⟩
  · rw [if_neg htied]
    exact ⟨s.startedL.notices, s.startedL.choice, hoff s.startedL hdisabled, fun _ => hnotices, fun h => absurd h htied⟩

end Sys2Proof.Machine
end

section
/-! Round 0 of port L taken once, or, by a mark that names port L, twice (R50, R148). -/

set_option Elab.async false

namespace Sys2Proof.Machine

/-- Round 0 is taken on `y`, and once more where `twice`. -/
def ZeroRounds (y t : State) (twice : Prop) : Prop :=
  (¬twice ∧ ZeroRound y t) ∨ (twice ∧ ∃ x, ZeroRound y x ∧ ZeroRound x t)

theorem zeroState_congr {s t : State} (hu : t.uTime = s.uTime) (hl : t.lInUse = s.lInUse) (hi : t.uInUse = s.uInUse) :
    t.zeroState = s.zeroState := by
  unfold State.zeroState State.locked State.tieConditions
  rw [hu, hl, hi]

section
variable {y t : State} {twice : Prop} (h : ZeroRounds y t twice)
include h

theorem zeroRounds_frame : t.lInUse = y.lInUse ∧ t.rx = y.rx ∧ t.tx = y.tx ∧ t.counters = y.counters ∧ t.uTime = y.uTime ∧
    t.lTime = .roundStarted y.zeroState 0 ∧ t.storeEpoch = y.storeEpoch := by
  rcases h with ⟨-, h⟩ | ⟨-, x, h, h'⟩
  · obtain ⟨h1, h2, h3, h4, h5, -, -, h8, h9⟩ := zeroRound_frame h
    exact ⟨h1, h2, h3, h4, h5, h8, h9⟩
  · obtain ⟨h1, h2, h3, h4, h5, h6, -, -, h9⟩ := zeroRound_frame h
    obtain ⟨g1, g2, g3, g4, g5, -, -, g8, g9⟩ := zeroRound_frame h'
    exact ⟨g1.trans h1, g2.trans h2, g3.trans h3, g4.trans h4, g5.trans h5,
      g8.trans (congrArg (LocalRecord.roundStarted · 0) (zeroState_congr h5 h1 h6)), g9.trans h9⟩

theorem zeroRounds_shows {k : NoticeKind} {j : Subject} (hshows : y.notices.Shows k j) : t.notices.Shows k j := by
  rcases h with ⟨-, h⟩ | ⟨-, x, h, h'⟩
  · exact zeroRound_shows h hshows
  · exact zeroRound_shows h' (zeroRound_shows h hshows)

end

/-! ## The claim -/

theorem toNat_le_satInc {n : Nat} (k : BitVec n) : k.toNat ≤ (satInc k).toNat := by
  unfold satInc
  split
  · exact le_refl _
  · rename_i hne
    have hlt := k.isLt
    have hmax : k.toNat ≠ 2 ^ n - 1 := fun he => hne (BitVec.eq_of_toNat_eq (by rw [he, BitVec.toNat_allOnes]))
    rw [BitVec.toNat_add_of_lt]
    · exact Nat.le_add_right _ _
    · have hone : (1#n).toNat ≤ 1 := by
        rw [BitVec.toNat_ofNat]
        exact Nat.mod_le 1 _
      have : (1#n).toNat = (1 : BitVec n).toNat := rfl
      omega

/-- The idle rounds after one round start, or two. -/
def idleAfter (twice : Bool) (k : BitVec 8) : BitVec 8 := if twice then satInc (satInc k) else satInc k

/-- A party at a round start, one idle round more. -/
theorem countIdle_some {y : State} {i : Fin 8} {q : Party} (h : y.countIdle.parties[i] = some q) :
    ∃ r, y.parties[i] = some r ∧ q = { r with idle := satInc r.idle } := by
  rw [countIdle_get] at h
  obtain ⟨r, hr, rfl⟩ := Option.map_eq_some_iff.1 h
  exact ⟨r, hr, rfl⟩

section
variable {y x : State} (hparties : x.parties = y.countIdle.parties) (hclaim : x.claim = y.claim)
include hparties hclaim

theorem partiesLawful_counted (h : y.PartiesLawful) : x.PartiesLawful := by
  obtain ⟨hdistinct, hholder⟩ := h
  refine ⟨fun i j q r hq hr hid => ?_, fun id hid => ?_⟩
  · rw [hparties] at hq hr
    obtain ⟨q', hq', rfl⟩ := countIdle_some hq
    obtain ⟨r', hr', rfl⟩ := countIdle_some hr
    exact hdistinct i j q' r' hq' hr' hid
  · rw [hclaim] at hid
    obtain ⟨i, q, hq, rfl⟩ := hholder id hid
    exact ⟨i, { q with idle := satInc q.idle }, by rw [hparties, countIdle_get, hq]; rfl, rfl⟩

theorem checkLawful_counted (hcheck : x.checkState = y.checkState) (h : y.CheckLawful) : x.CheckLawful := by
  obtain ⟨hholder, houtstanding⟩ := h
  refine ⟨fun p f rb hp => hclaim.trans (hholder p f rb (hcheck ▸ hp)), fun i q n hq hn => ?_⟩
  rw [hparties] at hq
  obtain ⟨q', hq', rfl⟩ := countIdle_some hq
  rw [hcheck]
  exact houtstanding i q' n hq' hn

end

section
variable {y t : State} {twice : Bool} (h : ZeroRounds y t (twice = true))
include h

/-- No claim ends. -/
theorem zeroRounds_lives (hlives : ∀ (i : Fin 8) (q : Party), y.parties[i] = some q → y.claim = some q.id →
      idleAfter twice q.idle < y.settings.claimTimeout) : t.claim = y.claim ∧ t.responses = y.responses ∧
    (∀ i : Fin 8, t.parties[i] = y.parties[i].map fun q => { q with idle := idleAfter twice q.idle }) ∧
    (y.checkState ≠ .commitPending → t.checkState = y.checkState) := by
  rcases h with ⟨honce, h⟩ | ⟨rfl, x, h, h'⟩
  · obtain rfl : twice = false := Bool.eq_false_of_not_eq_true honce
    obtain ⟨hclaim, hresponses, hparties, hcheck⟩ := zeroRound_lives h (not_expiring hlives)
    exact ⟨hclaim, hresponses, fun i => by rw [hparties, countIdle_get]; rfl, hcheck⟩
  · obtain ⟨hclaim, hresponses, hparties, hcheck⟩ := zeroRound_lives h
      (not_expiring fun i q hq hc => BitVec.lt_def.2 (lt_of_le_of_lt (toNat_le_satInc _) (BitVec.lt_def.1 (hlives i q hq hc))))
    obtain ⟨-, -, -, -, -, -, hsettings, -⟩ := zeroRound_frame h
    obtain ⟨hclaim', hresponses', hparties', hcheck'⟩ := zeroRound_lives h' (not_expiring fun i q hq hc => by
      rw [hparties] at hq
      obtain ⟨r, hr, rfl⟩ := countIdle_some hq
      rw [hsettings]
      exact hlives i r hr (hclaim ▸ hc))
    refine ⟨hclaim'.trans hclaim, hresponses'.trans hresponses, fun i => ?_, fun hno => ?_⟩
    · rw [hparties', countIdle_get, hparties, countIdle_get, Option.map_map]
      rfl
    · exact (hcheck' (by rw [hcheck hno]; exact hno)).trans (hcheck hno)

/-- The claim ends, at the first round start or at the second. -/
theorem zeroRounds_expires {i : Fin 8} {q : Party} (hs : y.PartiesLawful) (hq : y.parties[i] = some q)
    (hclaim : y.claim = some q.id) (hidle : y.settings.claimTimeout ≤ idleAfter twice q.idle) :
    t.claim = none ∧ t.notices.Shows .claimExpired .none ∧
    ∀ p f rb m, y.checkState = .checking p f rb → y.CheckLawful → q.outstanding = some m → t.checkState = .unchecked ∧
      t.responses = (y.withLTime (.roundStarted y.zeroState 0)).responsesGiven q.id
        { status := .abandoned, seq := m, code := 20, results := [] } := by
  have hjudged : y.claimAboutToExpire = decide (y.settings.claimTimeout ≤ satInc q.idle) :=
    claimAboutToExpire_holder hs hq hclaim
  rcases h with ⟨honce, h⟩ | ⟨rfl, x, h, h'⟩
  · obtain rfl : twice = false := Bool.eq_false_of_not_eq_true honce
    have hexpires : y.claimAboutToExpire = true := hjudged.trans (decide_eq_true hidle)
    obtain ⟨hnone, hshows⟩ := zeroRound_expires h hexpires
    exact ⟨hnone, hshows, fun p f rb m hcheck hc hm => zeroRound_abandons h hexpires hs hc hq hm hcheck⟩
  · by_cases hfirst : y.settings.claimTimeout ≤ satInc q.idle
    · have hexpires : y.claimAboutToExpire = true := hjudged.trans (decide_eq_true hfirst)
      obtain ⟨hnone, hshows⟩ := zeroRound_expires h hexpires
      obtain ⟨hclaim', hresponses', -, hcheck'⟩ := zeroRound_lives h' (not_expiring fun j r _ hr => by
        rw [hnone] at hr
        cases hr)
      refine ⟨hclaim'.trans hnone, zeroRound_shows h' hshows, fun p f rb m hcheck hc hm => ?_⟩
      obtain ⟨hunchecked, hgiven⟩ := zeroRound_abandons h hexpires hs hc hq hm hcheck
      exact ⟨(hcheck' (by rw [hunchecked]; exact fun hno => by cases hno)).trans hunchecked, hresponses'.trans hgiven⟩
    · obtain ⟨hclaim', hresponses', hparties', hcheck'⟩ := zeroRound_lives h (hjudged.trans (decide_eq_false hfirst))
      obtain ⟨hlinuse, -, -, -, hutime, huinuse, hsettings, hltime, -⟩ := zeroRound_frame h
      have hq' : x.parties[i] = some { q with idle := satInc q.idle } := by rw [hparties', countIdle_get, hq]; rfl
      have hs' : x.PartiesLawful := partiesLawful_counted hparties' hclaim' hs
      have hexpires : x.claimAboutToExpire = true :=
        (claimAboutToExpire_holder hs' hq' (hclaim'.trans hclaim)).trans (decide_eq_true (hsettings ▸ hidle))
      obtain ⟨hnone, hshows⟩ := zeroRound_expires h' hexpires
      refine ⟨hnone, hshows, fun p f rb m hcheck hc hm => ?_⟩
      have hstands : x.checkState = y.checkState := hcheck' (not_pending_of_checking hcheck)
      obtain ⟨hunchecked, hgiven⟩ := zeroRound_abandons h' hexpires hs' (checkLawful_counted hparties' hclaim' hstands hc) hq' hm
        (hstands.trans hcheck)
      refine ⟨hunchecked, hgiven.trans (responsesGiven_congr (s := y.withLTime (.roundStarted y.zeroState 0))
        (t := x.withLTime (.roundStarted x.zeroState 0)) hutime ?_
        hresponses' q.id _)⟩
      exact congrArg (LocalRecord.roundStarted · 0) (zeroState_congr hutime hlinuse huinuse)

end

/-! ## The plans and the words -/

theorem zeroRound_unchecked {y t : State} (h : ZeroRound y t) (hunchecked : y.checkState = .unchecked) :
    t.checkState = .unchecked := by
  obtain ⟨u, k, o, l, rfl, -⟩ := h
  have hnone : ∀ p f rb, y.checkState ≠ .checking p f rb := fun p f rb hno => by rw [hunchecked] at hno; cases hno
  have hpending : y.checkState ≠ .commitPending := fun hno => by rw [hunchecked] at hno; cases hno
  rw [roundTaken_quiet (x := { y.beginLRound y.zeroState 0 with notices := u, choice := k }) o 0 l hpending,
    claimJudged_of_not_checking (s := { y.beginLRound y.zeroState 0 with notices := u, choice := k }) hnone]
  exact hunchecked

section
variable {y t : State} {twice : Prop} (h : ZeroRounds y t twice)
include h

theorem zeroRounds_keeps (hpending : y.checkState ≠ .commitPending) : t.active = y.active ∧ t.staged = y.staged ∧
    t.generation = y.generation ∧ t.contexts = y.contexts ∧ t.emitRecords = y.emitRecords ∧
    t.emitOutcomes = y.emitOutcomes ∧ t.captureOutcomes = y.captureOutcomes ∧ t.queues = y.queues ∧ t.store = y.store ∧
    ∀ n : Fin 64, t.mailboxes[n].openWrite = y.mailboxes[n].openWrite := by
  rcases h with ⟨-, h⟩ | ⟨-, x, h, h'⟩
  · exact (zeroRound_keeps h hpending).2
  · obtain ⟨hnot, h1, h2, h3, h4, h5, h6, h7, h8, h9, h10⟩ := zeroRound_keeps h hpending
    obtain ⟨-, g1, g2, g3, g4, g5, g6, g7, g8, g9, g10⟩ := zeroRound_keeps h' hnot
    exact ⟨g1.trans h1, g2.trans h2, g3.trans h3, g4.trans h4, g5.trans h5, g6.trans h6, g7.trans h7, g8.trans h8,
      g9.trans h9, fun n => (g10 n).trans (h10 n)⟩

theorem zeroRounds_swaps (hpending : y.checkState = .commitPending) : t.checkState = .unchecked ∧ t.active = y.staged ∧
    t.staged = y.active ∧ t.generation = y.generation + 1 ∧ t.notices.Shows .commitDone .none ∧
    (∀ n : Fin 128, t.captureOutcomes[n] = none ∧ t.emitOutcomes[n] = none) ∧
    (∀ p, y.contexts.get p = none → t.contexts.get p = none) ∧ y.CutWords t.store := by
  rcases h with ⟨-, h⟩ | ⟨-, x, h, h'⟩
  · obtain ⟨h1, h2, h3, h4, h5, h6, h7, st, rfl, h8⟩ := zeroRound_swaps h hpending
    exact ⟨h1, h2, h3, h4, h5, h6, h7, h8⟩
  · obtain ⟨h1, h2, h3, h4, h5, h6, h7, st, rfl, h8⟩ := zeroRound_swaps h hpending
    have hnot : x.checkState ≠ .commitPending := by rw [h1]; exact fun hno => by cases hno
    obtain ⟨-, g1, g2, g3, g4, -, g6, g7, -, g9, -⟩ := zeroRound_keeps h' hnot
    refine ⟨zeroRound_unchecked h' h1, g1.trans h2, g2.trans h3, g3.trans h4, zeroRound_shows h' h5, ?_, ?_, ?_⟩
    · rw [g7, g6]
      exact h6
    · rw [g4]
      exact h7
    · rw [g9]
      exact h8

end

end Sys2Proof.Machine
end

section
/-! The link start of port L with the marks of its flushed queue (R50, R147, R148). -/

set_option Elab.async false

namespace Sys2Proof.Machine

theorem mem_marks_iff_any {s : State} {p : Port} {m : RestartMark} :
    m ∈ s.marks p ↔ ((s.responses.get p).any fun x => x.mark = some m) = true := by
  rw [mem_marks, List.any_eq_true]
  simp only [decide_eq_true_eq]

/-- The link start of an enabled port L, with its mark. -/
theorem linkStart_l_enabled {s : State} (hno : .bridge ∉ s.marks .l) (henabled : s.lStored.enabled = true) :
    ZeroRounds s.startedL (s.linkStart .l) (.link .l ∈ s.marks .l) ∧
    (s.lTime.state = .tied → (s.linkStart .l).notices.Shows .tieLost .none) := by
  obtain ⟨hround, hshows⟩ := startLinkL_enabled henabled
  rw [State.linkStart, if_neg hno]
  split
  · rename_i hmark
    have hinuse : s.startLinkL.lInUse.enabled = true := by
      obtain ⟨hinuse, -⟩ := zeroRound_frame hround
      rw [hinuse]
      exact henabled
    have hagain := zeroRound_once hinuse
    exact ⟨.inr ⟨hmark, _, hround, hagain⟩, fun htied => zeroRound_shows hagain (hshows htied)⟩
  · rename_i hmark
    exact ⟨.inl ⟨hmark, hround⟩, hshows⟩

/-- The link start of a disabled port L: the mark changes nothing more. -/
theorem linkStart_l_disabled {s : State} (hno : .bridge ∉ s.marks .l) (hdisabled : s.lStored.enabled = false) : ∃ u k,
    s.linkStart .l = { s.startedL with lTime := .disabled, notices := u, choice := k } ∧
    (s.lTime.state ≠ .tied → u = s.notices) ∧ (s.lTime.state = .tied → u.Shows .tieLost .none) := by
  obtain ⟨u, k, hstart, hnotices⟩ := startLinkL_disabled hdisabled
  refine ⟨u, k, ?_, hnotices⟩
  have hinuse : s.startLinkL.lInUse.enabled = false := by
    rw [hstart]
    exact hdisabled
  rw [State.linkStart, if_neg hno]
  split
  · refine (deliverRoundZero_disabled (s := s.startLinkL.startLTime) ?_).trans ?_
    · rw [startLTime_disabled hinuse]
      exact hinuse
    · rw [startLTime_disabled hinuse, hstart]
      rfl
  · exact hstart

/-- The write of port L is closed; that of port U stands. -/
theorem startedL_mailbox {s : State} {n : Fin 64} (h : s.startedL.mailboxes[n].openWrite = some .u) :
    s.startedL.mailboxes[n] = s.mailboxes[n] := by
  obtain ⟨hwrites, hnone⟩ := writeAbandoned_of_mailboxes (s := s) (t := s.startedL) (p := .l) rfl
  rcases writesTo_cases s .l with ⟨c, m, base, capacity, spoiled, hw⟩ | hno
  · have hset := hwrites c m base capacity spoiled hw
    by_cases hm : m = n
    · subst hm
      rw [hset, Fin.getElem_fin, Vector.getElem_set_self] at h
      cases h
    · rw [hset]
      exact Vector.getElem_set_ne m.isLt n.isLt fun he => hm (Fin.ext he)
  · rw [hnone hno]

theorem startedL_contexts (s : State) : s.startedL.contexts = s.contexts.set .l none := by
  obtain ⟨st, k, ms, co, hframe⟩ := startedL_frame s
  rw [hframe]

/-- The words after a commit swap at round 0: only those of the writes that stood can have changed. -/
theorem wordAt_startedL_swapped {s t : State} (hstore : s.startedL.CutWords t.store) (hepoch : t.storeEpoch = s.storeEpoch)
    {a : Nat} (hu : ¬s.ArrivesAt .u a) (hl : ¬s.ArrivesAt .l a) : t.wordAt a = s.wordAt a := by
  have hplaced : s.ArrivedPlaced s.startedL .l := by
    refine arrivedPlaced_of_store (closeContext_store s .l) ?_
    obtain ⟨st, k, ms, co, hframe⟩ := startedL_frame s
    rw [hframe]
  have hepoch' : t.storeEpoch = s.startedL.storeEpoch := by
    obtain ⟨st, k, ms, co, hframe⟩ := startedL_frame s
    rw [hframe]
    exact hepoch
  rcases hstore a with hsame | ⟨p, c, n, base, capacity, spoiled, ⟨hc, hmark, htarget, hopen⟩, -, hrange⟩
  · exact (wordAt_congr (s := { s.startedL with store := t.store }) (t := t) rfl hepoch' a).trans
      (hsame.trans (wordAt_of_arrivedPlaced hplaced hl))
  · rw [startedL_contexts] at hc
    cases p with
    | l => exact absurd hc fun h => by cases h
    | u =>
      have hmailbox := startedL_mailbox hopen
      rw [hmailbox] at hopen hrange
      exact absurd ⟨c, n, base, capacity, spoiled, ⟨hc, hmark, htarget, hopen⟩, hrange⟩ hu

theorem zeroState_startedL (s : State) : s.startedL.zeroState = if s.uTime.state = .locked ∧ s.lStored.tieEnabled = true ∧
      s.lStored.tieOffset < s.uInUse.slotCount * s.uInUse.slotLength ∧
      s.lStored.slotCount * s.lStored.slotLength ≤ s.uInUse.slotCount * s.uInUse.slotLength then .tying else .untied := by
  have hzero : s.startedL.zeroState = ({ s with lInUse := s.lStored } : State).zeroState := by
    obtain ⟨st, k, ms, co, hframe⟩ := startedL_frame s
    exact zeroState_congr (by rw [hframe]) (by rw [hframe]) (by rw [hframe])
  rw [hzero]
  refine if_congr ?_ rfl rfl
  simp only [State.locked, State.tieConditions, LProfile.duration, UProfile.duration, Bool.and_eq_true, decide_eq_true_eq,
    and_assoc]
  exact and_congr_right fun _ => and_congr_right fun _ => and_congr decide_eq_true_iff decide_eq_true_iff

/-! ## The answer ABANDONED, with the queue of L flushed -/

section
variable {s y : State} {id : PartyId} (hresponses : y.responses = s.responses.set .l [])
include hresponses

theorem responsesGiven_afterFlush_l (hport : id.port = .l) {st : LState} (hst : st ≠ .off) (n : Round) (reply : Reply) :
    (y.withLTime (.roundStarted st n)).responsesGiven id reply =
      s.responses.set .l [{ station := id.station, reply, mark := none }] := by
  have hruns : (y.withLTime (.roundStarted st n)).portRunning .l = true := decide_eq_true hst
  have hget : ((y.withLTime (.roundStarted st n)).responses).get .l = [] := congrArg (PerPort.get · .l) hresponses
  have hset : (y.withLTime (.roundStarted st n)).responses = s.responses.set .l [] := hresponses
  rw [State.responsesGiven, hport, hget, hset, if_pos ⟨hruns, by decide⟩]
  rfl

theorem responsesGiven_afterFlush_u (hport : id.port = .u) (r : LocalRecord) (reply : Reply) :
    (y.withLTime r).responsesGiven id reply = { l := [], u :=
      if y.uTime.state = .locked ∧ s.responses.u.length < 8 then
        s.responses.u ++ [{ station := id.station, reply, mark := none }]
      else s.responses.u } := by
  have hget : ((y.withLTime r).responses).get .u = s.responses.u := by
    have hkept := congrArg (PerPort.get · .u) hresponses
    exact hkept
  have hset : (y.withLTime r).responses = s.responses.set .l [] := hresponses
  have hruns : (y.withLTime r).portRunning .u = true ↔ y.uTime.state = .locked := decide_eq_true_iff
  rw [State.responsesGiven, hport, hget, hset]
  by_cases h : y.uTime.state = .locked ∧ s.responses.u.length < 8
  · rw [if_pos ⟨hruns.2 h.1, h.2⟩, if_pos h]
    rfl
  · rw [if_neg fun hno => h ⟨hruns.1 hno.1, hno.2⟩, if_neg h]
    rfl

end

/-- Settles O26: what was in hand given up; a disabled port is OFF, an enabled one takes round 0, by a mark twice. -/
theorem linkStartLStartsRoundZero : Obligations.LinkStartLStartsRoundZero := by
  intro s hrel l u marked passed tying
  have hmarks : ∀ m, m ∈ s.marks .l ↔ marked m = true := fun m => mem_marks_iff_any
  have hexec : exec .linkStartL s = .next (s.linkStart .l) := congrArg _ (live_of_released hrel _)
  refine ⟨fun hbridge => ?_, fun hno => ?_⟩
  · rw [hexec, linkStart_of_bridge ((hmarks _).2 hbridge)]
    exact congrArg _ (live_of_released hrel _).symm
  have hno' : .bridge ∉ s.marks .l := fun h => hno ((hmarks _).1 h)
  obtain ⟨st, k, ms, co, hframe⟩ := startedL_frame s
  have hmailboxes : s.startedL.mailboxes = (s.closeContext .l).mailboxes := rfl
  have houtcomes : s.startedL.captureOutcomes = (s.closeContext .l).captureOutcomes := rfl
  have hstore : s.startedL.store = (s.placeArrived .l).store := closeContext_store s .l
  refine ⟨_, s.linkStart .l, exec_transmissionEnd_aborted hrel, hexec, ?_⟩
  cases henabled : s.lStored.enabled with
  | false =>
    obtain ⟨v, c, hstart, hquiet, hlost⟩ := linkStart_l_disabled hno' henabled
    have houtcomes' : (s.linkStart .l).captureOutcomes = (s.closeContext .l).captureOutcomes := by rw [hstart]; exact houtcomes
    have hmailboxes' : (s.linkStart .l).mailboxes = (s.closeContext .l).mailboxes := by rw [hstart]; exact hmailboxes
    have hstore' : (s.linkStart .l).store = (s.placeArrived .l).store := by rw [hstart]; exact hstore
    have hends : s.ContextClosed (s.linkStart .l) .l ∧ s.WriteAbandoned (s.linkStart .l) .l ∧
        s.ArrivedPlaced (s.linkStart .l) .l :=
      ⟨contextClosed_of_outcomes houtcomes', writeAbandoned_of_mailboxes hmailboxes',
        arrivedPlaced_of_store hstore' (by rw [hstart, hframe])⟩
    obtain ⟨hclosed, habandoned, hplaced⟩ := hends
    rw [hframe] at hstart
    rw [hstart] at hclosed habandoned hplaced ⊢
    exact ⟨rfl, rfl, rfl, rfl, rfl, rfl, rfl, rfl, rfl, hlost, fun _ => ⟨rfl, rfl, rfl, rfl, rfl, rfl, rfl, rfl, rfl, rfl, rfl, rfl,
      hclosed, habandoned, hplaced, hquiet⟩, fun h => absurd h Bool.false_ne_true⟩
  | true =>
    obtain ⟨hrounds, hlost⟩ := linkStart_l_enabled hno' henabled
    generalize s.linkStart .l = t at hrounds hlost ⊢
    rw [hmarks] at hrounds
    have hparties : s.startedL.parties = s.parties := by rw [hframe]
    have hclaim : s.startedL.claim = s.claim := by rw [hframe]
    have hcheck : s.startedL.checkState = s.checkState := by rw [hframe]
    have hsettings : s.startedL.settings = s.settings := by rw [hframe]
    have hresponses : s.startedL.responses = s.responses.set .l [] := by rw [hframe]
    obtain ⟨hinuse, hrx, htx, hcounters, hutime, hltime, hepoch⟩ := zeroRounds_frame hrounds
    rw [zeroState_startedL] at hltime
    have hepoch' : t.storeEpoch = s.storeEpoch := hepoch.trans (by rw [hframe])
    have hrx' : t.rx = s.rx.set .l none := hrx.trans (by rw [hframe])
    have hcontext : t.contexts.l = none := by
      by_cases hpending : s.startedL.checkState = .commitPending
      · obtain ⟨-, -, -, -, -, -, hkeep, -⟩ := zeroRounds_swaps hrounds hpending
        exact hkeep .l (by rw [startedL_contexts]; rfl)
      · obtain ⟨-, -, -, hkeep, -⟩ := zeroRounds_keeps hrounds hpending
        rw [hkeep, startedL_contexts]
        rfl
    refine ⟨hinuse, by rw [hrx']; rfl, by rw [hrx']; rfl, htx.trans (by rw [hframe]; rfl), hcontext,
      hcounters.trans (by rw [hframe]), hutime.trans (by rw [hframe]), by rw [hltime]; rfl, by rw [hltime]; rfl, hlost,
      fun h => absurd h.symm Bool.false_ne_true, fun _ => ⟨by rw [hltime]; rfl, by rw [hltime]; rfl, fun h => ?_, fun h => ?_, fun hlives => ?_,
      fun i q hs hq hholds hidle => ?_, fun hpending => ?_, fun hpending => ?_⟩⟩
    · rw [hltime]
      exact if_pos h
    · rw [hltime]
      exact if_neg h
    · obtain ⟨hclaim', hresponses', hparties', hcheck'⟩ := zeroRounds_lives hrounds fun i q hq hc => by
        rw [hsettings]
        exact hlives i q (hparties ▸ hq) (hclaim ▸ hc)
      rw [hresponses] at hresponses'
      exact ⟨hclaim'.trans hclaim, by rw [hresponses']; rfl, by rw [hresponses']; rfl,
        fun i => (hparties' i).trans (by rw [hparties]; rfl), fun hno => (hcheck' (hcheck.symm ▸ hno)).trans hcheck⟩
    · obtain ⟨hnone, hshows, habandons⟩ := zeroRounds_expires hrounds (i := i) (q := q) (by
        unfold State.PartiesLawful
        rw [hparties, hclaim]
        exact hs) (hparties.symm ▸ hq) (hclaim.symm ▸ hholds) (by rw [hsettings]; exact hidle)
      refine ⟨hnone, hshows, fun p f rb m hchecking hc hm => ?_⟩
      obtain ⟨hunchecked, hgiven⟩ := habandons p f rb m (hcheck.trans hchecking) (by
        unfold State.CheckLawful
        rw [hparties, hclaim, hcheck]
        exact hc) hm
      refine ⟨hunchecked, fun hport => ?_, fun hport => ?_⟩
      · rw [responsesGiven_afterFlush_l hresponses (by rw [hport]) (zeroState_not_off _)] at hgiven
        exact ⟨by rw [hgiven]; rfl, by rw [hgiven]; rfl⟩
      · rw [responsesGiven_afterFlush_u hresponses (by rw [hport])] at hgiven
        have hstate : s.startedL.uTime = s.uTime := by rw [hframe]
        rw [hstate] at hgiven
        exact ⟨congrArg PerPort.l hgiven, congrArg PerPort.u hgiven⟩
    · obtain ⟨h1, h2, h3, h4, h5, h6, h7, h8, h9, h10⟩ := zeroRounds_keeps hrounds (hcheck.symm ▸ hpending)
      refine ⟨h1.trans (by rw [hframe]), h2.trans (by rw [hframe]), h3.trans (by rw [hframe]), ?_, h5.trans (by rw [hframe]; rfl),
        h6.trans (by rw [hframe]; rfl), h8.trans (by rw [hframe]; rfl), contextClosed_of_outcomes (h7.trans houtcomes),
        arrivedPlaced_of_store (h9.trans hstore) hepoch', fun c n base capacity spoiled hw => ?_⟩
      · rw [h4, startedL_contexts]
        rfl
      · rw [h10, hmailboxes, (writeAbandoned_of_mailboxes (s := s) (t := s.closeContext .l) rfl).1 c n base capacity spoiled hw]
        exact congrArg MailboxRt.openWrite (Vector.getElem_set_self _)
    · obtain ⟨h1, h2, h3, h4, h5, h6, -, h8⟩ := zeroRounds_swaps hrounds (hcheck.trans hpending)
      exact ⟨h2.trans (by rw [hframe]), h3.trans (by rw [hframe]), h4.trans (by rw [hframe]), h1, h5, h6,
        fun a hu hl => wordAt_startedL_swapped h8 hepoch' hu hl⟩

end Sys2Proof.Machine
end

section
/-! RESTART and RESTART_LINK (R35, R51, R148, R160). -/

set_option Elab.async false

namespace Sys2Proof.Machine

/-! ## The claim of the party whose request is executed -/

theorem findParty_begun {s : State} {r : Request} {i : Fin 8} (h : (s.admitParty (requestParty r)).2 = some i) :
    (s.begun r i).findParty (requestParty r) = some i := by
  obtain ⟨q, hadmitted, hid, -, hfound⟩ := admitted_of h
  have hself : (s.begun r i).parties[i] = some { q with lastSeq := some r.seq } := by
    rw [State.begun, hadmitted, updateParty_self _ (withParty_parties_get s i _), withParty_parties_get]
  refine find?_finRange_eq_some.2 ⟨partyAt_iff.2 ⟨_, hself, hid⟩, fun j hj => ?_⟩
  have hother : (s.begun r i).parties[j] = s.parties[j] := by
    rw [State.begun, hadmitted, updateParty_self _ (withParty_parties_get s i _), withParty_withParty,
      withParty_parties_get_ne s _ (Ne.symm (ne_of_lt hj))]
  have hstood : s.partyAt (requestParty r) j = false := by
    rcases hfound with ⟨-, hfound, -⟩ | ⟨hnone, -⟩
    · exact (find?_finRange_eq_some.1 hfound).2 j hj
    · exact Bool.eq_false_iff.2 fun hat => by
        obtain ⟨x, hx, hxid⟩ := partyAt_iff.1 hat
        exact findParty_eq_none.1 hnone j x hx hxid
  unfold State.partyAt at hstood ⊢
  rw [hother]
  exact hstood

/-- The holder whose request is executed has no idle rounds (R136). -/
theorem holderIdle_begun {s : State} {r : Request} {i : Fin 8} (h : s.HolderExecutes r i) : (s.begun r i).holderIdle = some 0 := by
  obtain ⟨⟨-, hadmit, -, -⟩, hclaim⟩ := h
  obtain ⟨q, hadmitted, -, hidle, -⟩ := admitted_of hadmit
  have hself : (s.begun r i).parties[i] = some { q with lastSeq := some r.seq } := by
    rw [State.begun, hadmitted, updateParty_self _ (withParty_parties_get s i _), withParty_parties_get]
  simp only [State.holderIdle, begun_claim, hclaim, findParty_begun hadmit, Option.bind_some, hself, Option.map_some, hidle]

theorem holderIdle_congr {s t : State} (hparties : t.parties = s.parties) (hclaim : t.claim = s.claim) :
    t.holderIdle = s.holderIdle := by
  have hat : t.partyAt = s.partyAt := funext fun id => funext fun i => by simp only [State.partyAt, hparties]
  simp only [State.holderIdle, State.findParty, hat, hparties, hclaim]

theorem claimAboutToExpire_of_idle {s : State} {k : BitVec 8} (h : s.holderIdle = some k) (hlt : satInc k < s.settings.claimTimeout) :
    s.claimAboutToExpire = false := by
  simp only [State.claimAboutToExpire, h]
  exact decide_eq_false (BitVec.not_le.2 hlt)

/-- Two round starts do not end a claim of a holder without idle rounds, the timeout being 8 at least. -/
theorem zeroRounds_responses {y t : State} {twice : Prop} (h : ZeroRounds y t twice) (hidle : y.holderIdle = some 0)
    (htimeout : 8 ≤ y.settings.claimTimeout) : t.responses = y.responses := by
  have hlt : ∀ k : BitVec 8, k < 8 → k < y.settings.claimTimeout := fun k hk => by
    have := BitVec.lt_def.1 hk
    have := BitVec.le_def.1 htimeout
    exact BitVec.lt_def.2 (by omega)
  have hlives : y.claimAboutToExpire = false := claimAboutToExpire_of_idle hidle (hlt _ (by decide))
  rcases h with ⟨-, h⟩ | ⟨-, x, h, h'⟩
  · obtain ⟨-, hresponses, -⟩ := zeroRound_lives h hlives
    exact hresponses
  · obtain ⟨hclaim, hresponses, hparties, -⟩ := zeroRound_lives h hlives
    obtain ⟨-, -, -, -, -, -, hsettings, -⟩ := zeroRound_frame h
    have hidle' : x.holderIdle = some 1 := by
      rw [holderIdle_congr (s := y.countIdle) hparties hclaim, holderIdle_countIdle, hidle]
      rfl
    obtain ⟨-, hresponses', -⟩ := zeroRound_lives h' (claimAboutToExpire_of_idle hidle' (by
      rw [hsettings]
      exact hlt _ (by decide)))
    exact hresponses'.trans hresponses

/-! ## The link start of the other port -/

/-- The link start of one port leaves the responses of the other: the claim does not end. -/
theorem linkStart_responses {s : State} {p q : Port} (hpq : p ≠ q) (hno : .bridge ∉ s.marks p) (hidle : s.holderIdle = some 0)
    (htimeout : 8 ≤ s.settings.claimTimeout) : (s.linkStart p).responses.get q = s.responses.get q := by
  cases p with
  | u =>
    obtain ⟨l, v, k, hstart, -⟩ := startLinkU_taken s
    rw [linkStart_u_of_unmarked hno, hstart]
    cases q with
    | u => exact absurd rfl hpq
    | l => rfl
  | l =>
    cases q with
    | l => exact absurd rfl hpq
    | u =>
      obtain ⟨st, k, ms, co, hframe⟩ := startedL_frame s
      cases henabled : s.lStored.enabled with
      | false =>
        obtain ⟨v, c, hstart, -⟩ := linkStart_l_disabled hno henabled
        rw [hstart]
        rfl
      | true =>
        obtain ⟨hrounds, -⟩ := linkStart_l_enabled hno henabled
        have hresponses := zeroRounds_responses hrounds
          ((holderIdle_congr (by rw [hframe]) (by rw [hframe])).trans hidle) (by rw [hframe]; exact htimeout)
        rw [hresponses]
        rfl

/-! ## The requests -/

section
variable {r : Request} {s : State} {i : Fin 8} (h : s.HolderExecutes r i) (hops : r.operands = [])
include h hops

theorem judge_restartLink : judge (some .restartLink) r (s.begun r i) =
    ownRestartLink (requestParty r) r.selector (s.begun r i) :=
  judge_own (q := .restartLink) (by rw [hops]; rfl) fun _ => (begun_claim s r i).trans h.2

/-- The port of arrival: the answer with its mark. -/
theorem exec_restartLink_own (hsel : selectsPort r.selector r.port) :
    exec (.restartLink r) s = .next ((s.begun r i).replied r i 14 .ok [] (some (.link r.port))) := by
  refine exec_holder h .restartLink (by rw [hops]; rfl) ?_ (begun_responses s r i)
  rw [ownRule, ownRestartLink, selPort_eq_some.2 hsel]
  exact if_pos rfl

/-- The other port, no bridge restart being pending there: the link start, and the answer. -/
theorem exec_restartLink_other {p : Port} (hsel : selectsPort r.selector p) (hp : p ≠ r.port)
    (htimeout : 8 ≤ s.settings.claimTimeout) (hno : .bridge ∉ (s.begun r i).marks p) :
    exec (.restartLink r) s = .next (((s.begun r i).linkStart p).replied r i 14 .ok [] none) := by
  refine exec_replied h.1 .restartLink ((judge_restartLink h hops).trans ?_) ?_
  · rw [ownRestartLink, selPort_eq_some.2 hsel]
    exact (if_neg hp).trans (if_neg hno)
  · rw [linkStart_responses hp hno (holderIdle_begun h) (by rw [begun_settings]; exact htimeout), begun_responses]

/-- The other port, a bridge restart being pending there: it comes about, and there is no answer. -/
theorem exec_restartLink_bridge {p : Port} (hsel : selectsPort r.selector p) (hp : p ≠ r.port)
    (hbridge : .bridge ∈ (s.begun r i).marks p) : exec (.restartLink r) s = .next ((s.begun r i).linkStart p) := by
  have hjudge : judge (some .restartLink) r (s.begun r i) = ((s.begun r i).linkStart p, .gone) := by
    rw [judge_restartLink h hops, ownRestartLink, selPort_eq_some.2 hsel]
    exact (if_neg hp).trans (if_pos hbridge)
  refine (exec_executes h.1 .restartLink).trans ?_
  rw [hjudge]

end

/-- Settles O43: a mark on the answer, or the link start of the other port before it. -/
theorem restartsFollowTheirAnswer : Obligations.RestartsFollowTheirAnswer := by
  intro r s i h hops b linkStart
  have hrel : b.resetnLow = false := (begun_resetnLow s r i).trans h.1.1.1
  have hstart : ∀ p, linkStart p = .next (b.linkStart p) := fun p => by
    cases p <;> exact congrArg _ (live_of_released hrel _)
  have hmarks : ∀ p, .bridge ∈ b.marks p ↔ ∃ x, x ∈ s.responses.get p ∧ x.mark = some .bridge := fun p => by
    rw [mem_marks, begun_responses]
  refine ⟨exec_holder h .restart (by rw [hops]; rfl) rfl (begun_responses s r i), exec_restartLink_own h hops,
    fun p hsel hp htimeout => ⟨fun hno => ⟨_, hstart p, ?_⟩, fun hbridge => ?_⟩, fun hnone => ?_⟩
  · refine exec_restartLink_other h hops hsel hp htimeout fun hbridge => ?_
    obtain ⟨x, hx, hmark⟩ := (hmarks p).1 hbridge
    exact hno x hx hmark
  · exact (exec_restartLink_bridge h hops hsel hp ((hmarks p).2 hbridge)).trans (hstart p).symm
  · refine exec_holder h .restartLink (by rw [hops]; rfl) ?_ (begun_responses s r i)
    rw [ownRule, ownRestartLink, selPort_eq_none.2 hnone]
    rfl

end Sys2Proof.Machine
end

section
/-! The words of plan records, read and written (Table 12-6, R65, R172). -/

set_option Elab.async false

namespace Sys2Proof.Machine

/-! ## Fields read -/

theorem bitsAt_lt (w : Word) (hi lo : Nat) : bitsAt w hi lo < 2 ^ (hi + 1 - lo) := by
  rw [bitsAt_eq_field]
  exact field_lt _ _ _

theorem bit_iff {w : Word} {i : Nat} : bitsAt w i i = 1 ↔ w.getLsbD i = true :=
  (getLsbD_eq_iff_bitsAt (b := true)).symm

/-- A byte of a word as a number. -/
theorem byte_iff {w : Word} {lo : Nat} {v : BitVec 8} : w.extractLsb' lo 8 = v ↔ bitsAt w (lo + 7) lo = v.toNat := by
  rw [← BitVec.toNat_inj, bitsAt, show lo + 7 + 1 - lo = 8 by omega]

/-- A bit that chooses between two values. -/
theorem choice_iff {α : Type} {c : Prop} [Decidable c] {a b x : α} (hx : x = a ∨ x = b) (hab : a ≠ b) :
    (if c then a else b) = x ↔ (c ↔ x = a) := by
  by_cases hc : c
  · rw [if_pos hc]
    exact ⟨fun h => ⟨fun _ => h.symm, fun _ => hc⟩, fun h => (h.1 hc).symm⟩
  · rw [if_neg hc]
    refine ⟨fun h => ⟨fun hno => absurd hno hc, fun he => absurd (he.symm.trans h.symm) hab⟩, fun h => ?_⟩
    rcases hx with rfl | rfl
    · exact absurd (h.2 rfl) hc
    · rfl

/-! ## Mailbox and queue definitions -/

theorem parseMailboxDef_iff (w : Word) (d : MailboxDef) : parseMailboxDef w = some d ↔
    bitsAt w 31 20 = d.base ∧ bitsAt w 19 16 = d.capacity ∧ (w.getLsbD 15 = true ↔ d.readMode = .take) ∧
    w.getLsbD 14 = d.notifyStale ∧ w.extractLsb' 0 8 = d.staleLimit ∧ 1 ≤ d.capacity ∧ d.capacity ≤ 12 := by
  obtain ⟨base, capacity, mode, limit, notify⟩ := d
  have hmode : mode = .take ∨ mode = .keep := by cases mode <;> simp
  have hbase : bitsAt w 31 20 < 4096 := bitsAt_lt w 31 20
  simp only [parseMailboxDef, MailboxDef.ok, Option.ite_none_right_eq_some, Option.some.injEq, MailboxDef.mk.injEq,
    Bool.and_eq_true, decide_eq_true_eq, choice_iff hmode (by decide), ← bitsAt_eq_field, bit_iff, Bool.decide_eq_true,
    extract_eq_ofNat_field w 0 8]
  constructor
  · rintro ⟨⟨⟨-, hlow⟩, hhigh⟩, rfl, rfl, hm, hl, hn⟩
    exact ⟨rfl, rfl, hm, hn, hl, hlow, hhigh⟩
  · rintro ⟨rfl, rfl, hm, hn, hl, hlow, hhigh⟩
    exact ⟨⟨⟨hbase, hlow⟩, hhigh⟩, rfl, rfl, hm, hl, hn⟩

theorem parseQueueDef_iff (w : Word) (d : QueueDef) : parseQueueDef w = some d ↔
    bitsAt w 31 20 = d.base ∧ bitsAt w 19 16 = d.capacity ∧ bitsAt w 15 10 = d.depth ∧
    (w.getLsbD 9 = true ↔ d.fullPolicy = .replaceOldest) ∧ bitsAt w 8 6 = d.retryLimit ∧
    1 ≤ d.capacity ∧ d.capacity ≤ 12 ∧ 1 ≤ d.depth ∧ d.depth ≤ 32 := by
  obtain ⟨base, capacity, depth, policy, retries⟩ := d
  have hpolicy : policy = .replaceOldest ∨ policy = .dropNewest := by cases policy <;> simp
  have hbase : bitsAt w 31 20 < 4096 := bitsAt_lt w 31 20
  have hretries : bitsAt w 8 6 ≤ 7 := Nat.le_of_lt_succ (bitsAt_lt w 8 6)
  simp only [parseQueueDef, QueueDef.ok, Option.ite_none_right_eq_some, Option.some.injEq, QueueDef.mk.injEq,
    Bool.and_eq_true, decide_eq_true_eq, choice_iff hpolicy (by decide), ← bitsAt_eq_field, bit_iff]
  constructor
  · rintro ⟨⟨⟨⟨⟨⟨-, hlow⟩, hhigh⟩, hshallow⟩, hdeep⟩, -⟩, rfl, rfl, rfl, hp, rfl⟩
    exact ⟨rfl, rfl, rfl, hp, rfl, hlow, hhigh, hshallow, hdeep⟩
  · rintro ⟨rfl, rfl, rfl, hp, rfl, hlow, hhigh, hshallow, hdeep⟩
    exact ⟨⟨⟨⟨⟨⟨hbase, hlow⟩, hhigh⟩, hshallow⟩, hdeep⟩, hretries⟩, rfl, rfl, rfl, hp, rfl⟩

theorem mailboxDef_written {d : MailboxDef} (h : d.ok = true) : ∃ w, d.words = [w] ∧ parseMailboxDef w = some d ∧
    bitsAt w 13 8 = 0 := by
  simp only [MailboxDef.ok, Bool.and_eq_true, decide_eq_true_eq] at h
  obtain ⟨⟨hbase, hlow⟩, hhigh⟩ := h
  have hmode := (decide (d.readMode = .take)).toNat_lt
  have hnotify := d.notifyStale.toNat_lt
  have hlimit := d.staleLimit.isLt
  obtain ⟨k, hk, hword⟩ : ∃ k, k = d.base * 2 ^ 20 + d.capacity * 2 ^ 16 + (decide (d.readMode = .take)).toNat * 2 ^ 15 +
      d.notifyStale.toNat * 2 ^ 14 + d.staleLimit.toNat * 2 ^ 0 ∧ d.words = [toWord k] := by
    refine ⟨_, rfl, ?_⟩
    rw [MailboxDef.words, putBit, putBit, put_of_lt (by omega), put_of_lt (by omega), put_of_lt (by omega),
      put_of_lt (by omega), put_of_lt (by omega)]
  have hfields : bitsAt (toWord k) 31 20 = d.base ∧ bitsAt (toWord k) 19 16 = d.capacity ∧
      (toWord k).getLsbD 15 = decide (d.readMode = .take) ∧ (toWord k).getLsbD 14 = d.notifyStale ∧
      (toWord k).extractLsb' 0 8 = d.staleLimit ∧ bitsAt (toWord k) 13 8 = 0 := by
    simp only [getLsbD_eq_iff_bitsAt, byte_iff, bitsAt_toWord (show k < 2 ^ 32 by omega), field]
    omega
  obtain ⟨h1, h2, h3, h4, h5, h6⟩ := hfields
  exact ⟨_, hword, (parseMailboxDef_iff _ d).2 ⟨h1, h2, by rw [h3, decide_eq_true_eq], h4, h5, hlow, hhigh⟩, h6⟩

theorem queueDef_written {d : QueueDef} (h : d.ok = true) : ∃ w, d.words = [w] ∧ parseQueueDef w = some d ∧
    bitsAt w 5 0 = 0 := by
  simp only [QueueDef.ok, Bool.and_eq_true, decide_eq_true_eq] at h
  obtain ⟨⟨⟨⟨⟨hbase, hlow⟩, hhigh⟩, hshallow⟩, hdeep⟩, hretries⟩ := h
  have hpolicy := (decide (d.fullPolicy = .replaceOldest)).toNat_lt
  obtain ⟨k, hk, hword⟩ : ∃ k, k = d.base * 2 ^ 20 + d.capacity * 2 ^ 16 + d.depth * 2 ^ 10 +
      (decide (d.fullPolicy = .replaceOldest)).toNat * 2 ^ 9 + d.retryLimit * 2 ^ 6 ∧ d.words = [toWord k] := by
    refine ⟨_, rfl, ?_⟩
    rw [QueueDef.words, putBit, put_of_lt (by omega), put_of_lt (by omega), put_of_lt (by omega), put_of_lt (by omega),
      put_of_lt (by omega)]
  have hfields : bitsAt (toWord k) 31 20 = d.base ∧ bitsAt (toWord k) 19 16 = d.capacity ∧
      bitsAt (toWord k) 15 10 = d.depth ∧ (toWord k).getLsbD 9 = decide (d.fullPolicy = .replaceOldest) ∧
      bitsAt (toWord k) 8 6 = d.retryLimit ∧ bitsAt (toWord k) 5 0 = 0 := by
    simp only [getLsbD_eq_iff_bitsAt, bitsAt_toWord (show k < 2 ^ 32 by omega), field]
    omega
  obtain ⟨h1, h2, h3, h4, h5, h6⟩ := hfields
  exact ⟨_, hword,
    (parseQueueDef_iff _ d).2 ⟨h1, h2, h3, by rw [h4, decide_eq_true_eq], h5, hlow, hhigh, hshallow, hdeep⟩, h6⟩

/-! ## Entries -/

/-- The periods of a round set are the eight powers of two. -/
theorem roundSet_ok_iff (t : RoundSet) :
    t.ok = true ↔ t.period ∈ [1, 2, 4, 8, 16, 32, 64, 128] ∧ t.phase < t.period := by
  simp only [RoundSet.ok, Bool.and_eq_true, Bool.or_eq_true, decide_eq_true_eq, List.mem_cons, List.not_mem_nil, or_false,
    or_assoc]

theorem portOfCode_eq_some {k : Nat} {p : Port} : portOfCode k = some p ↔ k = portCode p := by
  unfold portOfCode
  split <;> cases p <;> simp_all [portCode]

/-- The codes of the second word of an entry name the place (Table 12-6). -/
def PlaceAt (w : Word) : Place → Prop
  | .mailbox n => bitsAt w 31 30 = 1 ∧ bitsAt w 23 16 = n.val
  | .queue n => bitsAt w 31 30 = 2 ∧ bitsAt w 23 16 = n.val

theorem placeOf_eq_some {w : Word} {x : Place} : placeOf (bitsAt w 31 30) (bitsAt w 23 16) = some x ↔ PlaceAt w x := by
  unfold placeOf PlaceAt
  split
  · rename_i h
    cases x <;> simp [numberBelow_eq_some, h]
  · rename_i h
    cases x <;> simp [numberBelow_eq_some, h]
  · rename_i h1 h2
    cases x with
    | mailbox n => exact iff_of_false (fun h => by cases h) fun h => h1 h.1
    | queue n => exact iff_of_false (fun h => by cases h) fun h => h2 h.1

/-- The first word of an entry (Table 12-6). -/
def EntryAt (w : Word) (p : Port) (slot : Nat) (t : RoundSet) : Prop :=
  bitsAt w 31 30 = portCode p ∧ bitsAt w 25 16 = slot ∧ bitsAt w 15 8 = t.period ∧ bitsAt w 7 0 = t.phase ∧
    1 ≤ slot ∧ t.period ∈ [1, 2, 4, 8, 16, 32, 64, 128] ∧ t.phase < t.period

theorem entryAt_iff {w : Word} {p : Port} {slot : Nat} {t : RoundSet} : EntryAt w p slot t ↔
    portOfCode (bitsAt w 31 30) = some p ∧ bitsAt w 25 16 = slot ∧ parseRounds w.toNat = t ∧ 1 ≤ slot ∧ slot ≤ 1023 ∧
      t.ok = true := by
  obtain ⟨period, phase⟩ := t
  have hslot : bitsAt w 25 16 < 1024 := bitsAt_lt w 25 16
  simp only [EntryAt, portOfCode_eq_some, parseRounds, ← bitsAt_eq_field, RoundSet.mk.injEq, roundSet_ok_iff]
  constructor
  · rintro ⟨hport, rfl, rfl, rfl, hlow, hrounds⟩
    exact ⟨hport, rfl, ⟨rfl, rfl⟩, hlow, Nat.le_of_lt_succ hslot, hrounds⟩
  · rintro ⟨hport, rfl, ⟨rfl, rfl⟩, hlow, -, hrounds⟩
    exact ⟨hport, rfl, rfl, rfl, hlow, hrounds⟩

theorem parseCaptureEntry_iff (w0 w1 : Word) (e : CaptureEntry) : parseCaptureEntry w0 w1 = some e ↔
    EntryAt w0 e.port e.slot e.rounds ∧ PlaceAt w1 e.target ∧ w1.extractLsb' 0 8 = e.acceptFrom ∧ e.acceptFrom ≠ 255 := by
  obtain ⟨port, slot, rounds, target, sender⟩ := e
  simp only [entryAt_iff, ← placeOf_eq_some, parseCaptureEntry, ← bitsAt_eq_field, extract_eq_ofNat_field w1 0 8]
  cases hp : portOfCode (bitsAt w0 31 30) with
  | none => simp
  | some p =>
    cases hk : placeOf (bitsAt w1 31 30) (bitsAt w1 23 16) with
    | none => simp
    | some k =>
      simp only [CaptureEntry.ok, Option.ite_none_right_eq_some, Option.some.injEq, CaptureEntry.mk.injEq, Bool.and_eq_true,
        decide_eq_true_eq]
      constructor
      · rintro ⟨⟨⟨⟨hlow, hhigh⟩, hrounds⟩, hsender⟩, rfl, rfl, rfl, rfl, rfl⟩
        exact ⟨⟨rfl, rfl, rfl, hlow, hhigh, hrounds⟩, rfl, rfl, hsender⟩
      · rintro ⟨⟨rfl, rfl, rfl, hlow, hhigh, hrounds⟩, rfl, rfl, hsender⟩
        exact ⟨⟨⟨⟨hlow, hhigh⟩, hrounds⟩, hsender⟩, rfl, rfl, rfl, rfl, rfl⟩

theorem onEmptyOf_eq_some {k : Nat} {x : OnEmpty} : onEmptyOf k = some x ↔ k = x.code := by
  unfold onEmptyOf
  split <;> cases x <;> simp_all [OnEmpty.code]

theorem onStaleOf_eq_some {k : Nat} {x : OnStale} : onStaleOf k = some x ↔ k = x.code := by
  unfold onStaleOf
  split <;> cases x <;> simp_all [OnStale.code]

theorem originOf_eq_some {k : Nat} {x : Origin} : originOf k = some x ↔ k = x.code := by
  unfold originOf
  split <;> cases x <;> simp_all [Origin.code]

theorem parseEmitEntry_iff (w0 w1 : Word) (e : EmitEntry) : parseEmitEntry w0 w1 = some e ↔
    EntryAt w0 e.port e.slot e.rounds ∧ PlaceAt w1 e.source ∧ bitsAt w1 15 14 = e.onEmpty.code ∧
    bitsAt w1 13 12 = e.onStale.code ∧ bitsAt w1 11 10 = e.origin.code := by
  obtain ⟨port, slot, rounds, source, onEmpty, onStale, origin⟩ := e
  simp only [entryAt_iff, ← placeOf_eq_some, ← onEmptyOf_eq_some, ← onStaleOf_eq_some, ← originOf_eq_some, parseEmitEntry,
    ← bitsAt_eq_field]
  constructor
  · intro h
    split at h
    · rename_i hp hk he hs ho
      simp only [EmitEntry.ok, Option.ite_none_right_eq_some, Option.some.injEq, EmitEntry.mk.injEq, Bool.and_eq_true,
        decide_eq_true_eq] at h
      obtain ⟨⟨⟨hlow, hhigh⟩, hrounds⟩, rfl, rfl, rfl, rfl, rfl, rfl, rfl⟩ := h
      exact ⟨⟨hp, rfl, rfl, hlow, hhigh, hrounds⟩, hk, he, hs, ho⟩
    · cases h
  · rintro ⟨⟨hp, rfl, rfl, hlow, hhigh, hrounds⟩, hk, he, hs, ho⟩
    simp only [hp, hk, he, hs, ho]
    exact if_pos (by simp [EmitEntry.ok, hlow, hhigh, hrounds])

/-! ## Entries written -/

theorem period_le {t : RoundSet} (h : t.ok = true) : t.period ≤ 128 ∧ t.phase < t.period := by
  obtain ⟨hperiod, hphase⟩ := (roundSet_ok_iff t).1 h
  refine ⟨?_, hphase⟩
  simp only [List.mem_cons, List.not_mem_nil, or_false] at hperiod
  omega

theorem entryWord_read {p : Port} {slot : Nat} {t : RoundSet} (hlow : 1 ≤ slot) (hhigh : slot ≤ 1023) (h : t.ok = true) :
    EntryAt (entryWord p slot t) p slot t ∧ bitsAt (entryWord p slot t) 29 26 = 0 := by
  obtain ⟨hperiod, hphase⟩ := period_le h
  have hport := portCode_lt p
  obtain ⟨k, hk, hword⟩ : ∃ k, k = portCode p * 2 ^ 30 + slot * 2 ^ 16 + t.period * 2 ^ 8 + t.phase * 2 ^ 0 ∧
      entryWord p slot t = toWord k := by
    refine ⟨_, rfl, ?_⟩
    rw [entryWord, put_of_lt (by omega), put_of_lt (by omega), put_of_lt (by omega), put_of_lt (by omega)]
  have hfields : bitsAt (toWord k) 31 30 = portCode p ∧ bitsAt (toWord k) 25 16 = slot ∧ bitsAt (toWord k) 15 8 = t.period ∧
      bitsAt (toWord k) 7 0 = t.phase ∧ bitsAt (toWord k) 29 26 = 0 := by
    simp only [bitsAt_toWord (show k < 2 ^ 32 by omega), field]
    omega
  obtain ⟨h1, h2, h3, h4, h5⟩ := hfields
  rw [hword]
  exact ⟨⟨h1, h2, h3, h4, hlow, (roundSet_ok_iff t).1 h⟩, h5⟩

/-- The kind and the number of a place. -/
theorem placeBits_eq (x : Place) : ∃ k n, (k = 1 ∨ k = 2) ∧ n < 64 ∧ x.bits = k * 2 ^ 30 + n * 2 ^ 16 ∧
    ∀ w : Word, bitsAt w 31 30 = k → bitsAt w 23 16 = n → PlaceAt w x := by
  cases x with
  | mailbox n =>
    have hn := n.isLt
    exact ⟨1, n.val, .inl rfl, hn, by rw [Place.bits, put_of_lt (by omega), put_of_lt (by omega)], fun w h1 h2 => ⟨h1, h2⟩⟩
  | queue n =>
    have hn := n.isLt
    exact ⟨2, n.val, .inr rfl, by omega, by rw [Place.bits, put_of_lt (by omega), put_of_lt (by omega)], fun w h1 h2 => ⟨h1, h2⟩⟩

theorem captureEntry_written {e : CaptureEntry} (h : e.ok = true) : ∃ w0 w1, e.words = [w0, w1] ∧
    parseCaptureEntry w0 w1 = some e ∧ bitsAt w0 29 26 = 0 ∧ bitsAt w1 29 24 = 0 ∧ bitsAt w1 15 8 = 0 := by
  simp only [CaptureEntry.ok, Bool.and_eq_true, decide_eq_true_eq] at h
  obtain ⟨⟨⟨hlow, hhigh⟩, hrounds⟩, hsender⟩ := h
  obtain ⟨hentry, hreserved⟩ := entryWord_read (p := e.port) hlow hhigh hrounds
  obtain ⟨kind, n, hkind, hn, hbits, hplace⟩ := placeBits_eq e.target
  have hbyte := e.acceptFrom.isLt
  obtain ⟨k, hk, hword⟩ : ∃ k, k = kind * 2 ^ 30 + n * 2 ^ 16 + e.acceptFrom.toNat * 2 ^ 0 ∧
      e.words = [entryWord e.port e.slot e.rounds, toWord k] := by
    refine ⟨_, rfl, ?_⟩
    rw [CaptureEntry.words, hbits, put_of_lt (by omega)]
  have hfields : bitsAt (toWord k) 31 30 = kind ∧ bitsAt (toWord k) 23 16 = n ∧ (toWord k).extractLsb' 0 8 = e.acceptFrom ∧
      bitsAt (toWord k) 29 24 = 0 ∧ bitsAt (toWord k) 15 8 = 0 := by
    simp only [byte_iff, bitsAt_toWord (show k < 2 ^ 32 by omega), field]
    omega
  obtain ⟨h1, h2, h3, h4, h5⟩ := hfields
  exact ⟨_, _, hword, (parseCaptureEntry_iff _ _ e).2 ⟨hentry, hplace _ h1 h2, h3, hsender⟩, hreserved, h4, h5⟩

theorem onEmptyCode_lt (x : OnEmpty) : x.code < 4 := by cases x <;> decide

theorem onStaleCode_lt (x : OnStale) : x.code < 4 := by cases x <;> decide

theorem originCode_lt (x : Origin) : x.code < 4 := by cases x <;> decide

theorem emitEntry_written {e : EmitEntry} (h : e.ok = true) : ∃ w0 w1, e.words = [w0, w1] ∧
    parseEmitEntry w0 w1 = some e ∧ bitsAt w0 29 26 = 0 ∧ bitsAt w1 29 24 = 0 ∧ bitsAt w1 9 0 = 0 := by
  simp only [EmitEntry.ok, Bool.and_eq_true, decide_eq_true_eq] at h
  obtain ⟨⟨hlow, hhigh⟩, hrounds⟩ := h
  obtain ⟨hentry, hreserved⟩ := entryWord_read (p := e.port) hlow hhigh hrounds
  obtain ⟨kind, n, hkind, hn, hbits, hplace⟩ := placeBits_eq e.source
  have hempty := onEmptyCode_lt e.onEmpty
  have hstale := onStaleCode_lt e.onStale
  have horigin := originCode_lt e.origin
  obtain ⟨k, hk, hword⟩ : ∃ k, k = kind * 2 ^ 30 + n * 2 ^ 16 + e.onEmpty.code * 2 ^ 14 + e.onStale.code * 2 ^ 12 +
      e.origin.code * 2 ^ 10 ∧ e.words = [entryWord e.port e.slot e.rounds, toWord k] := by
    refine ⟨_, rfl, ?_⟩
    rw [EmitEntry.words, hbits, put_of_lt (by omega), put_of_lt (by omega), put_of_lt (by omega)]
  have hfields : bitsAt (toWord k) 31 30 = kind ∧ bitsAt (toWord k) 23 16 = n ∧ bitsAt (toWord k) 15 14 = e.onEmpty.code ∧
      bitsAt (toWord k) 13 12 = e.onStale.code ∧ bitsAt (toWord k) 11 10 = e.origin.code ∧
      bitsAt (toWord k) 29 24 = 0 ∧ bitsAt (toWord k) 9 0 = 0 := by
    simp only [bitsAt_toWord (show k < 2 ^ 32 by omega), field]
    omega
  obtain ⟨h1, h2, h3, h4, h5, h6, h7⟩ := hfields
  exact ⟨_, _, hword, (parseEmitEntry_iff _ _ e).2 ⟨hentry, hplace _ h1 h2, h3, h4, h5⟩, hreserved, h6, h7⟩

end Sys2Proof.Machine
end

section
/-! The words of profiles, read and written (Table 12-8, R20, R39, R172). -/

set_option Elab.async false

namespace Sys2Proof.Machine

/-! ## Profiles read -/

theorem bit_read (w : Word) (i : Nat) : decide (field w.toNat i i = 1) = w.getLsbD i := by
  rw [← bitsAt_eq_field, getLsbD_eq_bitsAt]

theorem parseUProfile_eq (w0 w1 w2 w3 : Word) : parseUProfile w0 w1 w2 w3 =
    { enabled := w0.getLsbD 31, station := w0.extractLsb' 16 8, slotCount := bitsAt w0 15 0
      responseSlot := bitsAt w1 31 16, slotLength := bitsAt w1 15 8, lapseLimit := bitsAt w1 7 4
      confirmQuorum := bitsAt w1 3 0, noticeTarget := w2.extractLsb' 24 8
      timingStations := stationsOf w3 (bitsAt w2 23 16) } := by
  simp only [parseUProfile, bit_read, bitsAt_eq_field, extract_eq_ofNat_field w0 16 8, extract_eq_ofNat_field w2 24 8]

theorem parseLProfile_eq (w0 w1 w2 : Word) : parseLProfile w0 w1 w2 =
    { enabled := w0.getLsbD 31, tieEnabled := w0.getLsbD 30, station := w0.extractLsb' 16 8, slotCount := bitsAt w0 15 0
      beaconSlot := bitsAt w1 31 16, responseSlot := bitsAt w1 15 0, tieOffset := bitsAt w2 31 16
      slotLength := bitsAt w2 15 8, noticeTarget := w2.extractLsb' 0 8 } := by
  simp only [parseLProfile, bit_read, bitsAt_eq_field, extract_eq_ofNat_field w0 16 8, extract_eq_ofNat_field w2 0 8]

theorem byteOf_eq (w : Word) {k : Nat} (hk : k < 4) : byteOf w k = w.extractLsb' (24 - 8 * k) 8 := by
  rw [extract_eq_ofNat_field, byteOf, show 24 - 8 * k + 8 - 1 = 31 - 8 * k by omega]

theorem stationsOf_length (w : Word) (n : Nat) : (stationsOf w n).length = n := by
  rw [stationsOf, List.length_map, List.length_range]

theorem stationsOf_get (w : Word) {n k : Nat} (hk : k < n) : (stationsOf w n)[k]? = some (byteOf w k) := by
  rw [stationsOf, List.getElem?_map, List.getElem?_range hk, Option.map_some]

/-! ## Profiles written -/

/-- The bytes of the word of the timing stations. -/
theorem stationWord_bytes {k0 k1 k2 k3 : BitVec 8} {w : Word} (h : w = toWord (put k0.toNat 31 24 + put k1.toNat 23 16 +
    put k2.toNat 15 8 + put k3.toNat 7 0)) : w.extractLsb' 24 8 = k0 ∧ w.extractLsb' 16 8 = k1 ∧ w.extractLsb' 8 8 = k2 ∧
      w.extractLsb' 0 8 = k3 := by
  have h0 := k0.isLt
  have h1 := k1.isLt
  have h2 := k2.isLt
  have h3 := k3.isLt
  rw [put_of_lt (by omega), put_of_lt (by omega), put_of_lt (by omega), put_of_lt (by omega)] at h
  simp only [byte_iff, h]
  rw [bitsAt_toWord (by omega), bitsAt_toWord (by omega), bitsAt_toWord (by omega), bitsAt_toWord (by omega)]
  simp only [field]
  omega

/-- The word of the timing stations of a U profile. -/
def UProfile.stationWord (u : UProfile) : Word :=
  toWord (put (stationAt u.timingStations 0) 31 24 + put (stationAt u.timingStations 1) 23 16 +
    put (stationAt u.timingStations 2) 15 8 + put (stationAt u.timingStations 3) 7 0)

theorem UProfile.stationWord_byte (u : UProfile) {k : Nat} (hk : k < 4) :
    u.stationWord.extractLsb' (24 - 8 * k) 8 = u.timingStations.getD k 0 := by
  obtain ⟨h0, h1, h2, h3⟩ := stationWord_bytes (w := u.stationWord) rfl
  match k, hk with
  | 0, _ => exact h0
  | 1, _ => exact h1
  | 2, _ => exact h2
  | 3, _ => exact h3

theorem UProfile.stationsOf_stationWord {u : UProfile} (h : u.timingStations.length ≤ 4) :
    stationsOf u.stationWord u.timingStations.length = u.timingStations := by
  refine List.ext_getElem? fun k => ?_
  by_cases hk : k < u.timingStations.length
  · rw [stationsOf_get _ hk, byteOf_eq _ (by omega), u.stationWord_byte (by omega), List.getD_eq_getElem?_getD,
      List.getElem?_eq_getElem hk, Option.getD_some]
  · rw [List.getElem?_eq_none (by rw [stationsOf_length]; omega), List.getElem?_eq_none (by omega)]

theorem uProfile_written {u : UProfile} (h : u.ok = true) : ∃ w0 w1 w2 w3, u.words = [w0, w1, w2, w3] ∧
    parseUProfile w0 w1 w2 w3 = u ∧ bitsAt w0 30 24 = 0 ∧ bitsAt w2 15 0 = 0 ∧
    (∀ k, u.timingStations.length ≤ k → k < 4 → w3.extractLsb' (24 - 8 * k) 8 = 0) := by
  simp only [UProfile.ok, Bool.and_eq_true, decide_eq_true_eq] at h
  obtain ⟨⟨⟨⟨⟨⟨⟨⟨⟨⟨⟨⟨⟨⟨⟨-, -⟩, -⟩, hcount⟩, -⟩, hslot⟩, -⟩, hresponse⟩, -⟩, hlapse⟩, -⟩, hquorum⟩, hlist⟩, -⟩, -⟩, -⟩ := h
  have henabled := u.enabled.toNat_lt
  have hstation := u.station.isLt
  have htarget := u.noticeTarget.isLt
  obtain ⟨k0, k1, k2, hk0, hk1, hk2, hwords⟩ : ∃ k0 k1 k2,
      k0 = u.enabled.toNat * 2 ^ 31 + u.station.toNat * 2 ^ 16 + u.slotCount * 2 ^ 0 ∧
      k1 = u.responseSlot * 2 ^ 16 + u.slotLength * 2 ^ 8 + u.lapseLimit * 2 ^ 4 + u.confirmQuorum * 2 ^ 0 ∧
      k2 = u.noticeTarget.toNat * 2 ^ 24 + u.timingStations.length * 2 ^ 16 ∧
      u.words = [toWord k0, toWord k1, toWord k2, u.stationWord] := by
    refine ⟨_, _, _, rfl, rfl, rfl, ?_⟩
    rw [UProfile.words, UProfile.stationWord, putBit, put_of_lt (v := u.enabled.toNat) (by omega),
      put_of_lt (v := u.station.toNat) (by omega), put_of_lt (v := u.slotCount) (by omega),
      put_of_lt (v := u.responseSlot) (by omega), put_of_lt (v := u.slotLength) (by omega),
      put_of_lt (v := u.lapseLimit) (by omega), put_of_lt (v := u.confirmQuorum) (by omega),
      put_of_lt (v := u.noticeTarget.toNat) (by omega), put_of_lt (v := u.timingStations.length) (by omega)]
  have hfirst : (toWord k0).getLsbD 31 = u.enabled ∧ (toWord k0).extractLsb' 16 8 = u.station ∧
      bitsAt (toWord k0) 15 0 = u.slotCount ∧ bitsAt (toWord k0) 30 24 = 0 := by
    simp only [getLsbD_eq_iff_bitsAt, byte_iff, bitsAt_toWord (show k0 < 2 ^ 32 by omega), field]
    omega
  have hsecond : bitsAt (toWord k1) 31 16 = u.responseSlot ∧ bitsAt (toWord k1) 15 8 = u.slotLength ∧
      bitsAt (toWord k1) 7 4 = u.lapseLimit ∧ bitsAt (toWord k1) 3 0 = u.confirmQuorum := by
    simp only [bitsAt_toWord (show k1 < 2 ^ 32 by omega), field]
    omega
  have hthird : (toWord k2).extractLsb' 24 8 = u.noticeTarget ∧ bitsAt (toWord k2) 23 16 = u.timingStations.length ∧
      bitsAt (toWord k2) 15 0 = 0 := by
    simp only [byte_iff, bitsAt_toWord (show k2 < 2 ^ 32 by omega), field]
    omega
  obtain ⟨he, hs, hc, hreserved⟩ := hfirst
  obtain ⟨hr, hl, hla, hq⟩ := hsecond
  obtain ⟨ht, hn, hreserved'⟩ := hthird
  refine ⟨_, _, _, _, hwords, ?_, hreserved, hreserved', fun k hk hlt => ?_⟩
  · rw [parseUProfile_eq, he, hs, hc, hr, hl, hla, hq, ht, hn, UProfile.stationsOf_stationWord hlist]
  · rw [u.stationWord_byte hlt, List.getD_eq_default _ _ hk]

theorem lProfile_written {l : LProfile} (h : l.ok = true) : ∃ w0 w1 w2, l.words = [w0, w1, w2] ∧
    parseLProfile w0 w1 w2 = l ∧ bitsAt w0 29 24 = 0 := by
  simp only [LProfile.ok, Bool.and_eq_true, decide_eq_true_eq] at h
  obtain ⟨⟨⟨⟨⟨⟨⟨⟨⟨⟨⟨⟨-, -⟩, -⟩, hcount⟩, -⟩, hslot⟩, -⟩, hbeacon⟩, -⟩, hresponse⟩, -⟩, hoffset⟩, -⟩ := h
  have henabled := l.enabled.toNat_lt
  have htie := l.tieEnabled.toNat_lt
  have hstation := l.station.isLt
  have htarget := l.noticeTarget.isLt
  obtain ⟨k0, k1, k2, hk0, hk1, hk2, hwords⟩ : ∃ k0 k1 k2,
      k0 = l.enabled.toNat * 2 ^ 31 + l.tieEnabled.toNat * 2 ^ 30 + l.station.toNat * 2 ^ 16 + l.slotCount * 2 ^ 0 ∧
      k1 = l.beaconSlot * 2 ^ 16 + l.responseSlot * 2 ^ 0 ∧
      k2 = l.tieOffset * 2 ^ 16 + l.slotLength * 2 ^ 8 + l.noticeTarget.toNat * 2 ^ 0 ∧
      l.words = [toWord k0, toWord k1, toWord k2] := by
    refine ⟨_, _, _, rfl, rfl, rfl, ?_⟩
    rw [LProfile.words, putBit, putBit, put_of_lt (v := l.enabled.toNat) (by omega),
      put_of_lt (v := l.tieEnabled.toNat) (by omega), put_of_lt (v := l.station.toNat) (by omega),
      put_of_lt (v := l.slotCount) (by omega), put_of_lt (v := l.beaconSlot) (by omega),
      put_of_lt (v := l.responseSlot) (by omega), put_of_lt (v := l.tieOffset) (by omega),
      put_of_lt (v := l.slotLength) (by omega), put_of_lt (v := l.noticeTarget.toNat) (by omega)]
  have hfirst : (toWord k0).getLsbD 31 = l.enabled ∧ (toWord k0).getLsbD 30 = l.tieEnabled ∧
      (toWord k0).extractLsb' 16 8 = l.station ∧ bitsAt (toWord k0) 15 0 = l.slotCount ∧ bitsAt (toWord k0) 29 24 = 0 := by
    simp only [getLsbD_eq_iff_bitsAt, byte_iff, bitsAt_toWord (show k0 < 2 ^ 32 by omega), field]
    omega
  have hsecond : bitsAt (toWord k1) 31 16 = l.beaconSlot ∧ bitsAt (toWord k1) 15 0 = l.responseSlot := by
    simp only [bitsAt_toWord (show k1 < 2 ^ 32 by omega), field]
    omega
  have hthird : bitsAt (toWord k2) 31 16 = l.tieOffset ∧ bitsAt (toWord k2) 15 8 = l.slotLength ∧
      (toWord k2).extractLsb' 0 8 = l.noticeTarget := by
    simp only [byte_iff, bitsAt_toWord (show k2 < 2 ^ 32 by omega), field]
    omega
  obtain ⟨he, ht, hs, hc, hreserved⟩ := hfirst
  obtain ⟨hb, hr⟩ := hsecond
  obtain ⟨ho, hl, hn⟩ := hthird
  exact ⟨_, _, _, hwords, by rw [parseLProfile_eq, he, ht, hs, hc, hb, hr, ho, hl, hn], hreserved⟩

/-- Settles O55: each record and each profile, read field by field and read back from its words. -/
theorem recordAndProfileWordsFollowTheirTables : Obligations.RecordAndProfileWordsFollowTheirTables := by
  unfold Obligations.RecordAndProfileWordsFollowTheirTables
  intro roundsOk entryWord0 place
  have hplace : ∀ w x, place w x ↔ PlaceAt w x := fun w x => by cases x <;> exact Iff.rfl
  refine ⟨parseMailboxDef_iff, parseQueueDef_iff, fun w0 w1 e => ?_, fun w0 w1 e => ?_, fun _ => mailboxDef_written,
    fun _ => queueDef_written, fun _ => captureEntry_written, fun _ => emitEntry_written, ?_, ?_, fun _ => uProfile_written,
    fun _ => lProfile_written⟩
  · rw [hplace]
    exact parseCaptureEntry_iff w0 w1 e
  · rw [hplace]
    exact parseEmitEntry_iff w0 w1 e
  · intro w0 w1 w2 w3 u
    simp only [u, parseUProfile_eq]
    refine ⟨trivial, trivial, trivial, trivial, trivial, trivial, trivial, trivial, stationsOf_length _ _, fun k hk hlt => ?_⟩
    rw [stationsOf_get _ hk, byteOf_eq _ hlt]
  · intro w0 w1 w2 l
    simp only [l, parseLProfile_eq, and_self]

end Sys2Proof.Machine
end

section
/-! Headers and cells on the line (Table 12-1, R5, R170, R174). -/

set_option Elab.async false

namespace Sys2Proof.Machine

/-! ## Fields of a header -/

theorem extract_toNat {n : Nat} (x : BitVec n) {lo len hi : Nat} (h : hi + 1 - lo = len) :
    (x.extractLsb' lo len).toNat = field x.toNat hi lo := by
  rw [BitVec.extractLsb'_toNat, Nat.shiftRight_eq_div_pow, field, h]

theorem getLsbD_eq_field {n : Nat} (x : BitVec n) (i : Nat) : x.getLsbD i = decide (field x.toNat i i = 1) := by
  rw [field, show i + 1 - i = 1 by omega, BitVec.getLsbD, Nat.testBit_eq_decide_div_mod_eq, pow_one]

theorem cellKindOf_eq_some {k : Nat} {x : CellKind} : cellKindOf k = some x ↔ k = x.code := by
  unfold cellKindOf
  split <;> cases x <;> simp_all [CellKind.code]

theorem kindFieldsOk_iff (k : CellKind) (dest length : Nat) : kindFieldsOk k dest length = true ↔
    (k = .data ∨ k = .void ∨ k = .beacon → dest = 0) ∧ (k = .void → length = 0) ∧ (k = .beacon → length = 1) := by
  cases k <;> simp [kindFieldsOk]

/-- The byte in bits `hi` to `lo` as a station. -/
theorem station_iff {n : Nat} (x : BitVec n) {lo hi : Nat} (h : hi + 1 - lo = 8) (v : BitVec 8) :
    BitVec.ofNat 8 (field x.toNat hi lo) = v ↔ x.extractLsb' lo 8 = v := by
  rw [← extract_toNat x h, BitVec.ofNat_toNat, BitVec.setWidth_eq]

/-- A legal header (R5). -/
def Header.Legal (h : Header) : Prop :=
  1 ≤ h.slot ∧ h.slot ≤ 1023 ∧ h.source ≠ 0 ∧ h.source ≠ 255 ∧ h.dest ≠ 255 ∧
    h.length ≤ 12 ∧ (h.kind = .data ∨ h.kind = .void ∨ h.kind = .beacon → h.dest = 0) ∧
    (h.kind = .void → h.length = 0) ∧ (h.kind = .beacon → h.length = 1)

/-- The fields of a header in its 64 bits (Table 12-1). -/
def Header.At (h : Header) (x : BitVec 64) : Prop :=
  (x.extractLsb' 61 3).toNat = h.kind.code ∧ x.getLsbD 60 = h.stale ∧ (x.extractLsb' 48 8).toNat = h.round.toNat ∧
    (x.extractLsb' 32 10).toNat = h.slot ∧ x.extractLsb' 24 8 = h.source ∧ x.extractLsb' 16 8 = h.dest ∧
    (x.extractLsb' 8 8).toNat = h.length

/-- A byte that holds a round. -/
theorem round_iff {k : Nat} {r : Round} (hk : k < 256) : (k ≤ 127 ∧ BitVec.ofNat 7 k = r) ↔ k = r.toNat := by
  rw [← BitVec.toNat_inj, BitVec.toNat_ofNat]
  have := r.isLt
  omega

theorem checked_iff (x : BitVec 64) : headerCheck (BitVec.ofNat 56 (x.toNat / 2 ^ 8)) = BitVec.ofNat 8 x.toNat ↔
    headerCheck (x.extractLsb' 8 56) = x.extractLsb' 0 8 := by
  have hbytes : BitVec.ofNat 56 (x.toNat / 2 ^ 8) = x.extractLsb' 8 56 := by
    apply BitVec.eq_of_toNat_eq
    rw [BitVec.toNat_ofNat, BitVec.extractLsb'_toNat, Nat.shiftRight_eq_div_pow]
  have hcheck : BitVec.ofNat 8 x.toNat = x.extractLsb' 0 8 := by
    apply BitVec.eq_of_toNat_eq
    rw [BitVec.toNat_ofNat, BitVec.extractLsb'_toNat, Nat.shiftRight_zero]
  rw [hbytes, hcheck]

theorem station_eq {n : Nat} (x : BitVec n) {lo hi k : Nat} (h : hi + 1 - lo = 8) (hk : k < 256) :
    field x.toNat hi lo = k ↔ x.extractLsb' lo 8 = BitVec.ofNat 8 k := by
  rw [← extract_toNat x h, ← BitVec.toNat_inj, BitVec.toNat_ofNat, Nat.mod_eq_of_lt hk]

theorem parseHeader_iff (x : BitVec 64) (h : Header) : parseHeader x = some h ↔
    headerCheck (x.extractLsb' 8 56) = x.extractLsb' 0 8 ∧ h.At x ∧ h.Legal := by
  obtain ⟨kind, stale, round, slot, source, dest, length⟩ := h
  have hslot : field x.toNat 41 32 < 1024 := field_lt _ 41 32
  have hround : field x.toNat 55 48 < 256 := field_lt _ 55 48
  simp only [Header.At, Header.Legal, extract_toNat x (show 63 + 1 - 61 = 3 from rfl), extract_toNat x (show 55 + 1 - 48 = 8 from rfl),
    extract_toNat x (show 41 + 1 - 32 = 10 from rfl), extract_toNat x (show 15 + 1 - 8 = 8 from rfl), getLsbD_eq_field,
    ← cellKindOf_eq_some, ← round_iff hround]
  unfold parseHeader
  dsimp only
  cases hk : cellKindOf (field x.toNat 63 61) with
  | none => simp
  | some k =>
    simp only [Option.ite_none_right_eq_some, Option.some.injEq, Header.mk.injEq, Bool.and_eq_true, decide_eq_true_eq,
      checked_iff, kindFieldsOk_iff, station_iff x (show 31 + 1 - 24 = 8 from rfl), station_iff x (show 23 + 1 - 16 = 8 from rfl),
      ne_eq]
    have hsource : ∀ v, v < 256 → (field x.toNat 31 24 = v ↔ x.extractLsb' 24 8 = BitVec.ofNat 8 v) := fun v =>
      station_eq x (show 31 + 1 - 24 = 8 from rfl)
    have hdest : ∀ v, v < 256 → (field x.toNat 23 16 = v ↔ x.extractLsb' 16 8 = BitVec.ofNat 8 v) := fun v =>
      station_eq x (show 23 + 1 - 16 = 8 from rfl)
    rw [hsource 0 (by omega), hsource 255 (by omega), hdest 255 (by omega), hdest 0 (by omega)]
    constructor
    · rintro ⟨⟨⟨⟨⟨⟨⟨⟨hcheck, hr⟩, hs⟩, hs0⟩, hs255⟩, hd255⟩, hlength⟩, hkind⟩, rfl, rfl, hround', rfl, rfl, rfl, rfl⟩
      exact ⟨hcheck, ⟨rfl, rfl, ⟨hr, hround'⟩, rfl, rfl, rfl, rfl⟩, by omega, by omega, hs0, hs255, hd255, hlength, hkind⟩
    · rintro ⟨hcheck, ⟨rfl, rfl, ⟨hr, hround'⟩, rfl, rfl, rfl, rfl⟩, hs, -, hs0, hs255, hd255, hlength, hkind⟩
      exact ⟨⟨⟨⟨⟨⟨⟨⟨hcheck, hr⟩, by omega⟩, hs0⟩, hs255⟩, hd255⟩, hlength⟩, hkind⟩, rfl, rfl, hround', rfl, rfl, rfl, rfl⟩

/-! ## Headers written -/

theorem cellKindCode_lt (k : CellKind) : k.code < 8 := by cases k <;> decide

theorem Header.bytes_toNat {h : Header} (hl : h.Legal) : h.bytes.toNat =
    h.kind.code * 2 ^ 53 + h.stale.toNat * 2 ^ 52 + h.round.toNat * 2 ^ 40 + h.slot * 2 ^ 24 + h.source.toNat * 2 ^ 16 +
      h.dest.toNat * 2 ^ 8 + h.length * 2 ^ 0 := by
  obtain ⟨-, hslot, -, -, -, hlength, -⟩ := hl
  have hkind := cellKindCode_lt h.kind
  have hstale := h.stale.toNat_lt
  have hround := h.round.isLt
  have hsource := h.source.isLt
  have hdest := h.dest.isLt
  rw [Header.bytes, putBit, put_of_lt (v := h.kind.code) (by omega), put_of_lt (v := h.stale.toNat) (by omega),
    put_of_lt (v := h.round.toNat) (by omega), put_of_lt (v := h.slot) (by omega), put_of_lt (v := h.source.toNat) (by omega),
    put_of_lt (v := h.dest.toNat) (by omega), put_of_lt (v := h.length) (by omega), BitVec.toNat_ofNat,
    Nat.mod_eq_of_lt (by omega)]

theorem Header.wire_toNat (h : Header) : h.wire.toNat = h.bytes.toNat * 2 ^ 8 + (headerCheck h.bytes).toNat := by
  have hbytes := h.bytes.isLt
  have hcheck := (headerCheck h.bytes).isLt
  rw [Header.wire, BitVec.toNat_ofNat, Nat.mod_eq_of_lt (by omega)]

theorem Header.wire_checked (h : Header) : h.wire.extractLsb' 8 56 = h.bytes ∧ h.wire.extractLsb' 0 8 = headerCheck h.bytes := by
  have hbytes := h.bytes.isLt
  have hcheck := (headerCheck h.bytes).isLt
  constructor
  · apply BitVec.eq_of_toNat_eq
    rw [extract_toNat h.wire (show 63 + 1 - 8 = 56 from rfl), h.wire_toNat, field]
    omega
  · apply BitVec.eq_of_toNat_eq
    rw [extract_toNat h.wire (show 7 + 1 - 0 = 8 from rfl), h.wire_toNat, field]
    omega

theorem bit_eq_iff {n : Nat} (x : BitVec n) (i : Nat) (b : Bool) : x.getLsbD i = b ↔ field x.toNat i i = b.toNat := by
  have hbit : field x.toNat i i < 2 := by
    rw [field, show i + 1 - i = 1 by omega]
    exact Nat.mod_lt _ (by decide)
  rw [getLsbD_eq_field]
  cases b with
  | false => simp only [decide_eq_false_iff_not, Bool.toNat_false]; omega
  | true => simp only [decide_eq_true_eq, Bool.toNat_true]

/-- The header that the bridge sends holds its fields, its reserved bits being 0. -/
theorem Header.wire_fields {h : Header} (hl : h.Legal) : h.At h.wire ∧ h.wire.extractLsb' 56 4 = 0 ∧
    h.wire.extractLsb' 42 6 = 0 := by
  have hbytes := h.bytes_toNat hl
  have hwire := h.wire_toNat
  obtain ⟨-, hslot, -, -, -, hlength, -⟩ := hl
  have hcheck := (headerCheck h.bytes).isLt
  have hkind := cellKindCode_lt h.kind
  have hstale := h.stale.toNat_lt
  have hround := h.round.isLt
  have hsource := h.source.isLt
  have hdest := h.dest.isLt
  generalize (headerCheck h.bytes).toNat = check at hwire hcheck
  rw [hbytes] at hwire
  simp only [Header.At, ← BitVec.toNat_inj, extract_toNat h.wire (show 63 + 1 - 61 = 3 from rfl),
    extract_toNat h.wire (show 55 + 1 - 48 = 8 from rfl), extract_toNat h.wire (show 41 + 1 - 32 = 10 from rfl),
    extract_toNat h.wire (show 15 + 1 - 8 = 8 from rfl), extract_toNat h.wire (show 31 + 1 - 24 = 8 from rfl),
    extract_toNat h.wire (show 23 + 1 - 16 = 8 from rfl), extract_toNat h.wire (show 59 + 1 - 56 = 4 from rfl),
    extract_toNat h.wire (show 47 + 1 - 42 = 6 from rfl), bit_eq_iff, hwire, field]
  refine ⟨⟨?_, ?_, ?_, ?_, ?_, ?_, ?_⟩, ?_, ?_⟩
  all_goals
    have hzero4 : (0 : BitVec 4).toNat = 0 := rfl
    have hzero6 : (0 : BitVec 6).toNat = 0 := rfl
    omega

end Sys2Proof.Machine
end

section
/-! The checks of cells and their bytes on the line (12.1, R14, R174). -/

set_option Elab.async false

namespace Sys2Proof.Machine

/-! ## A check after the bits it covers -/

theorem bitsOf_eq {n : Nat} (x : BitVec n) : bitsOf x = (List.range n).map fun i => x.getLsbD (n - 1 - i) := rfl

/-- A register into which its own bits are shifted, most significant first, holds what is left of them. -/
theorem crc_own_bits {n : Nat} (poly c : BitVec n) {k : Nat} (hk : k ≤ n) :
    ((List.range k).map fun i => c.getLsbD (n - 1 - i)).foldl (crcStep poly) c = c <<< k := by
  induction k with
  | zero => rw [BitVec.shiftLeft_zero]; rfl
  | succ k ih =>
    have hmsb : (c <<< k).msb = c.getLsbD (n - 1 - k) := by
      rw [BitVec.msb_eq_getLsbD_last, BitVec.getLsbD_shiftLeft]
      simp [show n - 1 < n by omega, show ¬n - 1 < k by omega]
    rw [List.range_succ, List.map_append, List.foldl_append, ih (by omega)]
    simp only [List.map_cons, List.map_nil, List.foldl_cons, List.foldl_nil, crcStep, hmsb, bne_self_eq_false,
      Bool.false_eq_true, if_false]
    rw [← BitVec.shiftLeft_add]

theorem crc_followed {n : Nat} (poly start : BitVec n) (bits : List Bool) :
    (bits ++ bitsOf (bits.foldl (crcStep poly) start)).foldl (crcStep poly) start = 0 := by
  rw [List.foldl_append, bitsOf_eq, crc_own_bits poly _ (le_refl n), BitVec.shiftLeft_eq_zero (le_refl n)]
  rfl

/-! ## Bytes -/

theorem bytesOf_length (x k : Nat) : (bytesOf x k).length = k := by
  induction k generalizing x with
  | zero => rfl
  | succ k ih => rw [bytesOf, List.length_append, ih, List.length_singleton]

theorem bytesOf_get (x : Nat) {k i : Nat} (hi : i < k) :
    (bytesOf x k)[i]? = some (BitVec.ofNat 8 (x / 2 ^ (8 * (k - 1 - i)))) := by
  induction k generalizing x with
  | zero => omega
  | succ k ih =>
    rw [bytesOf]
    by_cases hlast : i < k
    · rw [List.getElem?_append_left (by rw [bytesOf_length]; exact hlast), ih _ hlast, Nat.div_div_eq_div_mul, ← Nat.pow_add,
        show 8 + 8 * (k - 1 - i) = 8 * (k + 1 - 1 - i) by omega]
    · obtain rfl : i = k := by omega
      rw [List.getElem?_append_right (by rw [bytesOf_length]), bytesOf_length, Nat.sub_self, Nat.add_sub_cancel, Nat.sub_self,
        Nat.mul_zero, pow_zero, Nat.div_one]
      rfl

/-- Byte `i` of the bytes of a number of bits. -/
theorem bytesOf_bits {n : Nat} (x : BitVec n) {k i : Nat} (hi : i < k) :
    (bytesOf x.toNat k)[i]? = some (x.extractLsb' (8 * (k - 1 - i)) 8) := by
  rw [bytesOf_get _ hi]
  congr 1
  apply BitVec.eq_of_toNat_eq
  rw [BitVec.toNat_ofNat, BitVec.extractLsb'_toNat, Nat.shiftRight_eq_div_pow]

/-- Lists of one length each, joined. -/
theorem flatMap_length {α β : Type} {f : α → List β} {k : Nat} (hf : ∀ x, (f x).length = k) (l : List α) :
    (l.flatMap f).length = k * l.length := by
  induction l with
  | nil => rfl
  | cons x l ih => rw [List.flatMap_cons, List.length_append, hf, ih, List.length_cons, Nat.mul_add, Nat.mul_one, Nat.add_comm]

theorem flatMap_get {α β : Type} {f : α → List β} {k : Nat} (hf : ∀ x, (f x).length = k) {l : List α} {i j : Nat} {x : α}
    (hx : l[i]? = some x) (hj : j < k) : (l.flatMap f)[k * i + j]? = (f x)[j]? := by
  induction l generalizing i with
  | nil => cases hx
  | cons y l ih =>
    rw [List.flatMap_cons]
    cases i with
    | zero =>
      obtain rfl : y = x := Option.some.inj hx
      rw [Nat.mul_zero, Nat.zero_add, List.getElem?_append_left (by rw [hf]; exact hj)]
    | succ i =>
      rw [List.getElem?_append_right (by rw [hf, Nat.mul_add]; omega), hf,
        show k * (i + 1) + j - k = k * i + j by rw [Nat.mul_add]; omega]
      exact ih hx

/-! ## The bytes of a cell -/

section
variable (c : Cell)

/-- The bytes of the payload words. -/
def Cell.body : List Byte := c.payload.flatMap (bytesOf ·.toNat 4)

theorem Cell.body_length : c.body.length = 4 * c.payload.length := flatMap_length (fun _ => bytesOf_length _ _) c.payload

theorem Cell.bytes_of_empty (h : c.payload = []) : c.bytes = bytesOf c.header.wire.toNat 8 := by
  rw [Cell.bytes, h]
  exact List.append_nil _

theorem Cell.bytes_of_payload (h : c.payload ≠ []) :
    c.bytes = bytesOf c.header.wire.toNat 8 ++ (c.body ++ bytesOf (payloadCheck c.payload).toNat 2) := by
  rw [Cell.bytes, if_neg (by simpa [List.isEmpty_iff] using h)]
  rfl

theorem Cell.bytes_header {i : Nat} (hi : i < 8) : c.bytes[i]? = some (c.header.wire.extractLsb' (8 * (7 - i)) 8) := by
  rw [Cell.bytes, List.getElem?_append_left (by rw [bytesOf_length]; exact hi), bytesOf_bits _ hi]

theorem Cell.bytes_word {i k : Nat} {w : Word} (hw : c.payload[i]? = some w) (hk : k < 4) :
    c.bytes[8 + 4 * i + k]? = some (w.extractLsb' (8 * (3 - k)) 8) := by
  have hne : c.payload ≠ [] := fun hno => by rw [hno] at hw; cases hw
  have hi : i < c.payload.length := (List.getElem?_eq_some_iff.1 hw).1
  rw [c.bytes_of_payload hne, List.getElem?_append_right (by rw [bytesOf_length]; omega), bytesOf_length,
    show 8 + 4 * i + k - 8 = 4 * i + k by omega, List.getElem?_append_left (by rw [c.body_length]; omega), Cell.body,
    flatMap_get (fun _ => bytesOf_length _ _) hw hk, bytesOf_bits _ hk]

theorem Cell.bytes_check (h : c.payload ≠ []) {j : Nat} (hj : j < 2) :
    c.bytes[8 + 4 * c.payload.length + j]? = some ((payloadCheck c.payload).extractLsb' (8 * (1 - j)) 8) := by
  rw [c.bytes_of_payload h, List.getElem?_append_right (by rw [bytesOf_length]; omega), bytesOf_length,
    show 8 + 4 * c.payload.length + j - 8 = 4 * c.payload.length + j by omega,
    List.getElem?_append_right (by rw [c.body_length]; omega), c.body_length, Nat.add_sub_cancel_left, bytesOf_bits _ hj]

theorem Cell.bytes_length : c.bytes.length = if c.payload.length = 0 then 8 else 8 + 4 * c.payload.length + 2 := by
  by_cases h : c.payload = []
  · rw [c.bytes_of_empty h, bytesOf_length, if_pos (by rw [h]; rfl)]
  · rw [c.bytes_of_payload h, List.length_append, List.length_append, bytesOf_length, bytesOf_length, c.body_length,
      if_neg (by rwa [List.length_eq_zero_iff]), Nat.add_assoc]

end

/-- Settles O53: headers read and written, the bytes of a cell, and both checks. -/
theorem cellsFollowTheirTable : Obligations.CellsFollowTheirTable := by
  unfold Obligations.CellsFollowTheirTable
  intro legal
  refine ⟨fun x h => ?_, fun h hl => ?_, fun s p c hc hlen => ?_, fun bytes => crc_followed _ _ _, fun words => crc_followed _ _ _⟩
  · rw [parseHeader_iff, Header.At, Header.Legal]
    simp only [legal, and_assoc]
  · obtain ⟨hat, hreserved⟩ := Header.wire_fields (h := h) hl
    obtain ⟨hbytes, hcheck⟩ := h.wire_checked
    exact ⟨(parseHeader_iff _ _).2 ⟨by rw [hbytes, hcheck], hat, hl⟩, hreserved⟩
  · have hne : c.header.length ≠ 0 → c.payload ≠ [] := fun h hno => h (by rw [← hlen, hno]; rfl)
    refine ⟨c.bytes, payloadCheck c.payload, by rw [State.onLine, hc]; rfl, rfl, by rw [c.bytes_length, hlen],
      fun i hi => c.bytes_header hi, fun i w k hw hk => c.bytes_word hw hk, fun h => ⟨?_, ?_, fun hkind => ?_⟩⟩
    · rw [← hlen]
      exact c.bytes_check (hne h) (j := 0) (by omega)
    · rw [← hlen]
      exact c.bytes_check (hne h) (j := 1) (by omega)
    · simp [payloadValid, hkind]

end Sys2Proof.Machine
end
